-- ==== Sys2Proof/Word.lean ====
section
/-! DEFINITION. The words the node's registers, frames and responses are made of. -/

namespace Sys2Proof

/-- A byte of a frame body, an event record or a Local Port response. -/
abbrev Byte := BitVec 8

/-- A day number, counted on a circle of 65,536 days (R1). -/
abbrev Day := BitVec 16

/-- A node number, 0 to 15 (00_scope.md section 0.5). -/
abbrev NodeNo := Fin 16

/-- A contact input's number, IN0 to IN15. -/
abbrev InputNo := Fin 16

end Sys2Proof
end

