-- ==== Sys2Proof/Syntax.lean ====
section
/-! DEFINITION. The commands of the node: one constructor of `Instr` for each row of
spec/opcode_table.json, with the operands the environment gives it.

Every command carries `wait`: how long after the command before it this one comes, in microseconds of
the main oscillator in RUN and in cycles of the backup oscillator in KEEP-ALIVE and RESTORING (log 1). -/

namespace Sys2Proof

/-- A date: a day number and a microsecond of day (00_scope.md section 0.5). -/
structure Date where
  day : Day
  us  : Nat
deriving DecidableEq, Repr

/-- A shift key: the day and the boundary index of the shift that begins there (00_scope.md section 0.5). -/
structure ShiftKey where
  day   : Day
  index : Nat
deriving DecidableEq, Repr

/-- What makes a receiver count a form error (R17), abandonment apart (its own row). -/
inductive FormErrorCause where
  /-- The header byte's kind code is none of 1 to 4. -/
  | invalidKind (header : Byte)
  /-- A stop condition before the end of the acknowledge bit. -/
  | earlyStop
  /-- After a matching check, a further clock pulse in place of the stop condition. -/
  | clockAfterAck
  /-- A fall of LDAT while LCLK is high within the frame, after a matching check or before. -/
  | ldatFall (matched : Bool)
deriving DecidableEq, Repr

/-- Which supply returns from OFF (R168). -/
inductive SupplyReturned where
  | vdd | vbk | both
deriving DecidableEq, Repr

/-- The eight fields of Table 7-1, as PRESET TALLY carries them and as the tally record holds them. -/
structure TallyFields where
  online      : BitVec 40
  spinning    : BitVec 40
  revolutions : BitVec 32
  starts      : BitVec 24
  syncs       : BitVec 24
  trips       : BitVec 24
  normalStops : BitVec 24
  outage      : BitVec 32
deriving DecidableEq, Repr

/-- The four lamps (R183). -/
inductive Lamp where
  | l0 | l1 | l2 | l3
deriving DecidableEq, Repr

/-- When an ACCEPT TALLY comes: its wait, and whether a store check failure reaches the Run Unit together with it and is
taken second (R127, log 22). -/
structure AcceptArrival where
  wait    : Nat
  finding : Bool
deriving DecidableEq, Repr

/-- When a frame in reception ends other than by its stop condition: the wait, and whether its check had been found
matching, so that it was acknowledged (R12). -/
structure BreakArrival where
  wait    : Nat
  matched : Bool
deriving DecidableEq, Repr

/-- When the line goes IDLE: the wait, and how long both wires have been high by then, in microseconds (R6, R19). -/
structure HighArrival where
  wait : Nat
  high : Nat
deriving DecidableEq, Repr

/-- When a loss of main supply or an assertion of RSTN comes: its wait, and how many of the steps of OPEN had been
reached where it comes while OPEN executes (R179, log 22). -/
structure ResetArrival where
  wait    : Nat
  midOpen : Option Nat
deriving DecidableEq, Repr

/-- The commands: one constructor for each row of the table. -/
inductive Instr where
  -- Local Port commands (R173 to R179, R187)
  | configure (wait : Nat) (block : List Byte)
  | openNode (wait : Nat)
  | setTime (wait : Nat) (day : Day) (us : BitVec 40)
  | presetTally (wait : Nat) (fields : TallyFields)
  | acceptTally (arrival : AcceptArrival)
  | readStatus (wait : Nat)
  | readEvent (wait : Nat)
  | readCascade (wait : Nat)
  | readRound (wait : Nat)
  | readTally (wait : Nat)
  | readShift (wait : Nat) (position : Byte)
  | readStationShift (wait : Nat)
  | ackAttention (wait : Nat) (mask : BitVec 16)
  -- Local Port transactions: the bytes clocked in, whether LSEL rose inside a byte, and whether the
  -- transaction falls while an earlier command executes (R175)
  | commandTransaction (wait : Nat) (bytes : List Byte) (insideByte whileExecuting : Bool)
  | readTransaction (wait : Nat) (clocked : Nat) (whileExecuting : Bool)
  -- the Station Line
  | startCondition (wait : Nat)
  | lineIdle (arrival : HighArrival)
  | frameAbandoned (arrival : BreakArrival)
  | sendBegin (wait : Nat)
  | contentionJoin (wait : Nat)
  | arbitrationLoss (wait : Nat) (bit : Nat)
  | driverFault (wait : Nat) (bit : Nat)
  | attemptEnd (wait : Nat) (heard : Bool)
  | frameReceivedIntact (wait : Nat) (header : Byte) (body : List Byte) (check : BitVec 16)
  | checkError (wait : Nat) (header : Byte) (body : List Byte) (check : BitVec 16) (stopped : Bool)
  | formError (wait : Nat) (cause : FormErrorCause)
  | lineStuck (arrival : BreakArrival)
  | lineStuckLeft (wait : Nat)
  -- the clock, rounds and the reference second
  | oscillatorSecond (wait : Nat)
  | roundBoundary (wait : Nat)
  | roundClose (wait : Nat)
  | refsecEdge (wait : Nat)
  | refsecSilence (wait : Nat)
  -- contact inputs; `high`: the electrical level of the first sample
  | firstSample (wait : Nat) (input : InputNo) (high : Bool)
  | qualifiedChange (wait : Nat) (input : InputNo)
  | chatterWindowExpiry (wait : Nat) (input : InputNo)
  -- cascades and stops
  | cascadeClose (wait : Nat)
  | stopDeadline (wait : Nat)
  -- shaft speed and run state
  | spdEdge (wait : Nat)
  | speedSilence (wait : Nat)
  | speedSilent (wait : Nat)
  | oscillatorTenth (wait : Nat)
  -- shifts
  | shiftBoundaryReached (wait : Nat)
  | earlyMark (wait : Nat)
  | graceExpiry (wait : Nat)
  | pairingTimeout (wait : Nat)
  | gatherExpiry (wait : Nat) (key : ShiftKey)
  -- supplies and resets; the straps ID3 to ID0 and SP1, SP0 as they stand when they are read
  | mainSupplyLoss (arrival : ResetArrival)
  | backupSupplyLoss (wait : Nat)
  | mainSupplyReturn (wait : Nat)
  | restoreWaitEnd (wait : Nat) (id : NodeNo) (sp : BitVec 2)
  | coldStart (wait : Nat) (returned : SupplyReturned)
  | rstnAssert (arrival : ResetArrival)
  | rstnRelease (wait : Nat) (id : NodeNo) (sp : BitVec 2)
  -- the store check
  | storeCheckPassStart (wait : Nat)
  | storeCheckTest (wait : Nat)
  | storeCheckPassEnd (wait : Nat)
  -- lamps
  | lampBlinkPhase (wait : Nat) (lamp : Lamp)
  | lampFlashEnd (wait : Nat)
  -- the rows the table lists last
  | sampleSlot (wait : Nat) (levels : BitVec 16)
  | notAStart (wait : Nat)
  | backupSupplyReturn (wait : Nat)
deriving DecidableEq, Repr

end Sys2Proof
end

