-- ==== Sys2Proof/Decode.lean ====
section
/-! DEFINITION. The word decoder of the interface. No row of the table gives bits, so no word spells a command
(log 6). -/

namespace Sys2Proof

/-- The command a word spells by the table's bits: none, for the table gives no row any bits (log 6). -/
def decodeTableWord (_nbits _w : Nat) : Option Instr := none

end Sys2Proof
end

