-- ==== Sys2Proof/Machine/State.lean ====
section
/-! DEFINITION. The state of the node: every piece of state the manual gives it, as plain data, block by
block (00_scope.md table 0-1), and the state right after reset. -/

namespace Sys2Proof.Machine

/-! ### Clock -/

/-- The five clock states; every date carries the one in force as its quality (Table 2-1). -/
inductive ClockState where
  | solo | joining | agreed | holdover | referenced
deriving DecidableEq, Repr

/-- A date with its quality. -/
structure Stamp where
  date    : Date
  quality : ClockState
deriving DecidableEq, Repr

/-- A start condition: its date, quality and oscillator time (R7, R34); also the first sample of a run (R61). -/
structure Start where
  date    : Date
  quality : ClockState
  osc     : Nat
deriving DecidableEq, Repr

/-- The local clock (backup domain, R25, R27). -/
structure Clock where
  date  : Date
  valid : Bool
deriving DecidableEq, Repr

/-- A round's key: day and second of day (R31). -/
structure RoundKey where
  day    : Day
  second : Nat
deriving DecidableEq, Repr

/-- The time base: elapsed time, the oscillator second in progress and what it still spreads. -/
structure Timebase where
  /-- Elapsed microseconds on the main oscillator. -/
  elapsed     : Nat
  /-- Elapsed time at the start of the current oscillator second (R28, R112). -/
  secondStart : Nat
  /-- The signed amount being spread over this oscillator second (R28). -/
  spread      : Int
  /-- How many of its one-microsecond points have been applied. -/
  spreadDone  : Nat
  /-- The own round boundary the clock has reached and that has not been taken yet (R31, R32). -/
  boundaryDue : Option RoundKey
deriving DecidableEq, Repr

/-- The status byte of a MARK as read: three bits of clock state code and the time-valid flag (Table 12-3). -/
structure MarkStatus where
  code  : BitVec 3
  valid : Bool
deriving DecidableEq, Repr

/-- The disposition of a round table entry (R35). -/
inductive Disposition where
  | eligible | notSound | foreign | edge | outOfSpan
deriving DecidableEq, Repr

/-- One entry of a round table (R35, R36). -/
structure RoundEntry where
  node        : NodeNo
  status      : MarkStatus
  key         : RoundKey
  reading     : Int
  edgeSender  : NodeNo
  disposition : Disposition
deriving DecidableEq, Repr

/-- The open round (R31 to R36); the own entry is made from `ownReading` at the close. -/
structure Round where
  key        : RoundKey
  edge       : Option Stamp
  edgeSender : NodeNo
  ownReading : Option Int
  entries    : List RoundEntry
deriving DecidableEq, Repr

/-- What a round close did to the clock (R52). -/
inductive CloseAction where
  | none | slew | step
deriving DecidableEq, Repr

/-- The last closed round (R38, R52); for a short round `used`, `trim`, `midpoint` and `correction` are 0. -/
structure ClosedRound where
  key          : RoundKey
  full         : Bool
  stateAtClose : ClockState
  edge         : Option Stamp
  edgeSender   : NodeNo
  ownReading   : Option Int
  used         : Nat
  trim         : Nat
  midpoint     : Int
  correction   : Int
  action       : CloseAction
  entries      : List RoundEntry
deriving DecidableEq, Repr

/-- The reference monitor with the count it holds (Table 2-4). -/
inductive Monitor where
  | searching (good : Nat)
  | locked (bad : Nat)
deriving DecidableEq, Repr

/-- The latest foreign sound MARK: its implied time and the oscillator time of its named edge (R43). -/
structure ForeignMark where
  implied : Date
  edgeOsc : Nat
deriving DecidableEq, Repr

/-- The Clock Unit's main-domain state (R53). -/
structure Clu where
  state          : ClockState
  /-- The pending slew P (R28). -/
  p              : Int
  round          : Option Round
  lastClosed     : Option ClosedRound
  /-- The key of the last round closed or abandoned (R31). -/
  lastKey        : Option RoundKey
  startList      : Vector (Option Start) 16
  formation      : Nat
  short          : Nat
  outlier        : Nat
  split          : Nat
  /-- Senders counted as foreign sound senders since the last round close (R43), without repeats. -/
  foreignSenders : List NodeNo
  latestForeign  : Option ForeignMark
  monitor        : Monitor
  /-- The reference edge being timed, if one is (R47). -/
  refEdge        : Option Nat
  /-- The moment the reference silence is counted from (R47). -/
  refMark        : Nat
deriving DecidableEq, Repr

/-! ### Station Line -/

/-- The states of the line view (Table 1-2); `stuck` is LINE STUCK. -/
inductive LineView where
  | quiet | idle | frame | stuck
deriving DecidableEq, Repr

/-- The four kinds of frame (Table 1-3). -/
inductive FrameKind where
  | trip | handover | mark | tally
deriving DecidableEq, Repr

/-- The outcomes a HANDOVER frame can carry (R150); UNKNOWN is the absence of one. -/
inductive HandoverOutcome where
  | early | onTime | late | missed
deriving DecidableEq, Repr

/-- What a TALLY frame carries beside its key (Table 12-4). -/
structure TallyValues where
  online      : BitVec 24
  spinning    : BitVec 24
  starts      : Byte
  syncs       : Byte
  trips       : Byte
  normalStops : Byte
  flags       : Byte
deriving DecidableEq, Repr

/-- What a queued frame carries; a MARK's body is filled at its send, from its round (R15). -/
inductive FrameContent where
  | trip (change : Stamp) (input : InputNo) (active : Bool)
  | handover (key : ShiftKey) (outcome : HandoverOutcome) (completion : Date) (due : BitVec 16)
  | mark (key : RoundKey)
  | tally (key : ShiftKey) (values : TallyValues)
deriving DecidableEq, Repr

/-- One place of the send list (section 1.8). -/
structure QueuedFrame where
  content      : FrameContent
  queuedAt     : Nat
  attempts     : Nat
  inSend       : Bool
  /-- A removal was asked for while the frame was in a send (R22). -/
  removalAsked : Bool
deriving DecidableEq, Repr

/-- A send in progress: the bytes from header to check, and its start date (R9). -/
structure Send where
  bytes : List Byte
  start : Start
deriving DecidableEq, Repr

/-- The seven line counters (R23). -/
structure LineCounters where
  intact      : BitVec 16
  checkErrors : BitVec 16
  formErrors  : BitVec 16
  unheard     : BitVec 16
  arbitration : BitVec 16
  displaced   : BitVec 16
  lateMarks   : BitVec 16
deriving DecidableEq, Repr

/-- The Line Interface (main domain, R24). -/
structure Lif where
  /-- The node's own drivers pull LCLK, LDAT low or take part in a send (R2, log 19). -/
  lclkDriven  : Bool
  ldatDriven  : Bool
  view        : LineView
  /-- The start condition of the frame on the line (R7). -/
  start       : Option Start
  /-- The frame on the line has been counted under an error counter (R17). -/
  counted     : Bool
  /-- The first fall of LCLK after the start condition is still to come (R9). -/
  joinable    : Bool
  /-- The earliest moment since which both wires can have been high without a break: the start of the waits of R6, of
  the own idle gap and of LINE STUCK's end (R3, log 19). -/
  highFrom    : Nat
  /-- The node has driven the acknowledge bit of the frame last begun (R12). -/
  acked       : Bool
  sendList    : List QueuedFrame
  send        : Option Send
  /-- A MARK request waiting for the end of a MARK's send (R20). -/
  waitingMark : Option RoundKey
  counters    : LineCounters
  nodeNumber  : NodeNo
  /-- SP1, SP0 as read (R3). -/
  lineSpeed   : BitVec 2
deriving DecidableEq, Repr

/-! ### Contact inputs -/

/-- The chatter state of an input (Table 3-5); a LOCKED input's change count is Nc. -/
inductive Chatter where
  | quiet
  | counting (expiry count : Nat)
  | locked (expiry : Nat) (suppressed : BitVec 16) (last : Option Stamp)
deriving DecidableEq, Repr

/-- A sample that a slot has taken and whose handling is still to come, as the first sample of its input or as the one
that completes a run (R59, R60, R61, log 28). -/
inductive SampleDue where
  | none
  | first (active : Bool) (stamp : Stamp)
  | change (first : Start)
deriving DecidableEq, Repr

/-- One contact input (section 3.1); `level` is the qualified level, true for ACTIVE. -/
structure InputState where
  level   : Option Bool
  run     : Nat
  first   : Option Start
  chatter : Chatter
  owed    : SampleDue
deriving DecidableEq, Repr

/-- The Input Scanner (main domain, R72). -/
structure Isc where
  inputs     : Vector InputState 16
  /-- The place of the next slot in the sweep's cycle (R57, R58). -/
  slot       : Nat
  nextSlotAt : Nat
deriving DecidableEq, Repr

/-! ### Event Queue -/

/-- The eighteen record kinds, in the order of Table 4-1. -/
inductive RecordKind where
  | inputChange | chatterLock | chatterRelease | clockStep | clockState | runChange
  | stopClassified | speedSilent | unitShiftClosed | handover | unpairedKey | sendFailed
  | powerLoss | powerRestore | reset | opened | cascadeClosed | overflow
deriving DecidableEq, Repr

/-- One event record (R73); an OVERFLOW record's lost count and last-loss offset lie in its details (R186). -/
structure Record where
  seq     : BitVec 16
  kind    : RecordKind
  stamp   : Stamp
  detailA : BitVec 8
  detailB : BitVec 32
  check   : BitVec 8
  corrupt : Bool
deriving DecidableEq, Repr

/-- The Event Queue (backup domain, R84): records oldest first. -/
structure Evq where
  records : List Record
  nextSeq : BitVec 16
deriving DecidableEq, Repr

/-! ### Cascades -/

/-- A member of a cascade (R86); DOUBTFUL follows from its quality. -/
structure Member where
  node   : NodeNo
  input  : InputNo
  active : Bool
  stamp  : Stamp
  /-- The source: true for LINE, false for LOCAL. -/
  line   : Bool
  heard  : Stamp
deriving DecidableEq, Repr

/-- A cascade, open or closed (R89, R98); `members` are the stored members in member order. -/
structure Cascade where
  opening   : Stamp
  opener    : NodeNo
  members   : List Member
  doubtful  : Bool
  full      : Bool
  late      : Bool
  notStored : BitVec 8
  lateCount : BitVec 8
deriving DecidableEq, Repr

/-- The open cascade with the elapsed time at which its close timer expires (R91). -/
structure OpenCascade where
  cascade : Cascade
  closeAt : Nat
deriving DecidableEq, Repr

/-- The Cascade Unit (main domain, R107). -/
structure Csu where
  current : Option OpenCascade
  slot    : Option Member
  list    : List Cascade
  stray   : BitVec 16
  lost    : BitVec 16
deriving DecidableEq, Repr

/-! ### Shaft speed and run state -/

/-- The phases of the Speed Unit with the held edge's elapsed time (Table 6-1). -/
inductive SpeedPhase where
  | noEdge
  | firstPeriod (edge : Nat)
  | measuring (edge : Nat)
deriving DecidableEq, Repr

/-- The Speed Unit (main domain, R108). -/
structure Spu where
  phase        : SpeedPhase
  /-- Tenths of an rpm. -/
  speed        : Nat
  lastPeriod   : Option Nat
  silent       : Bool
  silenceSince : Nat
  pulsesNow    : Nat
  pulsesLast   : Nat
  revPulses    : Nat
deriving DecidableEq, Repr

/-- The run states (section 6.3). -/
inductive RunState where
  | standstill | spinning | online
deriving DecidableEq, Repr

/-- The phase of a stop awaiting classification (Table 5-3); a cascade key is its opening date and opener. -/
inductive StopPhase where
  | waiting (deadline : Nat)
  | awaitingClose (opening : Date) (opener : NodeNo)
deriving DecidableEq, Repr

/-- A stop awaiting classification (R100). -/
structure Stop where
  stamp   : Stamp
  takenAt : Nat
  phase   : StopPhase
deriving DecidableEq, Repr

/-- The Run Unit's main-domain state (R114, R117, R121, R135). -/
structure Run where
  state           : RunState
  breakerClosed   : Bool
  turning         : Bool
  initialPhase    : Bool
  stop            : Option Stop
  /-- Since when ONLINE and the silent mark have held together (R117). -/
  silentSince     : Option Nat
  /-- The SPEED SILENT condition holds (R117). -/
  speedSilent     : Bool
  tenthStart      : Nat
  unusedHandovers : BitVec 16
deriving DecidableEq, Repr

/-! ### Tallies (backup domain) -/

/-- The six fields that the baseline, an amount and a unit shift record have (R128). -/
structure SixFields where
  online      : BitVec 40
  spinning    : BitVec 40
  starts      : BitVec 24
  syncs       : BitVec 24
  trips       : BitVec 24
  normalStops : BitVec 24
deriving DecidableEq, Repr

/-- The tally record (R124). -/
structure Tally where
  fields    : TallyFields
  blank     : Bool
  suspect   : Bool
  saturated : Bool
  check     : BitVec 16
deriving DecidableEq, Repr

/-- The baseline record (R128). -/
structure Baseline where
  fields : SixFields
  check  : BitVec 16
deriving DecidableEq, Repr

/-- The acceptance part of a unit shift record whose outcome is known (R132). -/
structure Acceptance where
  outcome    : HandoverOutcome
  completion : Stamp
  due        : BitVec 16
  post       : NodeNo
deriving DecidableEq, Repr

/-- A unit shift record (R132). -/
structure UnitShift where
  key        : ShiftKey
  amounts    : SixFields
  stepped    : Bool
  catchUp    : Bool
  merged     : Bool
  notSound   : Bool
  suspect    : Bool
  acceptance : Option Acceptance
  check      : BitVec 16
  corrupt    : Bool
deriving DecidableEq, Repr

/-- What the Run Unit holds in the backup domain (R138). -/
structure Tallies where
  tally      : Tally
  baseline   : Baseline
  /-- At most four, newest first. -/
  unitShifts : List UnitShift
  lastClosed : Option ShiftKey
deriving DecidableEq, Repr

/-! ### Shift handover -/

/-- The handover machine's states (Table 8-2). -/
inductive PostState where
  | onWatch | early | due | overdue
deriving DecidableEq, Repr

/-- An elapsed-time timer: the value it had at the moment `since` (R146), which is a difference of two dates, and so signed,
where it starts at the time since a boundary (R1, R151). -/
structure Timer where
  base  : Int
  since : Nat
deriving DecidableEq, Repr

/-- The two key inputs of a post. -/
inductive PressKey where
  | hand | take
deriving DecidableEq, Repr

/-- A held press: its key, date and quality, the start of its pairing timer, and the target it is held for. -/
structure HeldPress where
  key    : PressKey
  stamp  : Stamp
  since  : Nat
  target : ShiftKey
deriving DecidableEq, Repr

/-- The own frame state (R153). -/
inductive OwnFrame where
  | pending | heard | notSent | withdrawn
deriving DecidableEq, Repr

/-- A result (R154); `elsewhere` is the sending post when the source is ELSEWHERE. -/
structure Result where
  outcome    : HandoverOutcome
  completion : Stamp
  due        : BitVec 16
  elsewhere  : Option NodeNo
  own        : Option OwnFrame
  settled    : Bool
deriving DecidableEq, Repr

/-- An entry of a station shift record; no values means ABSENT (Table 8-5). -/
structure StationEntry where
  node       : NodeNo
  values     : Option TallyValues
  unexpected : Bool
deriving DecidableEq, Repr

/-- The status of a station shift record (Table 8-5). -/
inductive RecordStatus where
  | gathering | awaitingAcceptance | complete
deriving DecidableEq, Repr

/-- A station shift record (Table 8-5); `gatherSince` is the start of its gather timer. -/
structure StationRecord where
  key         : ShiftKey
  entries     : List StationEntry
  result      : Option Result
  gatherSince : Nat
  status      : RecordStatus
deriving DecidableEq, Repr

/-- The Shift Unit's main-domain state (R162). -/
structure Shu where
  lastReached : Option ShiftKey
  /-- The latest shift key whose boundary time the advancing clock has come to, while it is still to be taken (R140). -/
  keyDue      : Option ShiftKey
  mode        : PostState
  /-- The target held in DUE and OVERDUE (R144). -/
  target      : Option ShiftKey
  grace       : Option Timer
  held        : Option HeldPress
  heldResult  : Option (ShiftKey × Result)
  /-- At most eight, oldest first. -/
  records     : List StationRecord
  lastCreated : Option ShiftKey
  unused      : BitVec 16
  unmatched   : BitVec 16
  repeated    : BitVec 16
  lostRecords : BitVec 16
deriving DecidableEq, Repr

/-! ### Configuration, Local Port -/

/-- The node states (R176). -/
inductive NodeState where
  | unconfigured | configured | active
deriving DecidableEq, Repr

/-- The recorded edges of an input (R54). -/
inductive RecordedEdges where
  | none | rising | falling | both
deriving DecidableEq, Repr

/-- The role of an input (R54). -/
inductive InputRole where
  | none | breaker | handKey | takeKey
deriving DecidableEq, Repr

/-- The five configured properties of an input (Table 3-1). -/
structure InputConfig where
  activeHigh : Bool
  edges      : RecordedEdges
  cascade    : Bool
  fast       : Bool
  role       : InputRole
deriving DecidableEq, Repr

/-- The configuration block as taken (Table 10-3), in the units it is carried in. -/
structure NodeConfig where
  unitRole       : Bool
  postRole       : Bool
  qFast          : Nat
  qNormal        : Nat
  chatterMs      : Nat
  chatterCount   : Nat
  trim           : Nat
  quorum         : Nat
  boundUs        : Nat
  slewUs         : Nat
  shortLimit     : Nat
  formationWait  : Nat
  spanMs         : Nat
  settleMs       : Nat
  pulsesPerRev   : Nat
  standstill     : Nat
  spin           : Nat
  /-- The shift plan's boundaries, minutes of day. -/
  boundaries     : List Nat
  earlyMin       : Nat
  graceMin       : Nat
  pairingS       : Nat
  gatherS        : Nat
  expectedUnits  : BitVec 16
  enableMask     : BitVec 16
  mapA           : BitVec 16
  mapB           : BitVec 16
  inputs         : Vector InputConfig 16
deriving DecidableEq, Repr

/-- The Local Port and the node state (main domain, R174, R176). -/
structure Lpt where
  nodeState : NodeState
  config    : Option NodeConfig
  response  : Option (List Byte)
  /-- The bytes shifted out on LSDO in the last transaction, from its second byte on (log 22). -/
  lsdo      : List Byte
deriving DecidableEq, Repr

/-! ### Supply Monitor, store check -/

/-- The supply states (Table 9-2). -/
inductive SupplyState where
  | run | keepAlive | restoring | off
deriving DecidableEq, Repr

/-- The areas of the store check (R171). -/
inductive StoreArea where
  | tally | baseline | unitShift | eventQueue
deriving DecidableEq, Repr

/-- The Supply Monitor (backup domain, Table 9-1), with the conditions it senses. -/
structure Sup where
  state            : SupplyState
  /-- The outage timer in microseconds (R165). -/
  outageUs         : Nat
  creditMark       : Bool
  freshMark        : Bool
  nodeStateAtReset : NodeState
  firstFailure     : Option (StoreArea × Nat)
  failureOverflow  : Bool
  vbkPresent       : Bool
  rstnHeld         : Bool
  /-- The place in the run of 32,768 backup-oscillator cycles (R26). -/
  backupPhase      : Nat
  /-- Backup-oscillator cycles since the RESTORING wait began (R166, log 9). -/
  restoreCycles    : Nat
deriving DecidableEq, Repr

/-- The record a store check pass tests next (R170). -/
inductive Cursor where
  | tally
  | baseline
  | unitShift (position : Nat)
  | event (position : Nat)
deriving DecidableEq, Repr

/-- The store check's scan, held in the main domain (section 9.1, R172). -/
structure Chk where
  pass        : Option Cursor
  restorePass : Bool
  passStart   : Nat
  passes      : BitVec 16
deriving DecidableEq, Repr

/-! ### Attention and Lamps -/

/-- The sixteen attention sources, in the order of their numbers (Table 11-1). -/
inductive Source where
  | eventPending | eventOverflow | cascadeClosed | clockState | holdover | referenceLost
  | split | handoverDue | handoverOverdue | stationShiftComplete | unitShiftClosed
  | chatterLock | speedSilent | lineFault | storeCheck | duplicateId
deriving DecidableEq, Repr

/-- The lamp patterns (Table 11-2). -/
inductive LampPattern where
  | off | steady | slowBlink | fastBlink | flash
deriving DecidableEq, Repr

/-- A lamp: its pattern, whether it is lit, and the moment its pattern or half-period began. -/
structure LampState where
  pattern : LampPattern
  lit     : Bool
  since   : Nat
deriving DecidableEq, Repr

/-- Attention and Lamps (main domain, R180 to R183); the masks stand with the configuration. -/
structure Atl where
  flags      : BitVec 16
  attnALow   : Bool
  attnBLow   : Bool
  lamp0      : LampState
  lamp1      : LampState
  lamp2      : LampState
  lamp3      : LampState
  /-- The end of the L1 flash in progress (R183). -/
  flashUntil : Option Nat
deriving DecidableEq, Repr

/-! ### The whole -/

/-- Terminal levels as the environment last presented them (Table 0-2, log 5). -/
structure Pins where
  inputs : BitVec 16
  id     : NodeNo
  sp     : BitVec 2
  /-- RSTN is low. -/
  rstnLow : Bool
deriving DecidableEq, Repr

/-- The state of the node. -/
structure State where
  time         : Timebase
  clock        : Clock
  lif          : Lif
  clu          : Clu
  isc          : Isc
  evq          : Evq
  csu          : Csu
  spu          : Spu
  run          : Run
  tallies      : Tallies
  shu          : Shu
  /-- The last accepted shift key (backup domain, R150). -/
  lastAccepted : Option ShiftKey
  sup          : Sup
  chk          : Chk
  lpt          : Lpt
  atl          : Atl
  pins         : Pins
  /-- The model's own: how many free values have been taken (log 20). -/
  free         : Nat
  /-- The commands waiting, first in first out (log 1). -/
  pending      : List Instr
deriving DecidableEq, Repr

/-- No command of the manual stops the node, so there is no fault (INVENTORY.md, Faults). -/
inductive Fault where
deriving DecidableEq, Repr

/-- Why a command has no meaning. -/
inductive Refusal where
  /-- Raised by an arm of `exec` whose command has no meaning yet; no arm raises it. Safe: the model stops
  where the hardware goes on. -/
  | notModelled (mnemonic : String)
deriving DecidableEq, Repr

/-! ### Initial values (the tables "state after each reset kind" of the chapters) -/

/-- Table 1-7, with the straps as read; the line is watched from `now` on. -/
def Lif.initial (id : NodeNo) (sp : BitVec 2) (now : Nat) : Lif where
  lclkDriven := false
  ldatDriven := false
  view := .quiet
  start := none
  counted := false
  joinable := false
  highFrom := now
  acked := false
  sendList := []
  send := none
  waitingMark := none
  counters := ⟨0, 0, 0, 0, 0, 0, 0⟩
  nodeNumber := id
  lineSpeed := sp

/-- Table 2-5; `now` is the elapsed time at which the reference silence is counted from. -/
def Clu.initial (now : Nat) : Clu where
  state := .solo
  p := 0
  round := none
  lastClosed := none
  lastKey := none
  startList := Vector.replicate 16 none
  formation := 0
  short := 0
  outlier := 0
  split := 0
  foreignSenders := []
  latestForeign := none
  monitor := .searching 0
  refEdge := none
  refMark := now

/-- Table 3-7, one input. -/
def InputState.initial : InputState where
  level := none
  run := 0
  first := none
  chatter := .quiet
  owed := .none

/-- Table 3-7. -/
def Isc.initial (now : Nat) : Isc where
  inputs := Vector.replicate 16 InputState.initial
  slot := 0
  nextSlotAt := now

/-- Table 4-3, cold start. -/
def Evq.initial : Evq := ⟨[], 0⟩

/-- Table 5-5. -/
def Csu.initial : Csu := ⟨none, none, [], 0, 0⟩

/-- Table 6-4; R108 starts the silence timer at OPEN. -/
def Spu.initial (now : Nat) : Spu where
  phase := .noEdge
  speed := 0
  lastPeriod := none
  silent := false
  silenceSince := now
  pulsesNow := 0
  pulsesLast := 0
  revPulses := 0

/-- Table 6-4 and table 7-2 (unused handover counter). -/
def Run.initial (now : Nat) : Run where
  state := .standstill
  breakerClosed := false
  turning := false
  initialPhase := false
  stop := none
  silentSince := none
  speedSilent := false
  tenthStart := now
  unusedHandovers := 0

/-- Table 8-6. -/
def Shu.initial : Shu where
  lastReached := none
  keyDue := none
  mode := .onWatch
  target := none
  grace := none
  held := none
  heldResult := none
  records := []
  lastCreated := none
  unused := 0
  unmatched := 0
  repeated := 0
  lostRecords := 0

/-- Table 9-4, last row, and section 9.1. -/
def Chk.initial (now : Nat) : Chk := ⟨none, false, now, 0⟩

/-- R174, R176. -/
def Lpt.initial : Lpt := ⟨.unconfigured, none, none, []⟩

/-- A lamp that is off. -/
def LampState.dark (now : Nat) : LampState := ⟨.off, false, now⟩

/-- R180, R182, R183. -/
def Atl.initial (now : Nat) : Atl where
  flags := 0
  attnALow := false
  attnBLow := false
  lamp0 := .dark now
  lamp1 := .dark now
  lamp2 := .dark now
  lamp3 := .dark now
  flashUntil := none

/-- Table 7-2, cold start: zeros, BLANK set. The two checks are those of the zero contents: 0 tallies with
the flags byte 01h, and six zeros (R124, R128; the theorem `initial_tally_checks` says so). -/
def Tallies.initial : Tallies where
  tally := ⟨⟨0, 0, 0, 0, 0, 0, 0, 0⟩, true, false, false, 0xD009⟩
  baseline := ⟨⟨0, 0, 0, 0, 0, 0⟩, 0x9FB4⟩
  unitShifts := []
  lastClosed := none

/-- Table 9-4, cold start; both supplies present and RSTN released (log 4); the backup oscillator at the beginning of a run of
cycles, the model's choice (log 8). -/
def Sup.initial : Sup where
  state := .run
  outageUs := 0
  creditMark := false
  freshMark := false
  nodeStateAtReset := .unconfigured
  firstFailure := none
  failureOverflow := false
  vbkPresent := true
  rstnHeld := false
  backupPhase := 0
  restoreCycles := 0

/-- The time base with nothing spread and no boundary reached (R28, R31). -/
def Timebase.initial : Timebase := ⟨0, 0, 0, 0, none⟩

/-- The node right after a cold start: in RUN, UNCONFIGURED, every block at the cold start column of its
table (log 4). -/
def State.reset : State where
  time := .initial
  clock := ⟨⟨0, 0⟩, false⟩
  lif := .initial 0 0 0
  clu := .initial 0
  isc := .initial 0
  evq := .initial
  csu := .initial
  spu := .initial 0
  run := .initial 0
  tallies := .initial
  shu := .initial
  lastAccepted := none
  sup := .initial
  chk := .initial 0
  lpt := .initial
  atl := .initial 0
  pins := ⟨0, 0, 0, false⟩
  free := 0
  pending := []

end Sys2Proof.Machine
end

