-- ==== Sys2Proof/Machine/Ops.lean ====
section
/-! DEFINITION. The named operations the blocks share: dates and shift keys (R1), counters that hold at
their highest value, the two checks (R8, R73), the passing of time (R25, R26, R28, R165) and the
accessors through which every block reads the clock, the node state and the configuration. -/

namespace Sys2Proof

/-! ### Days and dates (R1) -/

/-- Microseconds in a day. -/
def usPerDay : Nat := 86400000000

/-- Day a is later than day b: a − b modulo 65,536 lies from 1 to 32,767 (R1). -/
def dayLater (a b : Day) : Bool :=
  decide (1 ≤ (a - b).toNat) && decide ((a - b).toNat ≤ 32767)

/-- Day a is earlier than day b: a − b modulo 65,536 lies from 32,768 to 65,535 (R1). -/
def dayEarlier (a b : Day) : Bool :=
  decide (32768 ≤ (a - b).toNat)

/-- Date a is later than date b: by day first, then by microsecond of day (R1). -/
def Date.later (a b : Date) : Bool :=
  dayLater a.day b.day || (a.day == b.day && decide (b.us < a.us))

/-- Date a is earlier than date b (R1). -/
def Date.earlier (a b : Date) : Bool :=
  dayEarlier a.day b.day || (a.day == b.day && decide (a.us < b.us))

/-- Date a is at or before date b. -/
def Date.atOrBefore (a b : Date) : Bool :=
  !a.later b

/-- The signed difference a − b in microseconds (R1). -/
def Date.minus (a b : Date) : Int :=
  (a.day - b.day).toInt * (usPerDay : Int) + ((a.us : Int) - (b.us : Int))

/-- A date moved by a signed number of microseconds, the day carried across midnight on its circle
(R25, 00_scope.md section 0.5). -/
def Date.plus (d : Date) (us : Int) : Date :=
  let t : Int := (d.us : Int) + us
  ⟨d.day + BitVec.ofInt 16 (t / (usPerDay : Int)), (t % (usPerDay : Int)).toNat⟩

/-- A date lies between two limits, both included (R89). -/
def Date.within (d lo hi : Date) : Bool :=
  !d.earlier lo && !d.later hi

/-- The second of day of a date (00_scope.md section 0.5). -/
def Date.second (d : Date) : Nat := d.us / 1000000

/-! ### Shift keys and the shift plan (R1, R139) -/

/-- Key a is later than key b: by day, then by boundary index (R1). -/
def ShiftKey.later (a b : ShiftKey) : Bool :=
  dayLater a.day b.day || (a.day == b.day && decide (b.index < a.index))

/-- Key a is later than the key b, or there is no b (R146, R151, R155; for R145 the model's choice, log 45,
and for R157 and R158, log 54). -/
def ShiftKey.laterThan (a : ShiftKey) (b : Option ShiftKey) : Bool :=
  match b with
  | none => true
  | some b => a.later b

/-- The boundary time of a key under a plan of minutes of day (R139). -/
def boundaryTime (plan : List Nat) (k : ShiftKey) : Date :=
  ⟨k.day, plan.getD k.index 0 * 60000000⟩

/-- The next key after a key of the plan (R139). -/
def nextKey (plan : List Nat) (k : ShiftKey) : ShiftKey :=
  if k.index + 1 < plan.length then ⟨k.day, k.index + 1⟩ else ⟨k.day + 1, 0⟩

/-- The key of the plan before a key. -/
def prevKey (plan : List Nat) (k : ShiftKey) : ShiftKey :=
  if k.index = 0 then ⟨k.day - 1, plan.length - 1⟩ else ⟨k.day, k.index - 1⟩

/-- The latest existing key whose boundary time is at or before a date (R142, R143). -/
def latestKeyAt (plan : List Nat) (d : Date) : ShiftKey :=
  match (plan.filter fun m => decide (m * 60000000 ≤ d.us)).length with
  | 0 => ⟨d.day - 1, plan.length - 1⟩
  | n + 1 => ⟨d.day, n⟩

/-- The n keys of the plan that end with k, latest first. -/
def keysBack (plan : List Nat) : Nat → ShiftKey → List ShiftKey
  | 0, _ => []
  | n + 1, k => k :: keysBack plan n (prevKey plan k)

namespace Machine

/-! ### Counters and checks -/

/-- One more, holding at the highest value of the width (00_scope.md, counts and saturation). -/
def satInc {w : Nat} (x : BitVec w) : BitVec w :=
  if x = BitVec.allOnes w then x else x + 1

/-- A count held at the highest value of the width. -/
def capped (w n : Nat) : BitVec w :=
  if n < 2 ^ w then BitVec.ofNat w n else BitVec.allOnes w

/-- One shift of the Station Line check's register (R8). -/
def crcShift16 (r : BitVec 16) : BitVec 16 :=
  if r.msb then (r <<< 1) ^^^ 0x1021#16 else r <<< 1

/-- One byte into the register, most significant bit first. -/
def crcByte16 (r : BitVec 16) (b : Byte) : BitVec 16 :=
  Nat.repeat crcShift16 8 (r ^^^ (b.zeroExtend 16 <<< 8))

/-- The CRC-16 of the Station Line and of the backup-domain records (R8, R124). -/
def crc16 (bytes : List Byte) : BitVec 16 :=
  bytes.foldl crcByte16 0xFFFF#16

/-- One shift of the record check's register (R73). -/
def crcShift8 (r : BitVec 8) : BitVec 8 :=
  if r.msb then (r <<< 1) ^^^ 0x07#8 else r <<< 1

/-- The CRC-8 of an event record (R73). -/
def crc8 (bytes : List Byte) : BitVec 8 :=
  bytes.foldl (fun r b => Nat.repeat crcShift8 8 (r ^^^ b)) 0#8

/-! ### Line timing (R3, R4) -/

/-- The low half, and the high half, of a bit in microseconds (Table 1-1). -/
def halfBitUs (sp : BitVec 2) : Nat := 10 + sp.toNat

/-- The bit period in microseconds (Table 1-1). -/
def bitPeriodUs (sp : BitVec 2) : Nat := 2 * halfBitUs sp

/-- The idle gap: four bit periods (R3). -/
def idleGapUs (sp : BitVec 2) : Nat := 4 * bitPeriodUs sp

/-- The bit period on the wire when contenders of several settings merge their clocks: the longest low half
and the shortest high half (R4, figure 1-1). -/
def mergedPeriodUs (sp : BitVec 2) (others : List (BitVec 2)) : Nat :=
  others.foldl (fun m o => max m (halfBitUs o)) (halfBitUs sp) + others.foldl (fun m o => min m (halfBitUs o)) (halfBitUs sp)

/-- A sender clocks from its own high-half time after its start condition on (R4, R9). -/
def Lif.clocking (l : Lif) (now : Nat) : Lif :=
  match l.send with
  | none => l
  | some snd => { l with lclkDriven := l.lclkDriven || decide (snd.start.osc + halfBitUs l.lineSpeed ≤ now) }

/-! ### Soundness, accessors -/

/-- Sound: AGREED or REFERENCED (R1). -/
def ClockState.sound : ClockState → Bool
  | .agreed | .referenced => true
  | .solo | .joining | .holdover => false

/-- The code of a clock state (R184). -/
def ClockState.code : ClockState → Nat
  | .solo => 0
  | .joining => 1
  | .agreed => 2
  | .holdover => 3
  | .referenced => 4

/-- The clock state a code names, if it names one. -/
def ClockState.ofCode : Nat → Option ClockState
  | 0 => some .solo
  | 1 => some .joining
  | 2 => some .agreed
  | 3 => some .holdover
  | 4 => some .referenced
  | _ => none

/-- An input's configuration with nothing set. -/
def InputConfig.none : InputConfig := ⟨false, .none, false, false, .none⟩

/-- The configuration that stands for the absent one: every field 0. No block uses it in CONFIGURED or ACTIVE. -/
def NodeConfig.none : NodeConfig where
  unitRole := false
  postRole := false
  qFast := 0
  qNormal := 0
  chatterMs := 0
  chatterCount := 0
  trim := 0
  quorum := 0
  boundUs := 0
  slewUs := 0
  shortLimit := 0
  formationWait := 0
  spanMs := 0
  settleMs := 0
  pulsesPerRev := 0
  standstill := 0
  spin := 0
  boundaries := []
  earlyMin := 0
  graceMin := 0
  pairingS := 0
  gatherS := 0
  expectedUnits := 0
  enableMask := 0
  mapA := 0
  mapB := 0
  inputs := Vector.replicate 16 InputConfig.none

/-- The configuration in force (R178). -/
def State.cfg (s : State) : NodeConfig := s.lpt.config.getD NodeConfig.none

/-- The main domain works: main supply good, no RESTORING wait, RSTN not held (R163, R166, R169). -/
def State.working (s : State) : Bool :=
  decide (s.sup.state = .run) && !s.sup.rstnHeld

/-- The Local Port takes commands: the main domain works and no restore pass runs (R175). -/
def State.portOpen (s : State) : Bool := s.working && !s.chk.restorePass

/-- The node is ACTIVE (R176). -/
def State.active (s : State) : Bool :=
  s.working && decide (s.lpt.nodeState = .active)

/-- ACTIVE with the unit role. -/
def State.unitActive (s : State) : Bool := s.active && s.cfg.unitRole

/-- ACTIVE with the post role. -/
def State.postActive (s : State) : Bool := s.active && s.cfg.postRole

/-- The local clock with the clock state in force as its quality: what a block takes when it dates (R25). -/
def State.stamp (s : State) : Stamp := ⟨s.clock.date, s.clu.state⟩

/-- The present moment as a start condition or a sample is dated, with the oscillator time (R7, R59). -/
def State.startNow (s : State) : Start := ⟨s.clock.date, s.clu.state, s.time.elapsed⟩

/-- An input's configured properties. -/
def State.inputCfg (s : State) (n : InputNo) : InputConfig := s.cfg.inputs[n.val]

/-- An input's state. -/
def State.input (s : State) (n : InputNo) : InputState := s.isc.inputs[n.val]

/-- An input's state replaced. -/
def State.setInput (s : State) (n : InputNo) (i : InputState) : State :=
  { s with isc := { s.isc with inputs := s.isc.inputs.set n.val i } }

/-- The sixteen input numbers in order. -/
def allInputs : List InputNo := [0, 1, 2, 3, 4, 5, 6, 7, 8, 9, 10, 11, 12, 13, 14, 15]

/-- The value of an elapsed-time timer. -/
def Timer.value (t : Timer) (now : Nat) : Int := t.base + ((now - t.since : Nat) : Int)

/-- The outage timer in tenths, holding at its highest value (R165). -/
def Sup.outageTenths (u : Sup) : BitVec 32 := capped 32 (u.outageUs / 100000)

/-! ### The passing of time -/

/-- Microseconds the counter has advanced after the first n cycles of a backup-oscillator run (R26). -/
def runUs (n : Nat) : Nat := n * 1000000 / 32768

/-- Microseconds that n cycles add from a place in the run (R26). -/
def backupUs : Nat → Nat → Nat
  | 0, n => runUs n
  | phase + 1, n => runUs (phase + 1 + n) - runUs (phase + 1)

/-- How many points of the amount being spread lie in the first `pos` microseconds of the oscillator second:
the k-th point lies where k/|a| of the second has passed (R28, log 7). -/
def spreadPoints (amount : Int) (pos : Nat) : Nat :=
  amount.natAbs * (min pos 1000000) / 1000000

/-- The boundary of a second that the clock comes to when it runs from one date to another. -/
def boundaryPassed (old new : Date) (before : Option RoundKey) : Option RoundKey :=
  if old.day = new.day ∧ old.second = new.second then before else some ⟨new.day, new.second⟩

/-- The latest shift key whose boundary time the advancing clock has come to, when it runs from one date to another: it
comes to a boundary time when it comes to that of the next key after the last reached one, or has come to it
already (R140). -/
def keyPassed (plan : List Nat) (lastReached : Option ShiftKey) (old : Date) (advance : Int) (before : Option ShiftKey) :
    Option ShiftKey :=
  match lastReached with
  | none => none
  | some k =>
    let ahead := (boundaryTime plan (nextKey plan k)).minus old
    if before.isSome || (decide (0 < ahead) && decide (ahead ≤ advance)) then some (latestKeyAt plan (old.plus advance)) else none

/-- n microseconds of the main oscillator: elapsed time and the clock advance, the clock by the slew in progress as well
(R25, R28); a node that sends begins its clock (R9), and boundary times are come to (R31, R140). -/
def State.runMain (s : State) (n : Nat) : State :=
  let elapsed := s.time.elapsed + n
  let points := spreadPoints s.time.spread (elapsed - s.time.secondStart)
  let gained : Int := s.time.spread.sign * ((points : Int) - (s.time.spreadDone : Int))
  let date := s.clock.date.plus ((n : Int) + gained)
  { s with
    time := { s.time with
      elapsed := elapsed
      spreadDone := points
      boundaryDue := boundaryPassed s.clock.date date s.time.boundaryDue }
    lif := s.lif.clocking elapsed
    shu := { s.shu with
      keyDue := if s.active && s.clock.valid
        then keyPassed s.cfg.boundaries s.shu.lastReached s.clock.date ((n : Int) + gained) s.shu.keyDue else none }
    clock := { s.clock with date := date } }

/-- n cycles of the backup oscillator: the clock counter advances without slew, and the outage timer with it
once a loss has started it (R26, R165, R166, log 24). -/
def State.runBackup (s : State) (n : Nat) : State :=
  let us := backupUs s.sup.backupPhase n
  { s with
    clock := { s.clock with date := s.clock.date.plus (us : Int) }
    sup := { s.sup with
      backupPhase := (s.sup.backupPhase + n) % 32768
      outageUs := if s.sup.freshMark then s.sup.outageUs else s.sup.outageUs + us
      restoreCycles := if s.sup.state = .restoring then s.sup.restoreCycles + n else s.sup.restoreCycles } }

/-- The state after a wait of n: microseconds of the main oscillator in RUN, cycles of the backup oscillator
in KEEP-ALIVE and RESTORING; in OFF nothing runs (Table 9-2, log 1). -/
def State.after (s : State) (n : Nat) : State :=
  match s.sup.state with
  | .run => s.runMain n
  | .keepAlive | .restoring => s.runBackup n
  | .off => s

/-- RESTORING has lasted 65,536 cycles of the main oscillator; one backup cycle is 125 of them (R166, log 9). -/
def State.restoreWaitOver (s : State) : Bool :=
  decide (65536 ≤ 125 * s.sup.restoreCycles)

end Machine
end Sys2Proof
end

