-- ==== Sys2Proof/Machine/Flags.lean ====
section
/-! DEFINITION. Attention and Lamps: the sixteen flags, the two outputs and the four lamps (R180 to R183),
and `State.finish`, with which every command ends: level flags, outputs and lamps follow the state. -/

namespace Sys2Proof.Machine

/-- The number of a source (Table 11-1). -/
def Source.number : Source → Nat
  | .eventPending => 0
  | .eventOverflow => 1
  | .cascadeClosed => 2
  | .clockState => 3
  | .holdover => 4
  | .referenceLost => 5
  | .split => 6
  | .handoverDue => 7
  | .handoverOverdue => 8
  | .stationShiftComplete => 9
  | .unitShiftClosed => 10
  | .chatterLock => 11
  | .speedSilent => 12
  | .lineFault => 13
  | .storeCheck => 14
  | .duplicateId => 15

/-- The mark of a source in a mask: bit n for source n (section 12.4). -/
def Source.mark (f : Source) : BitVec 16 := 1#16 <<< f.number

/-- A source's mark if a condition holds. -/
def Source.markIf (f : Source) (b : Bool) : BitVec 16 := if b then f.mark else 0

/-- A flag is set. -/
def State.flag (s : State) (f : Source) : Bool := s.atl.flags.getLsbD f.number

/-- Sets an attention flag (R180). -/
def State.setFlag (s : State) (f : Source) : State :=
  { s with atl := { s.atl with flags := s.atl.flags ||| f.mark } }

/-- The conditions of the three level sources: the queue holds a record (R81), the clock state is HOLDOVER
(R30), the SPEED SILENT condition holds (R117). -/
def State.levelMarks (s : State) : BitVec 16 :=
  Source.eventPending.markIf (!s.evq.records.isEmpty)
    ||| Source.holdover.markIf (decide (s.clu.state = .holdover))
    ||| Source.speedSilent.markIf s.run.speedSilent

/-- ATTN-A is driven low: some flag set, enabled and mapped to map A (R182). -/
def attnALowOf (flags : BitVec 16) (c : NodeConfig) : Bool := !decide (flags &&& c.enableMask &&& c.mapA = 0)

/-- ATTN-B is driven low (R182). -/
def attnBLowOf (flags : BitVec 16) (c : NodeConfig) : Bool := !decide (flags &&& c.enableMask &&& c.mapB = 0)

/-- An input is LOCKED. -/
def InputState.locked (i : InputState) : Bool :=
  match i.chatter with
  | .locked _ _ _ => true
  | .quiet | .counting _ _ => false

/-- Some input is LOCKED. -/
def State.anyLocked (s : State) : Bool := allInputs.any fun n => (s.input n).locked

/-- L0, clock (Table 11-3). -/
def lamp0Pattern (s : State) : LampPattern :=
  match s.clu.state with
  | .solo => .off
  | .joining => .fastBlink
  | .agreed | .referenced => .steady
  | .holdover => .slowBlink

/-- L1, line (Table 11-3). A flash in progress when LINE STUCK is entered runs on unseen, and what is left of its 100 ms
shows when LINE STUCK is left within them: the model's choice (log 46). -/
def lamp1Pattern (s : State) : LampPattern :=
  if s.lif.view = .stuck then .fastBlink
  else match s.atl.flashUntil with
    | none => .off
    | some _ => .flash

/-- L2, shift (Table 11-3, R183). -/
def lamp2Pattern (s : State) : LampPattern :=
  if !s.cfg.postRole then .off
  else match s.shu.held with
    | some _ => .steady
    | none =>
      match s.shu.mode with
      | .onWatch => .off
      | .early | .due => .slowBlink
      | .overdue => .fastBlink

/-- L3, fault (Table 11-3); the flags are given, since they are settled first. -/
def lamp3Pattern (s : State) (flags : BitVec 16) : LampPattern :=
  if s.anyLocked || s.sup.firstFailure.isSome
      || flags.getLsbD Source.duplicateId.number || flags.getLsbD Source.split.number
  then .steady else .off

/-- Whether a lamp is lit as a pattern begins: a blink starts lit (R183). -/
def LampPattern.startsLit : LampPattern → Bool
  | .off => false
  | .steady | .slowBlink | .fastBlink | .flash => true

/-- The half-period of a blink in microseconds (Table 11-2); none for the other patterns. -/
def LampPattern.halfPeriod : LampPattern → Option Nat
  | .slowBlink => some 500000
  | .fastBlink => some 125000
  | .off | .steady | .flash => none

/-- A lamp takes a pattern: an unchanged pattern runs on, a new one starts now (R183). It is compared after a whole event, so that
an event that leads through another pattern and back lets the blink run on: the model's choice (log 53). -/
def LampState.take (l : LampState) (p : LampPattern) (now : Nat) : LampState :=
  if l.pattern = p then l else ⟨p, p.startsLit, now⟩

/-- A blink's half-period has elapsed and the lamp toggles (R183). -/
def LampState.toggle (l : LampState) (half : Nat) : LampState := ⟨l.pattern, !l.lit, l.since + half⟩

/-- A blinking lamp's half-period has elapsed. -/
def LampState.phaseDue (l : LampState) (now : Nat) : Option Nat :=
  match l.pattern.halfPeriod with
  | none => none
  | some half => if l.since + half ≤ now then some half else none

/-- What Attention and Lamps shows of a state: level flags set while their condition holds, the outputs from
flags and masks, each lamp's pattern from its block (R180, R182, R183). -/
def State.atlShown (s : State) : Atl :=
  let flags := s.atl.flags ||| s.levelMarks
  let now := s.time.elapsed
  { s.atl with
    flags := flags
    attnALow := attnALowOf flags s.cfg
    attnBLow := attnBLowOf flags s.cfg
    lamp0 := s.atl.lamp0.take (lamp0Pattern s) now
    lamp1 := s.atl.lamp1.take (lamp1Pattern s) now
    lamp2 := s.atl.lamp2.take (lamp2Pattern s) now
    lamp3 := s.atl.lamp3.take (lamp3Pattern s flags) now }

/-- How every command ends: Attention and Lamps follows the state; while the main domain does not work it
holds its initial values (R180, R182, R183). -/
def State.finish (s : State) : State :=
  if s.working then { s with atl := s.atlShown } else { s with atl := Atl.initial s.time.elapsed }

/-- A command that comes `wait` after the one before it and has the effect `f`: time passes, the effect is
taken, Attention and Lamps follows (log 1). -/
def State.take (s : State) (wait : Nat) (f : State → State) : Host.Outcome State Fault Refusal :=
  .next (f (s.after wait)).finish

/-- The effect of a command whose condition holds, and none where it does not: the step of the table does
not occur then (log 2). -/
def State.when (s : State) (condition : Bool) (effect : State) : State :=
  if condition then effect else s

/-- A lamp of the four. -/
def Atl.lamp (a : Atl) : Lamp → LampState
  | .l0 => a.lamp0
  | .l1 => a.lamp1
  | .l2 => a.lamp2
  | .l3 => a.lamp3

/-- A lamp of the four replaced. -/
def Atl.setLamp (a : Atl) (l : Lamp) (v : LampState) : Atl :=
  match l with
  | .l0 => { a with lamp0 := v }
  | .l1 => { a with lamp1 := v }
  | .l2 => { a with lamp2 := v }
  | .l3 => { a with lamp3 := v }

end Sys2Proof.Machine
end

