-- ==== Sys2Proof/Machine/Operands.lean ====
section
/-! DEFINITION. The encodings of R184 to R187: how every field the node sends, stores or answers is laid
out in bytes, and how the bodies of received frames are read. Bits and bytes that a layout does not name
are 0 and are not read (R184). -/

namespace Sys2Proof.Machine

/-! ### Fields -/

/-- The low n bytes of a number, high byte first (R184). -/
def beBytes : Nat → Nat → List Byte
  | 0, _ => []
  | n + 1, v => BitVec.ofNat 8 (v / 2 ^ (8 * n)) :: beBytes n v

/-- The number that bytes give, high byte first. -/
def beNat (bytes : List Byte) : Nat :=
  bytes.foldl (fun v b => v * 256 + b.toNat) 0

/-- A signed value in n bytes of two's complement (R184). -/
def beInt (n : Nat) (v : Int) : List Byte :=
  beBytes n (BitVec.ofInt (8 * n) v).toNat

/-- A bit at a place of a byte. -/
def bitAt (place : Nat) (b : Bool) : Nat := if b then 2 ^ place else 0

/-- Date: day in 2 bytes, microsecond of day in 5 (R184). -/
def dateBytes (d : Date) : List Byte := beBytes 2 d.day.toNat ++ beBytes 5 d.us

/-- A date and its quality code, 8 bytes (Tables 12-8 to 12-12). -/
def stampBytes (t : Stamp) : List Byte := dateBytes t.date ++ beBytes 1 t.quality.code

/-- An absent date and quality. -/
def noStampBytes : List Byte := beBytes 8 0

/-- A date and quality that may be absent (R184). -/
def optStampBytes : Option Stamp → List Byte
  | none => noStampBytes
  | some t => stampBytes t

/-- Shift key: day in 2 bytes, boundary index in 1 (R184). -/
def keyBytes (k : ShiftKey) : List Byte := beBytes 2 k.day.toNat ++ beBytes 1 k.index

/-- A shift key that may be absent: day 0 with index FFh (R184). -/
def optKeyBytes : Option ShiftKey → List Byte
  | none => [0x00#8, 0x00#8, 0xFF#8]
  | some k => keyBytes k

/-- A shift key in bits 23 to 0 of a record's detail B (Table 12-6). -/
def keyDetail (k : ShiftKey) : BitVec 32 :=
  BitVec.ofNat 32 (k.day.toNat * 256 + k.index % 256)

/-- Node and input number in one byte (Table 12-8). -/
def nodeInputByte (node : NodeNo) (input : InputNo) : Nat := node.val * 16 + input.val

/-! ### Codes -/

/-- Outcome (R184). -/
def HandoverOutcome.code : HandoverOutcome → Nat
  | .early => 1
  | .onTime => 2
  | .late => 3
  | .missed => 4

/-- The outcome a code names; UNKNOWN and codes above 4 name none of the four (R135, R155). -/
def HandoverOutcome.ofCode : Nat → Option HandoverOutcome
  | 1 => some .early
  | 2 => some .onTime
  | 3 => some .late
  | 4 => some .missed
  | _ => none

/-- Node state (R184). -/
def NodeState.code : NodeState → Nat
  | .unconfigured => 0
  | .configured => 1
  | .active => 2

/-- Run state (R184). -/
def RunState.code : RunState → Nat
  | .standstill => 0
  | .spinning => 1
  | .online => 2

/-- Kind code of a frame (R8). -/
def FrameKind.code : FrameKind → Nat
  | .trip => 1
  | .handover => 2
  | .mark => 3
  | .tally => 4

/-- The kind a code names; 0 and 5 to 15 are invalid (R8). -/
def FrameKind.ofCode : Nat → Option FrameKind
  | 1 => some .trip
  | 2 => some .handover
  | 3 => some .mark
  | 4 => some .tally
  | _ => none

/-- The fixed body length of a kind (Table 1-3). -/
def FrameKind.bodyLength : FrameKind → Nat
  | .trip => 9
  | .handover => 13
  | .mark => 11
  | .tally => 14

/-- Record kind code: the order of Table 4-1, from 1 (Table 12-6). -/
def RecordKind.code : RecordKind → Nat
  | .inputChange => 1
  | .chatterLock => 2
  | .chatterRelease => 3
  | .clockStep => 4
  | .clockState => 5
  | .runChange => 6
  | .stopClassified => 7
  | .speedSilent => 8
  | .unitShiftClosed => 9
  | .handover => 10
  | .unpairedKey => 11
  | .sendFailed => 12
  | .powerLoss => 13
  | .powerRestore => 14
  | .reset => 15
  | .opened => 16
  | .cascadeClosed => 17
  | .overflow => 18

/-! ### Station Line frames (R8, R185) -/

/-- The kind of a frame's content. -/
def FrameContent.kind : FrameContent → FrameKind
  | .trip .. => .trip
  | .handover .. => .handover
  | .mark .. => .mark
  | .tally .. => .tally

/-- The header byte: kind code above, node number below (R8). -/
def headerByte (kind : FrameKind) (node : NodeNo) : Byte :=
  BitVec.ofNat 8 (kind.code * 16 + node.val)

/-- The kind a header names. -/
def headerKind (header : Byte) : Option FrameKind := FrameKind.ofCode (header.toNat / 16)

/-- The sender's node number in a header. -/
def headerNode (header : Byte) : NodeNo := Fin.ofNat 16 (header.toNat % 16)

/-- TRIP body (Table 12-1). -/
def tripBody (change : Stamp) (input : InputNo) (active : Bool) : List Byte :=
  dateBytes change.date ++ beBytes 1 change.quality.code ++ beBytes 1 (input.val * 16 + bitAt 0 active)

/-- HANDOVER body (Table 12-2). -/
def handoverBody (key : ShiftKey) (outcome : HandoverOutcome) (completion : Date) (due : BitVec 16) : List Byte :=
  keyBytes key ++ beBytes 1 outcome.code ++ dateBytes completion ++ beBytes 2 due.toNat

/-- The status byte of a MARK (Table 12-3). -/
def MarkStatus.byte (m : MarkStatus) : Byte := BitVec.ofNat 8 (m.code.toNat + bitAt 7 m.valid)

/-- The status of a clock state and time-valid flag. -/
def MarkStatus.of (state : ClockState) (valid : Bool) : MarkStatus := ⟨BitVec.ofNat 3 state.code, valid⟩

/-- A MARK's sender is sound (R1, R35); codes 5 to 7 name no clock state and are not sound (log 33). -/
def MarkStatus.sound (m : MarkStatus) : Bool :=
  match ClockState.ofCode m.code.toNat with
  | none => false
  | some st => st.sound

/-- MARK body (Table 12-3). -/
def markBody (key : RoundKey) (status : MarkStatus) (reading : Int) (edgeSender : NodeNo) : List Byte :=
  beBytes 2 key.day.toNat ++ beBytes 3 key.second ++ [status.byte] ++ beInt 4 reading ++ beBytes 1 edgeSender.val

/-- Bytes 3 to 13 of a TALLY body (Table 12-4). -/
def TallyValues.bytes (v : TallyValues) : List Byte :=
  beBytes 3 v.online.toNat ++ beBytes 3 v.spinning.toNat ++ [v.starts, v.syncs, v.trips, v.normalStops, v.flags]

/-- TALLY body (Table 12-4). -/
def tallyBody (key : ShiftKey) (v : TallyValues) : List Byte := keyBytes key ++ v.bytes

/-- A frame from its header through its check bytes (R8). -/
def frameBytes (kind : FrameKind) (node : NodeNo) (body : List Byte) : List Byte :=
  let covered := headerByte kind node :: body
  covered ++ beBytes 2 (crc16 covered).toNat

/-- The bits of a frame in the order they are sent, most significant bit of each byte first (R5). -/
def frameBits (bytes : List Byte) : List Bool :=
  bytes.flatMap fun b => [b.getLsbD 7, b.getLsbD 6, b.getLsbD 5, b.getLsbD 4, b.getLsbD 3, b.getLsbD 2, b.getLsbD 1, b.getLsbD 0]

/-- A body has its kind's length and the check matches: with the stop condition directly after the
acknowledge bit the frame is received intact (R8). -/
def frameChecks (header : Byte) (body : List Byte) (check : BitVec 16) : Bool :=
  match headerKind header with
  | none => false
  | some kind => decide (body.length = kind.bodyLength) && decide (crc16 (header :: body) = check)

/-- The kind is valid and the body complete, but the check differs (R17). -/
def checkDiffers (header : Byte) (body : List Byte) (check : BitVec 16) : Bool :=
  match headerKind header with
  | none => false
  | some kind => decide (body.length = kind.bodyLength) && !decide (crc16 (header :: body) = check)

/-- Bytes `at` to `at + n - 1` of a body as a number. -/
def fieldAt (body : List Byte) (at_ n : Nat) : Nat := beNat ((body.drop at_).take n)

/-- A date in a body (R184). -/
def dateAt (body : List Byte) (at_ : Nat) : Date :=
  ⟨BitVec.ofNat 16 (fieldAt body at_ 2), fieldAt body (at_ + 2) 5⟩

/-- A shift key in a body (R184). -/
def keyAt (body : List Byte) (at_ : Nat) : ShiftKey :=
  ⟨BitVec.ofNat 16 (fieldAt body at_ 2), fieldAt body (at_ + 2) 1⟩

/-- A microsecond of day that a frame may not carry (R88, R135, R155). -/
def usOutOfRange (us : Nat) : Bool := decide (usPerDay ≤ us)

/-- A received TRIP notice: the change, the input and the level; none where the microsecond of day or the
quality code is out of range (R88, Table 12-1). -/
def readTrip (body : List Byte) : Option (Stamp × InputNo × Bool) :=
  let date := dateAt body 0
  match ClockState.ofCode (fieldAt body 7 1) with
  | none => none
  | some q =>
    if usOutOfRange date.us then none
    else some (⟨date, q⟩, Fin.ofNat 16 (fieldAt body 8 1 / 16), (BitVec.ofNat 8 (fieldAt body 8 1)).getLsbD 0)

/-- A received HANDOVER frame: key, outcome, completion and due-to-completion seconds; none where it is
unusable on a plan of `n` boundaries (R135, R155, Table 12-2). -/
def readHandover (n : Nat) (body : List Byte) : Option (ShiftKey × HandoverOutcome × Date × BitVec 16) :=
  let key := keyAt body 0
  let completion := dateAt body 4
  match HandoverOutcome.ofCode (fieldAt body 3 1) with
  | none => none
  | some outcome =>
    if n ≤ key.index ∨ usOutOfRange completion.us then none
    else some (key, outcome, completion, BitVec.ofNat 16 (fieldAt body 11 2))

/-- A received MARK (Table 12-3). -/
structure MarkBody where
  key        : RoundKey
  status     : MarkStatus
  reading    : Int
  edgeSender : NodeNo
deriving DecidableEq, Repr

/-- The fields of a received MARK (Table 12-3); the edge sender fills the low four bits of its byte (R184). -/
def readMark (body : List Byte) : MarkBody :=
  let status := BitVec.ofNat 8 (fieldAt body 5 1)
  { key := ⟨BitVec.ofNat 16 (fieldAt body 0 2), fieldAt body 2 3⟩
    status := ⟨status.extractLsb' 0 3, status.getLsbD 7⟩
    reading := (BitVec.ofNat 32 (fieldAt body 6 4)).toInt
    edgeSender := Fin.ofNat 16 (fieldAt body 10 1 % 16) }

/-- A received TALLY frame (Table 12-4). -/
def readTallyBody (body : List Byte) : ShiftKey × TallyValues :=
  (keyAt body 0,
    { online := BitVec.ofNat 24 (fieldAt body 3 3)
      spinning := BitVec.ofNat 24 (fieldAt body 6 3)
      starts := BitVec.ofNat 8 (fieldAt body 9 1)
      syncs := BitVec.ofNat 8 (fieldAt body 10 1)
      trips := BitVec.ofNat 8 (fieldAt body 11 1)
      normalStops := BitVec.ofNat 8 (fieldAt body 12 1)
      flags := BitVec.ofNat 8 (fieldAt body 13 1) })

/-! ### Event records (R73, R186) -/

/-- Bytes 0 to 14 of a stored record, with the CORRUPT mark as given (Table 12-5). -/
def recordHead (r : Record) (corrupt : Bool) : List Byte :=
  beBytes 2 r.seq.toNat
    ++ beBytes 1 (r.kind.code + r.stamp.quality.code * 32)
    ++ beBytes 2 r.stamp.date.day.toNat
    ++ beBytes 5 (r.stamp.date.us % 2 ^ 37 + (if corrupt then 2 ^ 39 else 0))
    ++ beBytes 1 r.detailA.toNat
    ++ beBytes 4 r.detailB.toNat

/-- The record check of a record's contents, the CORRUPT mark taken as 0 (R73). -/
def recordCheck (r : Record) : BitVec 8 := crc8 (recordHead r false)

/-- The record with its check computed over its contents. -/
def Record.sealed (r : Record) : Record := { r with check := recordCheck r }

/-- The 16 bytes of a record (Table 12-5). -/
def recordBytes (r : Record) : List Byte := recordHead r r.corrupt ++ [r.check]

/-- An OVERFLOW record's lost count: bytes 10 to 12 (Table 12-6). -/
def Record.lostCount (r : Record) : BitVec 24 := r.detailA ++ r.detailB.extractLsb' 16 16

/-- An OVERFLOW record with its lost count and last-loss offset set (Table 12-6). -/
def Record.withLoss (r : Record) (count : BitVec 24) (offset : BitVec 16) : Record :=
  { r with detailA := count.extractLsb' 16 8, detailB := count.extractLsb' 0 16 ++ offset }

/-! ### Backup-domain records with a CRC-16 (R124, R128, R132) -/

/-- The eight tally fields at the sizes of PRESET TALLY (Table 12-7). -/
def tallyFieldsBytes (f : TallyFields) : List Byte :=
  beBytes 5 f.online.toNat ++ beBytes 5 f.spinning.toNat ++ beBytes 4 f.revolutions.toNat
    ++ beBytes 3 f.starts.toNat ++ beBytes 3 f.syncs.toNat ++ beBytes 3 f.trips.toNat
    ++ beBytes 3 f.normalStops.toNat ++ beBytes 4 f.outage.toNat

/-- The tally's flags byte: BLANK 0, SUSPECT 1, SATURATED 2 (section 12.4). -/
def Tally.flagsByte (t : Tally) : Nat := bitAt 0 t.blank + bitAt 1 t.suspect + bitAt 2 t.saturated

/-- The tally's check over every field and flag in the order of Table 7-1 (R124, log 26). -/
def tallyCheck (t : Tally) : BitVec 16 := crc16 (tallyFieldsBytes t.fields ++ beBytes 1 t.flagsByte)

/-- The tally with its check recomputed over its contents (R124). -/
def Tally.sealed (t : Tally) : Tally := { t with check := tallyCheck t }

/-- Six fields at the sizes of the READ SHIFT amounts (Table 12-10). -/
def SixFields.bytes (f : SixFields) : List Byte :=
  beBytes 5 f.online.toNat ++ beBytes 5 f.spinning.toNat ++ beBytes 3 f.starts.toNat
    ++ beBytes 3 f.syncs.toNat ++ beBytes 3 f.trips.toNat ++ beBytes 3 f.normalStops.toNat

/-- The baseline's check over its six fields (R128). -/
def baselineCheck (f : SixFields) : BitVec 16 := crc16 f.bytes

/-- A baseline of six values with its check (R128). -/
def Baseline.of (f : SixFields) : Baseline := ⟨f, baselineCheck f⟩

/-- The outcome code of a unit shift record: UNKNOWN 0 while there is none (R184). -/
def acceptanceCode : Option Acceptance → Nat
  | none => 0
  | some a => a.outcome.code

/-- Bytes 26 to 37 of READ SHIFT: outcome, completion and quality, seconds, post (Table 12-10). -/
def acceptanceBytes (a : Option Acceptance) : List Byte :=
  match a with
  | none => beBytes 12 0
  | some a => beBytes 1 a.outcome.code ++ stampBytes a.completion ++ beBytes 2 a.due.toNat ++ beBytes 1 a.post.val

/-- The flags byte of a unit shift record, the CORRUPT mark as given (Table 12-10). -/
def unitShiftFlags (u : UnitShift) (corrupt : Bool) : Nat :=
  bitAt 0 u.stepped + bitAt 1 u.catchUp + bitAt 2 u.merged + bitAt 3 u.notSound + bitAt 4 u.suspect + bitAt 7 corrupt

/-- The bytes of a unit shift record (Table 12-10). -/
def unitShiftBytes (u : UnitShift) (corrupt : Bool) : List Byte :=
  keyBytes u.key ++ u.amounts.bytes ++ beBytes 1 (unitShiftFlags u corrupt) ++ acceptanceBytes u.acceptance

/-- The check of a unit shift record over its contents, the CORRUPT mark apart (R132, log 26). -/
def unitShiftCheck (u : UnitShift) : BitVec 16 := crc16 (unitShiftBytes u false)

/-- A unit shift record with its check recomputed. -/
def UnitShift.sealed (u : UnitShift) : UnitShift := { u with check := unitShiftCheck u }

end Sys2Proof.Machine
end

