-- ==== Sys2Proof/Machine/EventQueue.lean ====
section
/-! DEFINITION. The Event Queue: taking a record request and placing the record (R74 to R79). -/

namespace Sys2Proof.Machine

/-- The queue's tail record. -/
def Evq.tail (q : Evq) : Option Record := q.records.getLast?

/-- An OVERFLOW record. -/
def Record.isOverflow (r : Record) : Bool := decide (r.kind = .overflow)

/-- An OVERFLOW record stands open at the tail (R77, R83). -/
def Evq.openOverflow (q : Evq) : Option Record :=
  match q.tail with
  | none => none
  | some r => if r.isOverflow then some r else none

/-- The OVERFLOW record made for the first lost record: its number, date and quality, lost count 1, offset 0 (R78). -/
def overflowFor (lost : Record) : Record :=
  (Record.withLoss { lost with kind := .overflow, corrupt := false } 1 0).sealed

/-- The last-loss offset: whole seconds from the OVERFLOW record's date to the lost record's, truncated, 0 if
negative and held at 65,535 (R79). -/
def lossOffset (first lost : Date) : BitVec 16 :=
  let d := lost.minus first
  if d < 0 then 0 else capped 16 (d / 1000000).toNat

/-- A further record lost into an open OVERFLOW record; a CORRUPT mark already set stays (R79). -/
def overflowAnd (r lost : Record) : Record :=
  (r.withLoss (r.lostCount + 1) (lossOffset r.stamp.date lost.stamp.date)).sealed

/-- Placing a record by the number of records held and the kind of the tail (R77): appended, lost into the
open OVERFLOW record, or lost into a new one. -/
def Evq.place (q : Evq) (r : Record) : List Record :=
  if q.records.length < 255 then q.records ++ [r]
  else match q.openOverflow with
    | some o => q.records.dropLast ++ [overflowAnd o r]
    | none => q.records ++ [overflowFor r]

/-- A record placed now makes a new OVERFLOW record (R78). -/
def Evq.overflows (q : Evq) : Bool :=
  !decide (q.records.length < 255) && q.openOverflow.isNone

/-- The record a request gives: the next sequence number, the contents given, its check, CORRUPT clear (R74). -/
def Evq.recordFor (q : Evq) (kind : RecordKind) (stamp : Stamp) (a : BitVec 8) (b : BitVec 32) : Record :=
  ({ seq := q.nextSeq, kind := kind, stamp := stamp, detailA := a, detailB := b, check := 0, corrupt := false } : Record).sealed

/-- A record request taken by the Event Queue: number, placing, and the EVENT OVERFLOW flag at the making of
an OVERFLOW record (R74, R75, R77, R78). -/
def State.request (s : State) (kind : RecordKind) (stamp : Stamp) (a : Nat) (b : BitVec 32) : State :=
  let r := s.evq.recordFor kind stamp (BitVec.ofNat 8 a) b
  let marks := Source.eventOverflow.markIf s.evq.overflows
  { s with
    evq := { records := s.evq.place r, nextSeq := s.evq.nextSeq + 1 }
    atl := { s.atl with flags := s.atl.flags ||| marks } }

/-- A record dated with the local clock and the clock state in force. -/
def State.requestNow (s : State) (kind : RecordKind) (a : Nat) (b : BitVec 32) : State :=
  s.request kind s.stamp a b

end Sys2Proof.Machine
end

