-- ==== Sys2Proof/Machine/ShiftRecords.lean ====
section
/-! DEFINITION. The Shift Unit's results and station shift records: giving a result to its key, the reports
of the Line Interface, creating a record, entering a TALLY frame (R153, R154, R157, R158). -/

namespace Sys2Proof.Machine

/-- The station shift record of a key, if the list holds one. -/
def Shu.recordOf (u : Shu) (k : ShiftKey) : Option StationRecord :=
  u.records.find? fun r => decide (r.key = k)

/-- The result of a key, wherever it is kept (R154). -/
def Shu.resultOf (u : Shu) (k : ShiftKey) : Option Result :=
  match u.recordOf k with
  | some r => r.result
  | none =>
    match u.heldResult with
    | some (k', r) => if k' = k then some r else none
    | none => none

/-- A record given a result; AWAITING ACCEPTANCE becomes COMPLETE with a settled one (R159). -/
def StationRecord.give (x : StationRecord) (r : Result) : StationRecord :=
  { x with
    result := some r
    status := if x.status = .awaitingAcceptance ∧ r.settled = true then .complete else x.status }

/-- A result given to its key's record, which enters COMPLETE if it was AWAITING ACCEPTANCE and the result
is settled, or else kept as the held result (R154, R159). -/
def State.giveResult (s : State) (k : ShiftKey) (r : Result) : State :=
  match s.shu.recordOf k with
  | none => { s with shu := { s.shu with heldResult := some (k, r) } }
  | some x =>
    let records := s.shu.records.map fun y => if y.key = k then y.give r else y
    let completes := decide (x.status = .awaitingAcceptance) && r.settled
    { s with
      shu := { s.shu with records := records }
      atl := { s.atl with flags := s.atl.flags ||| Source.stationShiftComplete.markIf completes } }

/-- The Line Interface's report of a HANDOVER frame's end: the own frame state of a PENDING result changes,
and HEARD or NOT SENT settles it (R153, R154). -/
def State.reportFrame (s : State) (k : ShiftKey) (own : OwnFrame) : State :=
  match s.shu.resultOf k with
  | none => s
  | some r =>
    if r.own = some .pending then
      s.giveResult k { r with own := some own, settled := r.settled || decide (own = .heard) || decide (own = .notSent) }
    else s

/-- A station shift record as it is created: GATHERING, no entries, its gather timer from 0 (R157). -/
def newStationRecord (k : ShiftKey) (held : Option (ShiftKey × Result)) (now : Nat) : StationRecord where
  key := k
  entries := []
  result :=
    match held with
    | some (k', r) => if k' = k then some r else none
    | none => none
  gatherSince := now
  status := .gathering

/-- The held result after a record has been created for a key: moved away if it was that key's (R154). -/
def heldAfter (k : ShiftKey) (held : Option (ShiftKey × Result)) : Option (ShiftKey × Result) :=
  match held with
  | some (k', r) => if k' = k then none else some (k', r)
  | none => none

/-- Creation of the station shift record for a key, skipped when the key is not later than the last created
one; into a list of 8 the oldest is removed first and counted lost (R157). With no last created key every key counts as
later: the model's choice (log 54). -/
def State.createRecord (s : State) (k : ShiftKey) : State :=
  if k.laterThan s.shu.lastCreated then
    let full := decide (8 ≤ s.shu.records.length)
    let kept := if full then s.shu.records.drop 1 else s.shu.records
    { s with
      shu := { s.shu with
        records := kept ++ [newStationRecord k s.shu.heldResult s.time.elapsed]
        heldResult := heldAfter k s.shu.heldResult
        lastCreated := some k
        lostRecords := if full then satInc s.shu.lostRecords else s.shu.lostRecords } }
  else s

/-- An entry put into entries kept in node-number order, in place of one for the same node (R158). -/
def putEntry (e : StationEntry) : List StationEntry → List StationEntry
  | [] => [e]
  | x :: xs =>
    if x.node = e.node then e :: xs
    else if e.node < x.node then e :: x :: xs
    else x :: putEntry e xs

/-- A TALLY frame's values entered into the record for its key (R158). -/
def State.enterTally (s : State) (sender : NodeNo) (k : ShiftKey) (v : TallyValues) : State :=
  match s.shu.recordOf k with
  | none => s
  | some x =>
    let entry : StationEntry := ⟨sender, some v, !s.cfg.expectedUnits.getLsbD sender.val⟩
    let had := x.entries.any fun y => decide (y.node = sender)
    { s with
      shu := { s.shu with
        records := s.shu.records.map fun y => if y.key = k then { y with entries := putEntry entry y.entries } else y
        repeated := if had then satInc s.shu.repeated else s.shu.repeated } }

/-- An unmatched TALLY frame is counted (R158). -/
def State.countUnmatched (s : State) : State :=
  { s with shu := { s.shu with unmatched := satInc s.shu.unmatched } }

/-- A TALLY frame delivered to the Shift Unit, or handed to it by the Run Unit of the same node (R158). With no last created
key its key counts as later, and a record is created for it: the model's choice (log 54). -/
def State.tallyReceived (s : State) (sender : NodeNo) (k : ShiftKey) (v : TallyValues) : State :=
  if s.cfg.boundaries.length ≤ k.index then s.countUnmatched
  else if k.laterThan s.shu.lastCreated then (s.createRecord k).enterTally sender k v
  else match s.shu.recordOf k with
    | none => s.countUnmatched
    | some x => if x.status = .gathering then s.enterTally sender k v else s.countUnmatched

end Sys2Proof.Machine
end

