-- ==== Sys2Proof/Machine/SendList.lean ====
section
/-! DEFINITION. The Line Interface's send list: queue requests, displacement, dropping a MARK, removing a
HANDOVER frame, and what ends a send (R13 to R15, R20 to R22). -/

namespace Sys2Proof.Machine

/-! ### Counters -/

/-- A change of the line counters (R23). -/
def State.count (s : State) (f : LineCounters → LineCounters) : State :=
  { s with lif := { s.lif with counters := f s.lif.counters } }

/-- One more form error. -/
def LineCounters.addForm (c : LineCounters) : LineCounters := { c with formErrors := satInc c.formErrors }

/-- One more late mark. -/
def LineCounters.addLateMark (c : LineCounters) : LineCounters := { c with lateMarks := satInc c.lateMarks }

/-- One more displaced frame. -/
def LineCounters.addDisplaced (c : LineCounters) : LineCounters := { c with displaced := satInc c.displaced }

/-- One more unheard send. -/
def LineCounters.addUnheard (c : LineCounters) : LineCounters := { c with unheard := satInc c.unheard }

/-! ### The list -/

/-- The kind of a queued frame. -/
def QueuedFrame.kind (f : QueuedFrame) : FrameKind := f.content.kind

/-- A queued frame is a MARK. -/
def QueuedFrame.isMark (f : QueuedFrame) : Bool := decide (f.kind = .mark)

/-- A queued frame is the HANDOVER of a key. -/
def QueuedFrame.isHandoverOf (k : ShiftKey) (f : QueuedFrame) : Bool :=
  match f.content with
  | .handover k' _ _ _ => decide (k' = k)
  | .trip _ _ _ | .mark _ | .tally _ _ => false

/-- A queued frame is the MARK of a round. -/
def QueuedFrame.isMarkOf (k : RoundKey) (f : QueuedFrame) : Bool :=
  match f.content with
  | .mark k' => decide (k' = k)
  | .trip _ _ _ | .handover _ _ _ _ | .tally _ _ => false

/-- A frame put into the list: by kind code, and within a kind behind those queued before it (R20). -/
def insertFrame (f : QueuedFrame) : List QueuedFrame → List QueuedFrame
  | [] => [f]
  | g :: gs => if g.kind.code ≤ f.kind.code then g :: insertFrame f gs else f :: g :: gs

/-- The list without the last frame that meets a test. -/
def removeLast (p : QueuedFrame → Bool) (l : List QueuedFrame) : List QueuedFrame :=
  (l.reverse.eraseP p).reverse

/-- The last frame that meets a test. -/
def findLast (p : QueuedFrame → Bool) (l : List QueuedFrame) : Option QueuedFrame :=
  l.reverse.find? p

/-- A frame as it is queued. -/
def State.freshFrame (s : State) (c : FrameContent) : QueuedFrame := ⟨c, s.time.elapsed, 0, false, false⟩

/-- The send list replaced. -/
def State.setSendList (s : State) (l : List QueuedFrame) : State := { s with lif := { s.lif with sendList := l } }

/-- How a queue request is answered. -/
inductive QueueAnswer where
  | queued | refused | dropped
deriving DecidableEq, Repr

/-- Detail B of a SEND FAILED record: for TRIP the input and level, for the others the shift key (Table 12-6). -/
def sendFailedDetail : FrameContent → BitVec 32
  | .trip _ input active => BitVec.ofNat 32 (input.val * 16 + bitAt 0 active)
  | .handover k _ _ _ => keyDetail k
  | .tally k _ => keyDetail k
  | .mark _ => 0

/-- The SEND FAILED record of a frame, with the cause DISPLACED or UNHEARD, dated with the local clock (R14, R21). -/
def State.sendFailed (s : State) (c : FrameContent) (displaced : Bool) : State :=
  s.requestNow .sendFailed (c.kind.code + bitAt 4 displaced) (sendFailedDetail c)

/-- What becomes known of a displaced frame: a record for a TRIP or HANDOVER, and for a HANDOVER the report
to the Shift Unit (R21, R153). -/
def State.displaced (s : State) (c : FrameContent) : State :=
  match c with
  | .trip _ _ _ => s.sendFailed c true
  | .handover k _ _ _ => (s.sendFailed c true).reportFrame k .notSent
  | .mark _ | .tally _ _ => s

/-- A queued frame that a new one of kind `kind` may displace: of higher kind code, no MARK, not in a send (R21). -/
def displaceable (kind : FrameKind) (f : QueuedFrame) : Bool :=
  decide (kind.code < f.kind.code) && !f.isMark && !f.inSend

/-- A request that finds seven non-MARK frames: the last frame of higher kind code gives way, or the new
frame is dropped (R21). -/
def State.queueByDisplacing (s : State) (c : FrameContent) : State × QueueAnswer :=
  let l := s.lif.sendList
  match findLast (displaceable c.kind) l with
  | some g =>
    (((s.setSendList (insertFrame (s.freshFrame c) (removeLast (displaceable c.kind) l))).count
        LineCounters.addDisplaced).displaced g.content, .queued)
  | none => ((s.count LineCounters.addDisplaced).displaced c, .dropped)

/-- Another HANDOVER of the same key is already listed (R20). -/
def State.alreadyListed (s : State) (c : FrameContent) : Bool :=
  match c with
  | .handover k _ _ _ => s.lif.sendList.any (QueuedFrame.isHandoverOf k)
  | .trip _ _ _ | .mark _ | .tally _ _ => false

/-- A TRIP, HANDOVER or TALLY queue request: refused outside ACTIVE or when a HANDOVER of the key is listed,
queued while fewer than seven non-MARK frames are held, else handled by displacement (R20, R21). -/
def State.queueFrame (s : State) (c : FrameContent) : State × QueueAnswer :=
  if !s.active || s.alreadyListed c then (s, .refused)
  else if (s.lif.sendList.filter fun f => !f.isMark).length < 7 then
    (s.setSendList (insertFrame (s.freshFrame c) s.lif.sendList), .queued)
  else s.queueByDisplacing c

/-- A MARK queue request: into the MARK slot; a MARK of an earlier round still there is removed and counted
late, unless its send has begun, and then the request waits for the end of that send (R20). A MARK of the same round
still there, after a step back onto its boundary, is taken in the same way: the model's choice (log 40). -/
def State.queueMark (s : State) (k : RoundKey) : State :=
  if !s.active then s
  else match s.lif.sendList.find? QueuedFrame.isMark with
    | none => s.setSendList (insertFrame (s.freshFrame (.mark k)) s.lif.sendList)
    | some m =>
      if m.inSend then { s with lif := { s.lif with waitingMark := some k } }
      else (s.setSendList (insertFrame (s.freshFrame (.mark k)) (s.lif.sendList.eraseP QueuedFrame.isMark))).count
        LineCounters.addLateMark

/-- The MARK request that waited for the end of a MARK's send is taken (R20). -/
def State.queueWaiting (s : State) : State :=
  match s.lif.waitingMark with
  | none => s
  | some k => ({ s with lif := { s.lif with waitingMark := none } }).queueMark k

/-- The Clock Unit's request to drop the MARK of a round that has closed or been abandoned: removed and
counted late if it is not in a send, answered too late if it is (R15, R32). A request that still waits for the end of another
MARK's send (R20) is dropped with it and counted late: the model's choice (log 49). -/
def State.dropMark (s : State) (k : RoundKey) : State :=
  if s.lif.waitingMark = some k then
    ({ s with lif := { s.lif with waitingMark := none } }).count LineCounters.addLateMark
  else match s.lif.sendList.find? (QueuedFrame.isMarkOf k) with
    | none => s
    | some m =>
      if m.inSend then s
      else (s.setSendList (s.lif.sendList.eraseP (QueuedFrame.isMarkOf k))).count LineCounters.addLateMark

/-- The Shift Unit's request to remove its HANDOVER frame for a key; true for REMOVED, false for TOO LATE (R22). -/
def State.removeHandover (s : State) (k : ShiftKey) : State × Bool :=
  match s.lif.sendList.find? (QueuedFrame.isHandoverOf k) with
  | none => (s, true)
  | some f =>
    if f.inSend then
      (s.setSendList (s.lif.sendList.map fun g =>
        if g.isHandoverOf k then { g with removalAsked := true } else g), false)
    else (s.setSendList (s.lif.sendList.eraseP (QueuedFrame.isHandoverOf k)), true)

/-! ### The end of a send -/

/-- The frame whose send is in progress. -/
def Lif.frameInSend (l : Lif) : Option QueuedFrame := l.sendList.find? QueuedFrame.inSend

/-- Both wires released and no send in progress. -/
def Lif.released (l : Lif) : Lif :=
  { l with lclkDriven := false, ldatDriven := false, send := none, joinable := false }

/-- The list without the frame in a send. -/
def withoutInSend (l : List QueuedFrame) : List QueuedFrame := l.eraseP QueuedFrame.inSend

/-- The list with the frame in a send changed. -/
def mapInSend (f : QueuedFrame → QueuedFrame) (l : List QueuedFrame) : List QueuedFrame :=
  l.map fun g => if g.inSend then f g else g

/-- A HANDOVER frame's end reported to the Shift Unit; the other kinds' owners keep nothing of it (R13, R153). -/
def State.reportEnd (s : State) (c : FrameContent) (own : OwnFrame) : State :=
  match c with
  | .handover k _ _ _ => s.reportFrame k own
  | .trip _ _ _ | .mark _ | .tally _ _ => s

/-- The frame in a send removed from the list. -/
def State.removeSent (s : State) : State := s.setSendList (withoutInSend s.lif.sendList)

/-- A frame whose removal was asked while it was in a send that has not ended heard: removed, with no record and no
count (R22), and withdrawn (R153, log 35). -/
def State.withdrawSent (s : State) (c : FrameContent) : State := s.removeSent.reportEnd c .withdrawn

/-- A send that ends without being an attempt: arbitration lost, driver fault, stuck line. The frame stays in
its place with its attempt count, but for a HANDOVER whose removal was asked (R10, R19, R22). -/
def State.breakOffSend (s : State) : State :=
  let s1 : State := { s with lif := s.lif.released }
  match s.lif.frameInSend with
  | none => s1
  | some f =>
    (if f.removalAsked then s1.withdrawSent f.content
      else s1.setSendList (mapInSend (fun g => { g with inSend := false }) s.lif.sendList)).queueWaiting

end Sys2Proof.Machine
end

