-- ==== Sys2Proof/Machine/Tally.lean ====
section
/-! DEFINITION. The tally record, its baseline and the unit shift close (R124 to R135). -/

namespace Sys2Proof.Machine

/-- A change of the tally record; its check is recomputed in the same change (R124). -/
def State.changeTally (s : State) (f : Tally → Tally) : State :=
  { s with tallies := { s.tallies with tally := (f s.tallies.tally).sealed } }

/-- A saturating field stands at its highest value, so an increase is held back (R126). -/
def atTop {w : Nat} (x : BitVec w) : Bool := decide (x = BitVec.allOnes w)

/-- The tally with new fields, SATURATED set if an increase was held back (R126). -/
def Tally.credit (t : Tally) (f : TallyFields) (heldBack : Bool) : Tally :=
  { t with fields := f, saturated := t.saturated || heldBack }

/-- Starts increase by one (Table 6-3). -/
def Tally.addStart (t : Tally) : Tally :=
  t.credit { t.fields with starts := satInc t.fields.starts } (atTop t.fields.starts)

/-- Syncs increase by one (Table 6-3). -/
def Tally.addSync (t : Tally) : Tally :=
  t.credit { t.fields with syncs := satInc t.fields.syncs } (atTop t.fields.syncs)

/-- Trips increase by one (R104). -/
def Tally.addTrip (t : Tally) : Tally :=
  t.credit { t.fields with trips := satInc t.fields.trips } (atTop t.fields.trips)

/-- Normal stops increase by one (R104, R120, R121). -/
def Tally.addNormalStop (t : Tally) : Tally :=
  t.credit { t.fields with normalStops := satInc t.fields.normalStops } (atTop t.fields.normalStops)

/-- One revolution; the field returns to 0 after its highest value without any flag (R113, R126). -/
def Tally.addRevolution (t : Tally) : Tally :=
  { t with fields := { t.fields with revolutions := t.fields.revolutions + 1 } }

/-- One oscillator tenth credited to the run state in force (R125). -/
def Tally.addTenth (t : Tally) (state : RunState) : Tally :=
  match state with
  | .online => t.credit { t.fields with online := satInc t.fields.online } (atTop t.fields.online)
  | .spinning => t.credit { t.fields with spinning := satInc t.fields.spinning } (atTop t.fields.spinning)
  | .standstill => t

/-- The outage duration added to the outage tenths, saturating (R126, R167). A duration that carries the field past its
highest value from below sets SATURATED at once: the model's choice (log 44). -/
def Tally.addOutage (t : Tally) (tenths : BitVec 32) : Tally :=
  let sum := t.fields.outage.toNat + tenths.toNat
  t.credit { t.fields with outage := capped 32 sum } (decide (2 ^ 32 ≤ sum))

/-- The six tally fields of the same names as the baseline's (R128). -/
def sixOf (f : TallyFields) : SixFields :=
  ⟨f.online, f.spinning, f.starts, f.syncs, f.trips, f.normalStops⟩

/-- A total minus its baseline, 0 where the total is below it (R131, R136). -/
def amountOf {w : Nat} (total base : BitVec w) : BitVec w := if base.toNat ≤ total.toNat then total - base else 0

/-- The six amounts accumulated since the last close (R131, R136). -/
def amounts (total base : SixFields) : SixFields where
  online := amountOf total.online base.online
  spinning := amountOf total.spinning base.spinning
  starts := amountOf total.starts base.starts
  syncs := amountOf total.syncs base.syncs
  trips := amountOf total.trips base.trips
  normalStops := amountOf total.normalStops base.normalStops

/-- A tally total lies below its baseline, so an amount is taken as 0 (R131). -/
def someBelow (total base : SixFields) : Bool :=
  decide (total.online.toNat < base.online.toNat) || decide (total.spinning.toNat < base.spinning.toNat)
    || decide (total.starts.toNat < base.starts.toNat) || decide (total.syncs.toNat < base.syncs.toNat)
    || decide (total.trips.toNat < base.trips.toNat) || decide (total.normalStops.toNat < base.normalStops.toNat)

/-- A key of a close order with its flags (R131). -/
structure CloseKey where
  key     : ShiftKey
  stepped : Bool
  catchUp : Bool
  merged  : Bool
deriving DecidableEq, Repr

/-- The unit shift record a key closed now makes: everything since the last close, outcome UNKNOWN (R131, R132). -/
def unitShiftFor (t : Tallies) (state : ClockState) (c : CloseKey) : UnitShift :=
  let total := sixOf t.tally.fields
  UnitShift.sealed
    { key := c.key
      amounts := amounts total t.baseline.fields
      stepped := c.stepped
      catchUp := c.catchUp
      merged := c.merged
      notSound := !state.sound
      suspect := t.tally.suspect || someBelow total t.baseline.fields
      acceptance := none
      check := 0
      corrupt := false }

/-- An amount held at the frame's limit (R134). -/
def overLimit {w : Nat} (limit : Nat) (x : BitVec w) : Bool := decide (limit < x.toNat)

/-- The TALLY frame of a unit shift record, with the tally's BLANK and SATURATED as they stand (R134). -/
def tallyFrameOf (u : UnitShift) (t : Tally) : TallyValues :=
  let a := u.amounts
  let cap := overLimit 16777215 a.online || overLimit 16777215 a.spinning || overLimit 255 a.starts
    || overLimit 255 a.syncs || overLimit 255 a.trips || overLimit 255 a.normalStops
  { online := capped 24 a.online.toNat
    spinning := capped 24 a.spinning.toNat
    starts := capped 8 a.starts.toNat
    syncs := capped 8 a.syncs.toNat
    trips := capped 8 a.trips.toNat
    normalStops := capped 8 a.normalStops.toNat
    flags := BitVec.ofNat 8 (bitAt 0 u.stepped + bitAt 1 u.catchUp + bitAt 2 u.merged + bitAt 3 u.notSound
      + bitAt 4 u.suspect + bitAt 5 t.blank + bitAt 6 t.saturated + bitAt 7 cap) }

/-- Detail A of a UNIT SHIFT CLOSED record (Table 12-6). -/
def unitShiftDetail (u : UnitShift) : Nat :=
  bitAt 0 u.stepped + bitAt 1 u.catchUp + bitAt 2 u.merged + bitAt 3 u.notSound

/-- The records of a unit shift close: the unit shift record at the head of the list of at most 4, the last
closed key, the baseline brought up to the tally (R131, R132, step 1 of R133). -/
def Tallies.close (t : Tallies) (u : UnitShift) : Tallies :=
  { t with
    baseline := Baseline.of (sixOf t.tally.fields)
    unitShifts := (u :: t.unitShifts).take 4
    lastClosed := some u.key }

/-- A TALLY frame queued for a unit shift record; on a node with both roles its content goes to the Shift
Unit too, whatever becomes of the frame (step 4 of R133, R158). -/
def State.sendTally (s : State) (k : ShiftKey) (v : TallyValues) : State :=
  let q := (s.queueFrame (.tally k v)).1
  if q.cfg.postRole then q.tallyReceived q.lif.nodeNumber k v else q

/-- One key closed: record, UNIT SHIFT CLOSED record, flag, TALLY frame, in this order (R133). -/
def State.closeUnitShift (s : State) (c : CloseKey) : State :=
  let u := unitShiftFor s.tallies s.clu.state c
  let v := tallyFrameOf u s.tallies.tally
  let s1 := { s with tallies := s.tallies.close u }
  let s2 := s1.requestNow .unitShiftClosed (unitShiftDetail u) (keyDetail c.key)
  (s2.setFlag .unitShiftClosed).sendTally c.key v

/-- A close order taken whole: keys not later than the last closed one are dropped, the rest closed in
ascending order; the first of them takes every amount (R131). -/
def State.closeOrder (s : State) (keys : List CloseKey) : State :=
  (keys.filter fun c => c.key.laterThan s.tallies.lastClosed).foldl State.closeUnitShift s

/-- The unit shift record of a key whose outcome is UNKNOWN (R135). -/
def UnitShift.awaits (k : ShiftKey) (u : UnitShift) : Bool := decide (u.key = k) && u.acceptance.isNone

/-- The first unit shift record that awaits the outcome of a key takes it; its check is recomputed (R135). -/
def acceptFirst (k : ShiftKey) (a : Acceptance) : List UnitShift → List UnitShift
  | [] => []
  | u :: us => if u.awaits k then UnitShift.sealed { u with acceptance := some a } :: us else u :: acceptFirst k a us

/-- A HANDOVER frame delivered to the Run Unit: its outcome goes into the key's record if that is UNKNOWN,
else the frame is counted unused (R135). -/
def State.unitHandover (s : State) (sender : NodeNo) (quality : ClockState) (body : List Byte) : State :=
  let unused := { s with run := { s.run with unusedHandovers := satInc s.run.unusedHandovers } }
  match readHandover s.cfg.boundaries.length body with
  | none => unused
  | some (k, outcome, completion, due) =>
    if s.tallies.unitShifts.any (UnitShift.awaits k) then
      { s with tallies := { s.tallies with
          unitShifts := acceptFirst k ⟨outcome, ⟨completion, quality⟩, due, sender⟩ s.tallies.unitShifts } }
    else unused

end Sys2Proof.Machine
end

