-- ==== Sys2Proof/Machine/RunUnit.lean ====
section
/-! DEFINITION. The run state machine: breaker levels, speed conditions, the stop awaiting classification
and its ways out (R104, R114 to R121). -/

namespace Sys2Proof.Machine

/-- Detail A of a STOP CLASSIFIED record (Table 12-6). -/
structure StopFlags where
  superseded : Bool
  outage     : Bool
  reset      : Bool
deriving DecidableEq, Repr

/-- No flag: a classification by cascade (R104). -/
def StopFlags.none : StopFlags := ⟨false, false, false⟩

/-- A STOP CLASSIFIED record: its date, the deciding cascade's first-out for TRIP (none for NORMAL), the flags
and the elapsed milliseconds, held at 16,777,215 (R104, Table 12-6). -/
def State.recordStop (s : State) (date : Stamp) (trip : Option (NodeNo × InputNo)) (f : StopFlags) (ms : Nat) : State :=
  let firstOut := match trip with
    | some (node, input) => node.val * 2 ^ 28 + input.val * 2 ^ 24
    | Option.none => 0
  s.request .stopClassified date
    (bitAt 0 trip.isSome + bitAt 1 f.superseded + bitAt 2 f.outage + bitAt 3 f.reset)
    (BitVec.ofNat 32 (firstOut + min ms 16777215))

/-- A stop classified: the record, one more trip or normal stop, and the stop no longer waits (R104, R120, R121). -/
def State.classify (s : State) (stop : Stop) (trip : Option (NodeNo × InputNo)) (f : StopFlags) : State :=
  let s1 := s.recordStop stop.stamp trip f ((s.time.elapsed - stop.takenAt) / 1000)
  let s2 := s1.changeTally (if trip.isSome then Tally.addTrip else Tally.addNormalStop)
  { s2 with run := { s2.run with stop := Option.none } }

/-- The RUN CHANGE record of a transition, its flag FOUND RUNNING in the initial phase (R115, R116, Table 12-6). -/
def State.recordRun (s : State) (date : Stamp) (new : RunState) (speedDoubt : Bool) : State :=
  s.request .runChange date
    (s.run.state.code + new.code * 4 + bitAt 4 speedDoubt + bitAt 5 s.run.initialPhase)
    (BitVec.ofNat 32 s.spu.speed)

/-- The SPEED SILENT timing after a change: it starts when ONLINE and the silent mark come to hold together,
runs on while they do, and stops with the condition when they do not (R117). -/
def State.timeSilence (s : State) : State :=
  if decide (s.run.state = .online) && s.spu.silent then
    { s with run := { s.run with
        silentSince := match s.run.silentSince with
          | some t => some t
          | Option.none => some s.time.elapsed } }
  else { s with run := { s.run with silentSince := Option.none, speedSilent := false } }

/-- The run state after a transition: the initial phase ends with its first one (R116). -/
def State.enterRun (s : State) (new : RunState) : State :=
  { s with run := { s.run with state := new, initialPhase := false } }

/-- The deadline of a stop taken now: W plus the settle time plus 100 ms (R100). -/
def State.stopDeadlineAt (s : State) : Nat :=
  s.time.elapsed + (s.cfg.spanMs + s.cfg.settleMs + 100) * 1000

/-- The breaker closes: a waiting stop is superseded, then ONLINE with syncs + 1, SPEED DOUBT from STANDSTILL
(Table 6-3, R120). -/
def State.breakerCloses (s : State) (date : Stamp) : State :=
  let s0 := { s with run := { s.run with breakerClosed := true } }
  match s.run.state with
  | .online => s0
  | .standstill | .spinning =>
    let s1 := match s.run.stop with
      | Option.none => s0
      | some stop => s0.classify stop Option.none ⟨true, false, false⟩
    let s2 := s1.changeTally Tally.addSync
    ((s2.recordRun date .online (decide (s.run.state = .standstill))).enterRun .online).timeSilence

/-- The breaker opens: from ONLINE a stop is taken in WAITING and the run state becomes SPINNING if turning,
else STANDSTILL (Table 6-3, R119). -/
def State.breakerOpens (s : State) (date : Stamp) : State :=
  let s0 := { s with run := { s.run with breakerClosed := false } }
  match s.run.state with
  | .standstill | .spinning => s0
  | .online =>
    let new := if s.run.turning then RunState.spinning else RunState.standstill
    let s1 := { s0 with run := { s0.run with stop := some ⟨date, s.time.elapsed, .waiting s.stopDeadlineAt⟩ } }
    ((s1.recordRun date new false).enterRun new).timeSilence

/-- A breaker level handed by the Input Scanner, one event of the run state machine (R115). -/
def State.breakerLevel (s : State) (closed : Bool) (date : Stamp) : State :=
  if closed then s.breakerCloses date else s.breakerOpens date

/-- The speed condition a speed gives: turning from the spin threshold up, still below the standstill
threshold, unchanged between (R114). -/
def speedCondition (c : NodeConfig) (speed : Nat) (before : Bool) : Bool :=
  if c.spin ≤ speed then true else if speed < c.standstill then false else before

/-- A speed handed to the Run Unit; a change of the speed condition is an event of the run state machine, and a
speed that makes no transition ends the initial phase (R114, R115, R116). -/
def State.speedHanded (s : State) : State :=
  let cond := speedCondition s.cfg s.spu.speed s.run.turning
  let s0 := { s with run := { s.run with turning := cond } }
  if cond = s.run.turning then { s0 with run := { s0.run with initialPhase := false } }
  else match s.run.state, cond with
    | .standstill, true =>
      if s.run.breakerClosed then { s0 with run := { s0.run with initialPhase := false } }
      else (((s0.changeTally Tally.addStart).recordRun s.stamp .spinning false).enterRun .spinning).timeSilence
    | .spinning, false => ((s0.recordRun s.stamp .standstill false).enterRun .standstill).timeSilence
    | .standstill, false | .spinning, true | .online, _ => { s0 with run := { s0.run with initialPhase := false } }

/-- The run closed out at a loss of main supply or an assertion of RSTN: a waiting stop, or an ONLINE run
state, is counted as one normal stop (R121). -/
def State.closeOut (s : State) (reset : Bool) : State :=
  let f : StopFlags := ⟨false, !reset, reset⟩
  match s.run.stop with
  | some stop => s.classify stop Option.none f
  | Option.none =>
    if s.run.state = .online then
      (s.recordStop s.stamp Option.none f 0).changeTally Tally.addNormalStop
    else s

end Sys2Proof.Machine
end

