-- ==== Sys2Proof/Machine/Cascade.lean ====
section
/-! DEFINITION. The Cascade Unit: members and their placement, closing a cascade, and the classification of
a stop by cascade (R86 to R105). -/

namespace Sys2Proof.Machine

/-- A member is DOUBTFUL when its quality is not sound (R86). -/
def Member.doubtful (m : Member) : Bool := !m.stamp.quality.sound

/-- Two members with the same node number, input number and date (R92). -/
def Member.same (m n : Member) : Bool :=
  decide (m.node = n.node) && decide (m.input = n.input) && decide (m.stamp.date = n.stamp.date)

/-- Member order: by date, then node number, then input number (R89). -/
def Member.before (m n : Member) : Bool :=
  m.stamp.date.earlier n.stamp.date
    || (decide (m.stamp.date = n.stamp.date)
      && (decide (m.node < n.node) || (decide (m.node = n.node) && decide (m.input < n.input))))

/-- A member put into its place in member order. -/
def insertMember (m : Member) : List Member → List Member
  | [] => [m]
  | x :: xs => if m.before x then m :: x :: xs else x :: insertMember m xs

/-- The earliest date of a cascade's span: the opening date minus W (R89). -/
def Cascade.spanStart (c : Cascade) (spanMs : Nat) : Date := c.opening.date.plus (-((spanMs * 1000 : Nat) : Int))

/-- The latest date of a cascade's span: the opening date plus W (R89). -/
def Cascade.spanEnd (c : Cascade) (spanMs : Nat) : Date := c.opening.date.plus ((spanMs * 1000 : Nat) : Int)

/-- A date lies within a cascade's span, both ends included: the cascade covers it (R89, R100). -/
def Cascade.covers (c : Cascade) (spanMs : Nat) (d : Date) : Bool :=
  d.within (c.spanStart spanMs) (c.spanEnd spanMs)

/-- The first-out: the first stored member in member order (R89). -/
def Cascade.firstOut (c : Cascade) : Option (NodeNo × InputNo) :=
  match c.members with
  | [] => none
  | m :: _ => some (m.node, m.input)

/-- A cascade qualifies: it holds a stored member other than one of the own node's BREAKER input (R96). -/
def State.qualifies (s : State) (c : Cascade) : Bool :=
  c.members.any fun m =>
    !(decide (m.node = s.lif.nodeNumber) && decide ((s.inputCfg m.input).role = .breaker))

/-- A cascade as its opener opens it (R91). -/
def cascadeOf (m : Member) : Cascade where
  opening := m.stamp
  opener := m.node
  members := [m]
  doubtful := m.doubtful
  full := false
  late := false
  notStored := 0
  lateCount := 0

/-- A member opens a cascade; the close timer starts and runs W plus the settle time (R91). -/
def State.openCascade (s : State) (m : Member) : State :=
  let closeAt := s.time.elapsed + (s.cfg.spanMs + s.cfg.settleMs) * 1000
  { s with csu := { s.csu with current := some ⟨cascadeOf m, closeAt⟩ } }

/-- A member within the span inserted: discarded if it is there already, not stored if 24 are stored, else put
into its place (R92). -/
def Cascade.insert (c : Cascade) (m : Member) : Cascade :=
  if c.members.any (Member.same m) then c
  else if 24 ≤ c.members.length then { c with full := true, notStored := satInc c.notStored }
  else { c with members := insertMember m c.members, doubtful := c.doubtful || m.doubtful }

/-- A member late to a closed cascade: counted, unless it is stored there (R94). -/
def Cascade.addLate (c : Cascade) (m : Member) : Cascade :=
  if c.members.any (Member.same m) then c else { c with late := true, lateCount := satInc c.lateCount }

/-- The last element of a list that meets a test, changed. -/
def changeLast {α : Type} (p : α → Bool) (f : α → α) (l : List α) : List α :=
  match l with
  | [] => []
  | x :: xs => if xs.any p then x :: changeLast p f xs else if p x then f x :: xs else x :: xs

/-- A stray is counted (R95). -/
def State.countStray (s : State) : State := { s with csu := { s.csu with stray := satInc s.csu.stray } }

/-- A member for the pending opener slot: into the empty slot; the same as the occupant is discarded; of two,
the earlier dated stays, the occupant on equal dates, and the other is a stray (R93). -/
def State.toSlot (s : State) (m : Member) : State :=
  match s.csu.slot with
  | none => { s with csu := { s.csu with slot := some m } }
  | some o =>
    if m.same o then s
    else if m.stamp.date.earlier o.stamp.date then
      ({ s with csu := { s.csu with slot := some m } }).countStray
    else s.countStray

/-- A member placed by the first test its date meets (R90). -/
def State.placeMember (s : State) (m : Member) : State :=
  let w := s.cfg.spanMs
  let d := m.stamp.date
  let late := fun c : Cascade => c.covers w d
  match s.csu.current with
  | none =>
    if s.csu.list.any late then { s with csu := { s.csu with list := changeLast late (fun c => c.addLate m) s.csu.list } }
    else s.openCascade m
  | some o =>
    if o.cascade.covers w d then { s with csu := { s.csu with current := some { o with cascade := o.cascade.insert m } } }
    else if s.csu.list.any late then { s with csu := { s.csu with list := changeLast late (fun c => c.addLate m) s.csu.list } }
    else if d.later (o.cascade.spanEnd w) then s.toSlot m
    else s.countStray

/-- A local member: placed, and its TRIP notice queued whatever the placement did (R87). -/
def State.localMember (s : State) (input : InputNo) (active : Bool) (change : Stamp) : State :=
  let m : Member := ⟨s.lif.nodeNumber, input, active, change, false, s.stamp⟩
  ((s.placeMember m).queueFrame (.trip change input active)).1

/-- A TRIP notice delivered: a member with source LINE, or a stray if its date or quality is out of range (R88). -/
def State.tripNotice (s : State) (sender : NodeNo) (start : Start) (body : List Byte) : State :=
  match readTrip body with
  | none => s.countStray
  | some (change, input, active) => s.placeMember ⟨sender, input, active, change, true, ⟨start.date, start.quality⟩⟩

/-- The Run Unit takes a close notice: a WAITING stop is TRIP if the cascade covers D and qualifies; a stop
AWAITING CLOSE of this cascade is TRIP if it qualifies, else NORMAL (R101, R103). -/
def State.closeNotice (s : State) (c : Cascade) : State :=
  match s.run.stop with
  | none => s
  | some stop =>
    let trip := if s.qualifies c then c.firstOut else none
    match stop.phase with
    | .waiting _ =>
      if c.covers s.cfg.spanMs stop.stamp.date && s.qualifies c then s.classify stop c.firstOut .none else s
    | .awaitingClose opening opener =>
      if c.opening.date = opening ∧ c.opener = opener then s.classify stop trip .none else s

/-- The cascade list with a cascade added at the newest place; the oldest of 4 is removed first (R98). -/
def Csu.addClosed (u : Csu) (c : Cascade) : Csu :=
  { u with
    current := none
    list := (if 4 ≤ u.list.length then u.list.drop 1 else u.list) ++ [c]
    lost := if 4 ≤ u.list.length then satInc u.lost else u.lost }

/-- Detail B of a CASCADE CLOSED record: opener, first-out, not-stored count (Table 12-6). -/
def cascadeDetail (c : Cascade) : BitVec 32 :=
  let (node, input) := match c.firstOut with
    | some x => (x.1.val, x.2.val)
    | none => (0, 0)
  BitVec.ofNat 32 (c.opener.val * 2 ^ 24 + node * 2 ^ 20 + input * 2 ^ 16 + c.notStored.toNat)

/-- The member in the pending opener slot leaves it and opens the next cascade (R97). -/
def State.openPending (s : State) : State :=
  match s.csu.slot with
  | none => s
  | some m => ({ s with csu := { s.csu with slot := none } }).openCascade m

/-- The open cascade is closed: to the list, its record, its flag, the close notice on a unit node, and the
pending opener, in this order (R96). -/
def State.closeCascade (s : State) (c : Cascade) : State :=
  let s1 := { s with csu := s.csu.addClosed c }
  let s2 := s1.request .cascadeClosed c.opening (c.members.length + bitAt 5 c.doubtful + bitAt 6 c.full) (cascadeDetail c)
  let s3 := s2.setFlag .cascadeClosed
  let s4 := if s3.cfg.unitRole then s3.closeNotice c else s3
  s4.openPending

/-- A WAITING stop's deadline: the open cascade that covers D is awaited, else the oldest qualifying cascade of
the list that covers D makes it a TRIP, else it is NORMAL (R102). -/
def State.decideStop (s : State) (stop : Stop) : State :=
  let w := s.cfg.spanMs
  let d := stop.stamp.date
  let byList := s.classify stop
    (match s.csu.list.find? fun c => c.covers w d && s.qualifies c with
      | some c => c.firstOut
      | none => none) .none
  match s.csu.current with
  | none => byList
  | some o =>
    if o.cascade.covers w d then
      { s with run := { s.run with stop := some { stop with phase := .awaitingClose o.cascade.opening.date o.cascade.opener } } }
    else byList

/-- The close timer of the open cascade has expired (R96). -/
def State.cascadeDue (s : State) : Option Cascade :=
  match s.csu.current with
  | none => none
  | some o => if s.active && decide (o.closeAt ≤ s.time.elapsed) then some o.cascade else none

/-- The deadline of the WAITING stop has come (R102). -/
def State.deadlineDue (s : State) : Option Stop :=
  match s.run.stop with
  | none => none
  | some stop =>
    match stop.phase with
    | .waiting deadline => if s.active && decide (deadline ≤ s.time.elapsed) then some stop else none
    | .awaitingClose _ _ => none

/-- CASCADE_CLOSE (R96): the close timer expires. -/
def execCascadeClose (wait : Nat) (s : State) : Host.Outcome State Fault Refusal :=
  s.take wait fun s =>
    match s.cascadeDue with
    | none => s
    | some c => s.closeCascade c

/-- STOP_DEADLINE (R102): a WAITING stop's deadline expires. -/
def execStopDeadline (wait : Nat) (s : State) : Host.Outcome State Fault Refusal :=
  s.take wait fun s =>
    match s.deadlineDue with
    | none => s
    | some stop => s.decideStop stop

end Sys2Proof.Machine
end

