-- ==== Sys2Proof/Machine/Shift.lean ====
section
/-! DEFINITION. The Shift Unit: boundaries, the post handover machine, key presses, HANDOVER frames and the
ends of gathering (R139 to R160). -/

namespace Sys2Proof.Machine

/-! ### Targets and the early window -/

/-- The machine's target: the next key after the last reached key in ON WATCH and EARLY, the key held in DUE
and OVERDUE (R144, Table 8-2). -/
def State.target (s : State) : Option ShiftKey :=
  match s.shu.mode with
  | .onWatch | .early => s.shu.lastReached.map (nextKey s.cfg.boundaries)
  | .due | .overdue => s.shu.target

/-- Minutes in microseconds. -/
def minutesUs (n : Nat) : Nat := n * 60000000

/-- The early mark of a key: its boundary time minus E (R139). -/
def State.earlyMarkOf (s : State) (k : ShiftKey) : Date :=
  (boundaryTime s.cfg.boundaries k).plus (-((minutesUs s.cfg.earlyMin : Nat) : Int))

/-- The four conditions of entering EARLY hold together (R145). With no last accepted key the target counts as later: the
model's choice (log 45). -/
def State.earlyHolds (s : State) : Bool :=
  match s.target with
  | none => false
  | some k =>
    k.laterThan s.lastAccepted && !s.clock.date.earlier (s.earlyMarkOf k)
      && s.clock.date.earlier (boundaryTime s.cfg.boundaries k)

/-- The machine in another state; nothing else of it changes. -/
def State.setMode (s : State) (m : PostState) : State := { s with shu := { s.shu with mode := m } }

/-- The test of R145: from ON WATCH into EARLY. -/
def State.testEarly (s : State) : State :=
  if s.shu.mode = .onWatch ∧ s.earlyHolds = true then s.setMode .early else s

/-- The machine in ON WATCH with no press held and no timer running, and the test of R145. -/
def State.toOnWatch (s : State) : State :=
  ({ s with shu := { s.shu with mode := .onWatch, target := none, grace := none, held := none } }).testEarly

/-- The machine in DUE for a key, the grace timer at a value, HANDOVER DUE set (R146, R151). -/
def State.enterDue (s : State) (k : ShiftKey) (grace : Int) : State :=
  ({ s with shu := { s.shu with mode := .due, target := some k, grace := some ⟨grace, s.time.elapsed⟩ } }).setFlag .handoverDue

/-- The machine in OVERDUE for a key, the grace timer at a value, HANDOVER OVERDUE set (R151). -/
def State.enterOverdue (s : State) (k : ShiftKey) (grace : Int) : State :=
  ({ s with shu := { s.shu with mode := .overdue, target := some k, grace := some ⟨grace, s.time.elapsed⟩ } }).setFlag
    .handoverOverdue

/-! ### Closing a key at a post -/

/-- Due-to-completion seconds: whole seconds from the boundary time, truncated, 0 before it, held at 65,535
(R148, R150, log 36). -/
def dueSeconds (completion boundary : Date) : BitVec 16 :=
  let d := completion.minus boundary
  if d < 0 then 0 else capped 16 (d / 1000000).toNat

/-- A HANDOVER record: outcome, source ELSEWHERE, CONCURRENT and the key (Table 12-6). -/
def State.recordHandover (s : State) (date : Stamp) (outcome : HandoverOutcome) (elsewhere concurrent : Bool) (k : ShiftKey) : State :=
  s.request .handover date (outcome.code + bitAt 3 elsewhere + bitAt 4 concurrent) (keyDetail k)

/-- The last accepted shift key set (R148, R150, R155). -/
def State.accept (s : State) (k : ShiftKey) : State := { s with lastAccepted := some k }

/-- The own frame state a queue request leaves: PENDING when it is queued, NOT SENT when it is refused or the
new frame was dropped (R153, R21). -/
def QueueAnswer.own : QueueAnswer → OwnFrame
  | .queued => .pending
  | .refused | .dropped => .notSent

/-- A key closed with a frame: the HANDOVER frame, the HANDOVER record, the last accepted key and the result, in
this order (steps 2 to 5 of R150, step 2 of R148). -/
def State.closeWithFrame (s : State) (k : ShiftKey) (outcome : HandoverOutcome) (completion : Stamp) : State :=
  let due := dueSeconds completion.date (boundaryTime s.cfg.boundaries k)
  let q := s.queueFrame (.handover k outcome completion.date due)
  let own := q.2.own
  ((q.1.recordHandover completion outcome false false k).accept k).giveResult k
    ⟨outcome, completion, due, none, some own, decide (own = .notSent)⟩

/-- A key closed as missed without a frame (R151). -/
def State.closeWithoutFrame (s : State) (k : ShiftKey) : State :=
  let due := dueSeconds s.clock.date (boundaryTime s.cfg.boundaries k)
  ((s.recordHandover s.stamp .missed false false k).accept k).giveResult k ⟨.missed, s.stamp, due, none, none, true⟩

/-- The detail A of an UNPAIRED KEY record: the key (Table 12-6). -/
def PressKey.code : PressKey → Nat
  | .hand => 0
  | .take => 1

/-- The UNPAIRED KEY record of a press: its date and quality, its key and the shift key it was held for (R148, R149, R151). -/
def State.recordUnpaired (s : State) (p : HeldPress) : State :=
  s.request .unpairedKey p.stamp p.key.code (keyDetail p.target)

/-- The held press dropped without a record. -/
def State.clearHeld (s : State) : State := { s with shu := { s.shu with held := none } }

/-- The held press, if there is one, dropped with its UNPAIRED KEY record (step 1 of R148, R149). -/
def State.dropHeld (s : State) : State :=
  match s.shu.held with
  | none => s
  | some p => (s.recordUnpaired p).clearHeld

/-- A target missed: steps 1 and 2 of R148. -/
def State.missTarget (s : State) (t : ShiftKey) : State :=
  let s1 := s.dropHeld
  s1.closeWithFrame t .missed s1.stamp

/-- The old target closed as missed, if the machine is DUE or OVERDUE. -/
def State.missIfDue (s : State) : State :=
  match s.shu.mode, s.shu.target with
  | .due, some t | .overdue, some t => s.missTarget t
  | .onWatch, _ | .early, _ | _, none => s

/-! ### Boundaries -/

/-- A reached key taken in ON WATCH or EARLY, or by step 3 of R148: DUE if it is later than the last accepted
key, else ON WATCH (R146). -/
def State.takeReached (s : State) (k : ShiftKey) : State :=
  if k.laterThan s.lastAccepted then s.enterDue k 0 else s.toOnWatch

/-- The last reached key replaced; boundaries up to it are no longer to be taken (R140, R141). A boundary that the clock has
come to and whose row is still to be taken when a forward step taken first crosses a later key is dropped here, its key not
closed: the model's choice (log 48). -/
def State.reach (s : State) (k : ShiftKey) : State :=
  { s with shu := { s.shu with lastReached := some k, keyDue := s.shu.keyDue.filter fun c => c.later k } }

/-- Creation of station shift records for keys in order (R141, R152). -/
def State.createRecords (s : State) (ks : List ShiftKey) : State := ks.foldl State.createRecord s

/-- The key whose boundary the advancing clock has come to: the next key after the last reached one, while the keys that
the clock has come to lie after that (R140, R142). -/
def State.boundaryKeyDue (s : State) : Option ShiftKey :=
  match s.shu.lastReached, s.shu.keyDue with
  | some k, some c => if s.active && s.clock.valid && c.later k then some (nextKey s.cfg.boundaries k) else none
  | none, _ | some _, none => none

/-- A boundary reached: the close order on a unit node, the station shift record and the handover machine on
a post, in this order (R140). -/
def State.boundaryReached (s : State) (k : ShiftKey) : State :=
  let s1 := s.reach k
  let s2 := if s1.cfg.unitRole then s1.closeOrder [⟨k, false, false, false⟩] else s1
  if s2.cfg.postRole then ((s2.createRecord k).missIfDue).takeReached k else s2

/-! ### Steps and OPEN -/

/-- The n latest keys that end with a key and meet a condition, in ascending order. -/
def keysTo (plan : List Nat) (n : Nat) (top : ShiftKey) (p : ShiftKey → Bool) : List ShiftKey :=
  ((keysBack plan n top).filter p).reverse

/-- The last key of the latest day that is later than a key's (R1). -/
def halfCircleOn (plan : List Nat) (k : ShiftKey) : ShiftKey := ⟨k.day + 32767, plan.length - 1⟩

/-- The latest key that is later than a key and whose boundary time is at or before a date, if there is any: the latest
one at or before the date, unless that lies so far round the circle of days that it is not later; then the last key of
the latest day that is later (R1). -/
def latestKeyAfter (plan : List Nat) (k : ShiftKey) (new : Date) : ShiftKey :=
  let c := latestKeyAt plan new
  if c.later k then c else halfCircleOn plan k

/-- The keys later than a key whose boundary time is at or before a date and that meet a further condition, in the order
and with the comparisons of R1; the latest five of them at most, in ascending order. -/
def keysUpTo (plan : List Nat) (new : Date) (k : ShiftKey) (p : ShiftKey → Bool) : List ShiftKey :=
  keysTo plan 5 (latestKeyAfter plan k new) fun x => x.later k && !(boundaryTime plan x).later new && p x

/-- The last four of an ascending list, or all of them. -/
def lastFour {α : Type} (l : List α) : List α := l.drop (l.length - 4)

/-- The close order of a step or of the catch-up: the last four keys in ascending order, flagged, with MERGED on
the earliest when there were more (R141, R143). -/
def closeKeys (stepped catchUp : Bool) (keys : List ShiftKey) : List CloseKey :=
  match lastFour keys with
  | [] => []
  | k :: ks =>
    ⟨k, stepped, catchUp, decide (4 < keys.length)⟩ :: ks.map fun k => ⟨k, stepped, catchUp, false⟩

/-- A step crosses a key: boundary time after the old and at or before the new date, later than the last reached key
(R141). -/
def State.crosses (s : State) (last : ShiftKey) (old new : Date) (k : ShiftKey) : Bool :=
  k.later last && !(boundaryTime s.cfg.boundaries k).later new && (boundaryTime s.cfg.boundaries k).later old

/-- The keys a step crosses (R141); more than four show as five. -/
def State.crossedKeys (s : State) (last : ShiftKey) (old new : Date) : List ShiftKey :=
  if new.later old then keysTo s.cfg.boundaries 5 (latestKeyAfter s.cfg.boundaries last new) (s.crosses last old new) else []

/-- The latest of the keys up to one that are later than a second one: that one itself, unless it lies so far round the circle
of days that it is not later (R1). -/
def latestLaterThan (plan : List Nat) (top : ShiftKey) (accepted : Option ShiftKey) : ShiftKey :=
  match accepted with
  | none => top
  | some a => if top.later a then top else halfCircleOn plan a

/-- The keys L of R151: those that a step crosses and that are later than the last accepted one; the latest five of them at
most, in ascending order. -/
def State.crossedAfter (s : State) (last : ShiftKey) (old new : Date) (accepted : Option ShiftKey) : List ShiftKey :=
  if new.later old then
    keysTo s.cfg.boundaries 5 (latestLaterThan s.cfg.boundaries (latestKeyAfter s.cfg.boundaries last new) accepted)
      fun k => s.crosses last old new k && k.laterThan accepted
  else []

/-- A press held before the step is kept if the new target is its key, else dropped with its record (R151). -/
def State.keepHeldFor (s : State) (held : Option HeldPress) (target : Option ShiftKey) : State :=
  match held with
  | none => s
  | some p =>
    if some p.target = target then { s with shu := { s.shu with held := some p } }
    else (s.recordUnpaired p).clearHeld

/-- The last key of L becomes the target, DUE or OVERDUE by the time since its boundary, a signed difference (R1, R151). -/
def State.targetLast (s : State) (k : ShiftKey) : State :=
  let since := s.clock.date.minus (boundaryTime s.cfg.boundaries k)
  if since < minutesUs s.cfg.graceMin then s.enterDue k since else s.enterOverdue k since

/-- The keys L handled: none, ON WATCH; else up to three before the last are missed without a frame and the
last becomes the target (R151). -/
def State.handleKeys (s : State) (l : List ShiftKey) : State :=
  match (lastFour l).getLast? with
  | none => s.toOnWatch
  | some k => ((lastFour l).dropLast.foldl State.closeWithoutFrame s).targetLast k

/-- The handover machine takes a step that crossed keys (R151, log 31). -/
def State.stepAtPost (s : State) (last : ShiftKey) (old new : Date) : State :=
  let s1 := s.missIfDue
  let s2 := s1.handleKeys (s1.crossedAfter last old new s1.lastAccepted)
  s2.keepHeldFor s1.shu.held s2.target

/-- The keys that a step crosses handled: the last reached key, the close order, the records, the machine (R141). -/
def State.takeCrossed (s : State) (last : ShiftKey) (old new : Date) : State :=
  let crossed := s.crossedKeys last old new
  match crossed.getLast? with
  | none => s
  | some top =>
    let s1 := s.reach top
    let s2 := if s1.cfg.unitRole then s1.closeOrder (closeKeys true false crossed) else s1
    if s2.cfg.postRole then (s2.createRecords (lastFour crossed)).stepAtPost last old new else s2

/-- A step that lands: R145 is tested on a post. -/
def State.testEarlyAtPost (s : State) : State := if s.cfg.postRole then s.testEarly else s

/-- A step reported by the Clock Unit while the node is ACTIVE: it sets the last reached key when it made the
time valid (R142), else its crossed keys are handled (R141); then R145 is tested. -/
def State.reportStep (s : State) (old new : Date) : State :=
  if s.active then
    match s.shu.lastReached with
    | none => (s.reach (latestKeyAt s.cfg.boundaries new)).testEarlyAtPost
    | some k => (s.takeCrossed k old new).testEarlyAtPost
  else s

/-- The keys later than a kept key whose boundary time is at or before the current date (R143, R152), compared as R1 says. -/
def State.keysSince (s : State) (k : ShiftKey) : List ShiftKey :=
  keysUpTo s.cfg.boundaries s.clock.date k fun _ => true

/-- The catch-up of a unit node at OPEN (R143). -/
def State.catchUp (s : State) : State :=
  match s.tallies.lastClosed with
  | none => s
  | some k => s.closeOrder (closeKeys false true (s.keysSince k))

/-- A post's handover at OPEN, the time being valid (R152). -/
def State.postAtOpen (s : State) : State :=
  match s.lastAccepted with
  | none => s
  | some k =>
    match s.keysSince k with
    | [] => s.testEarly
    | l => (s.createRecords (lastFour l)).handleKeys l

/-- The Shift Unit at OPEN: last reached key, catch-up, handover (R143, R152, step 7 of R179). -/
def State.openShift (s : State) : State :=
  if s.clock.valid then
    let s1 := s.reach (latestKeyAt s.cfg.boundaries s.clock.date)
    let s2 := if s1.cfg.unitRole then s1.catchUp else s1
    if s2.cfg.postRole then s2.postAtOpen else s2
  else s

/-! ### Key presses -/

/-- The outcome an acceptance has by the machine's state (R150). -/
def PostState.outcome : PostState → Option HandoverOutcome
  | .onWatch => none
  | .early => some .early
  | .due => some .onTime
  | .overdue => some .late

/-- A press is held and the pairing timer starts from 0 (Table 8-3). -/
def State.hold (s : State) (key : PressKey) (stamp : Stamp) (target : ShiftKey) : State :=
  { s with shu := { s.shu with held := some ⟨key, stamp, s.time.elapsed, target⟩ } }

/-- The accepted handover: the held press cleared, frame, record, last accepted key, result, ON WATCH (R150). -/
def State.acceptHandover (s : State) (target : ShiftKey) (outcome : HandoverOutcome) (second : Stamp) : State :=
  (s.clearHeld.closeWithFrame target outcome second).toOnWatch

/-- A press handed to the Shift Unit (Table 8-3). -/
def State.press (s : State) (key : PressKey) (stamp : Stamp) : State :=
  match s.shu.mode.outcome, s.target with
  | some outcome, some t =>
    match s.shu.held with
    | none => s.hold key stamp t
    | some p => if p.key = key then s.hold key stamp t else s.acceptHandover t outcome stamp
  | none, _ | _, none => s

/-! ### HANDOVER frames received at a post -/

/-- A HANDOVER frame counted as unused (R155, R156). -/
def State.countUnused (s : State) : State := { s with shu := { s.shu with unused := satInc s.shu.unused } }

/-- The settled result taken from a received frame (R154). -/
def resultFrom (sender : NodeNo) (outcome : HandoverOutcome) (completion : Stamp) (due : BitVec 16) : Result :=
  ⟨outcome, completion, due, some sender, none, true⟩

/-- A frame for the target is accepted elsewhere: the steps of R155 in order. -/
def State.acceptedElsewhere (s : State) (sender : NodeNo) (k : ShiftKey) (outcome : HandoverOutcome) (completion : Stamp)
    (due : BitVec 16) : State :=
  (((s.clearHeld.recordHandover completion outcome true false k).accept k).giveResult k
    (resultFrom sender outcome completion due)).toOnWatch

/-- A frame for a key already closed here, by the key's result (Table 8-4). The own frame state stays with the received
result: WITHDRAWN after REMOVED, PENDING until the send ends after TOO LATE (R153, log 35). -/
def State.concurrentHandover (s : State) (sender : NodeNo) (k : ShiftKey) (outcome : HandoverOutcome) (completion : Stamp)
    (due : BitVec 16) : State :=
  match s.shu.resultOf k with
  | none => s.countUnused
  | some r =>
    if r.elsewhere.isSome then s.countUnused
    else match r.own with
      | some .heard => s.recordHandover completion outcome true true k
      | some .pending =>
        let q := s.removeHandover k
        (q.1.recordHandover completion outcome true true k).giveResult k
          { resultFrom sender outcome completion due with own := some (if q.2 then .withdrawn else .pending) }
      | some .notSent | some .withdrawn | none =>
        (s.recordHandover completion outcome true true k).giveResult k (resultFrom sender outcome completion due)

/-- A HANDOVER frame delivered to the Shift Unit (R155, R156). -/
def State.postHandover (s : State) (sender : NodeNo) (quality : ClockState) (body : List Byte) : State :=
  match readHandover s.cfg.boundaries.length body with
  | none => s.countUnused
  | some (k, outcome, completion, due) =>
    if k.laterThan s.lastAccepted then
      if s.target = some k then s.acceptedElsewhere sender k outcome ⟨completion, quality⟩ due else s.countUnused
    else s.concurrentHandover sender k outcome ⟨completion, quality⟩ due

/-! ### Time-driven events -/

/-- The clock stands in the early window of the target in ON WATCH (R145). -/
def State.earlyDue (s : State) : Bool :=
  s.postActive && s.clock.valid && decide (s.shu.mode = .onWatch) && s.earlyHolds

/-- The grace timer in DUE has reached G (R147). -/
def State.graceDue (s : State) : Bool :=
  match s.shu.mode, s.shu.grace with
  | .due, some t => s.postActive && decide (minutesUs s.cfg.graceMin ≤ t.value s.time.elapsed)
  | .due, none | .onWatch, _ | .early, _ | .overdue, _ => false

/-- The pairing timer has reached P (R149). -/
def State.pairingDue (s : State) : Bool :=
  match s.shu.held with
  | none => false
  | some p => s.postActive && decide (p.since + s.cfg.pairingS * 1000000 ≤ s.time.elapsed)

/-- A record's gather timer has reached the gather time (R159). -/
def State.gatherDue (s : State) (r : StationRecord) : Bool :=
  s.postActive && decide (r.status = .gathering) && decide (r.gatherSince + s.cfg.gatherS * 1000000 ≤ s.time.elapsed)

/-- The entry an expected unit without one gets: ABSENT (R159). -/
def addAbsent (mask : BitVec 16) (entries : List StationEntry) (n : NodeNo) : List StationEntry :=
  if mask.getLsbD n.val && !(entries.any fun e => decide (e.node = n)) then putEntry ⟨n, none, false⟩ entries else entries

/-- Gathering ends: ABSENT entries, and COMPLETE with a settled result, else AWAITING ACCEPTANCE (R159). -/
def StationRecord.endGathering (r : StationRecord) (mask : BitVec 16) : StationRecord :=
  { r with
    entries := allInputs.foldl (addAbsent mask) r.entries
    status := if r.result.any Result.settled then .complete else .awaitingAcceptance }

/-- The end of gathering of one key's record, with the flag if it enters COMPLETE (R159). -/
def State.endGathering (s : State) (k : ShiftKey) (r : StationRecord) : State :=
  let e := r.endGathering s.cfg.expectedUnits
  { s with
    shu := { s.shu with records := s.shu.records.map fun x => if x.key = k then e else x }
    atl := { s.atl with flags := s.atl.flags ||| Source.stationShiftComplete.markIf (decide (e.status = .complete)) } }

/-- SHIFT_BOUNDARY_REACHED (R140): the clock comes to the boundary time of the next key. -/
def execShiftBoundaryReached (wait : Nat) (s : State) : Host.Outcome State Fault Refusal :=
  s.take wait fun s =>
    match s.boundaryKeyDue with
    | none => s
    | some k => s.boundaryReached k

/-- EARLY_MARK (R145): the clock passes the target's early mark in ON WATCH. -/
def execEarlyMark (wait : Nat) (s : State) : Host.Outcome State Fault Refusal :=
  s.take wait fun s => s.when s.earlyDue (s.setMode .early)

/-- GRACE_EXPIRY (R147): DUE becomes OVERDUE and HANDOVER OVERDUE is set; the grace timer runs on. -/
def execGraceExpiry (wait : Nat) (s : State) : Host.Outcome State Fault Refusal :=
  s.take wait fun s => s.when s.graceDue ((s.setMode .overdue).setFlag .handoverOverdue)

/-- PAIRING_TIMEOUT (R149): the held press is dropped with its UNPAIRED KEY record. -/
def execPairingTimeout (wait : Nat) (s : State) : Host.Outcome State Fault Refusal :=
  s.take wait fun s => s.when s.pairingDue s.dropHeld

/-- GATHER_EXPIRY (R159): a record's gather timer reaches the gather time. -/
def execGatherExpiry (wait : Nat) (key : ShiftKey) (s : State) : Host.Outcome State Fault Refusal :=
  s.take wait fun s =>
    match s.shu.recordOf key with
    | none => s
    | some r => s.when (s.gatherDue r) (s.endGathering key r)

end Sys2Proof.Machine
end

