-- ==== Sys2Proof/Machine/Inputs.lean ====
section
/-! DEFINITION. The Input Scanner: the sweep, qualification, handing on and chatter (R56 to R71, log 28). -/

namespace Sys2Proof.Machine

/-! ### The sweep -/

/-- Some input has the fast flag, so the emphasis sweep runs (R56). -/
def NodeConfig.emphasis (c : NodeConfig) : Bool := allInputs.any fun n => c.inputs[n.val].fast

/-- How many slots a cycle has (R57, R58). -/
def NodeConfig.cycle (c : NodeConfig) : Nat := if c.emphasis then 8 else 4

/-- A slot samples an input: its group's slot in the plain sweep; in the emphasis sweep the even slots sample the
fast set and the odd ones the groups without it (R57, R58). -/
def NodeConfig.samples (c : NodeConfig) (slot : Nat) (n : InputNo) : Bool :=
  let fast := c.inputs[n.val].fast
  if c.emphasis then
    if slot % 2 = 0 then fast else decide (n.val / 4 = slot / 2) && !fast
  else decide (n.val / 4 = slot)

/-- The level an electrical level counts as (R54). -/
def levelOf (c : InputConfig) (high : Bool) : Bool := high == c.activeHigh

/-- The electrical level that counts as a level (R54). -/
def electricalOf (c : InputConfig) (level : Bool) : Bool := level == c.activeHigh

/-- The qualification count of an input (R61). -/
def State.qualCount (s : State) (n : InputNo) : Nat := if (s.inputCfg n).fast then s.cfg.qFast else s.cfg.qNormal

/-- The first sample of the run that a differing sample begins or goes on with (R61). -/
def State.runStart (s : State) (i : InputState) : Start := if i.run = 0 then s.startNow else i.first.getD s.startNow

/-- What a sample makes of an input (R59 to R61). The first sample, and the one that completes a run, are owed to
FIRST_SAMPLE and QUALIFIED_CHANGE, and an input that is owed one is left as it is (log 28). -/
def State.sampled (s : State) (n : InputNo) (high : Bool) : InputState :=
  let i := s.input n
  let active := levelOf (s.inputCfg n) high
  match i.owed, i.level with
  | .first _ _, _ | .change _, _ => i
  | .none, none => { i with owed := .first active s.stamp }
  | .none, some level =>
    if active = level then { i with run := 0, first := none }
    else if s.qualCount n ≤ i.run + 1 then { i with owed := .change (s.runStart i) }
    else { i with run := i.run + 1, first := some (s.runStart i) }

/-- The length of a slot in microseconds (R57, R58). -/
def slotUs : Nat := 125

/-- A slot begins (R56). -/
def State.slotDue (s : State) : Bool := s.active && decide (s.isc.nextSlotAt ≤ s.time.elapsed)

/-- One input of a slot sampled, if the slot samples it. -/
def State.sampleIfIn (levels : BitVec 16) (slot : Nat) (s : State) (n : InputNo) : State :=
  if s.cfg.samples slot n then s.setInput n (s.sampled n (levels.getLsbD n.val)) else s

/-- The slot's inputs are sampled together; the slots follow one another every 125 µs from OPEN on (R56 to R59). -/
def State.sampleSlot (s : State) (levels : BitVec 16) : State :=
  let s1 := allInputs.foldl (State.sampleIfIn levels s.isc.slot) s
  { s1 with
    pins := { s1.pins with inputs := levels }
    isc := { s1.isc with slot := (s.isc.slot + 1) % s.cfg.cycle, nextSlotAt := s.isc.nextSlotAt + slotUs } }

/-! ### First samples -/

/-- An input that has no qualified level yet gets it from its first sample; the BREAKER input's goes to the Run Unit
as the initial level, with its date (R60, R116). -/
def State.firstSampled (s : State) (n : InputNo) (level : Bool) (stamp : Stamp) : State :=
  let s1 := s.setInput n { s.input n with level := some level, run := 0, first := none, owed := .none }
  match (s.inputCfg n).role with
  | .breaker => s1.breakerLevel level stamp
  | .none | .handKey | .takeKey => s1

/-- The first sample that a slot has taken of an input: its level and date (R60). -/
def State.firstDue (s : State) (n : InputNo) : Option (Bool × Stamp) :=
  match (s.input n).owed with
  | .first level stamp => if s.active then some (level, stamp) else none
  | .none | .change _ => none

/-! ### Qualified changes -/

/-- A change's direction is selected by the recorded edges (R64). -/
def RecordedEdges.selects : RecordedEdges → Bool → Bool
  | .both, _ => true
  | .rising, up => up
  | .falling, up => !up
  | .none, _ => false

/-- A change handed by role: the breaker level to the Run Unit, a rising key to the Shift Unit (R70, R71). -/
def State.handByRole (s : State) (n : InputNo) (level : Bool) (change : Stamp) : State :=
  match (s.inputCfg n).role, level with
  | .breaker, _ => s.breakerLevel level change
  | .handKey, true => s.press .hand change
  | .takeKey, true => s.press .take change
  | .handKey, false | .takeKey, false | .none, _ => s

/-- The INPUT CHANGE record of a selected change, and for a cascade input its member (R64, R65). -/
def State.recordChange (s : State) (n : InputNo) (level : Bool) (change : Stamp) : State :=
  if (s.inputCfg n).edges.selects level then
    let s1 := s.request .inputChange change (n.val + bitAt 4 level + bitAt 5 level) 0
    if (s.inputCfg n).cascade then s1.localMember n level change else s1
  else s

/-- The neighbours a change is handed to, in order (step 2 of R63). -/
def State.handOn (s : State) (n : InputNo) (level : Bool) (change : Stamp) : State :=
  (s.recordChange n level change).handByRole n level change

/-- The input becomes LOCKED, with its CHATTER LOCK record and flag (R67). -/
def State.lockInput (s : State) (n : InputNo) (level : Bool) (change : Stamp) (expiry : Nat) : State :=
  let s1 := s.setInput n { s.input n with chatter := .locked expiry 0 none }
  (s1.request .chatterLock change (n.val + bitAt 4 level) 0).setFlag .chatterLock

/-- The window's change count after a change of an input that is not LOCKED (R66). -/
def Chatter.countAfter : Chatter → Nat
  | .quiet => 1
  | .counting _ count => count + 1
  | .locked _ _ _ => 0

/-- The change that a sample has qualified: its new level and the first sample of its run (R61, R62). -/
def State.changeDue (s : State) (n : InputNo) : Option (Bool × Start) :=
  match (s.input n).owed, (s.input n).level with
  | .change first, some level => if s.active then some (!level, first) else none
  | .change _, none | .none, _ | .first _ _, _ => none

/-- A qualified change: window, handing on or suppression, lock, in the order of R63 (R66 to R68). -/
def State.qualified (s : State) (n : InputNo) (level : Bool) (first : Start) : State :=
  let change : Stamp := ⟨first.date, first.quality⟩
  let expiry := first.osc + s.cfg.chatterMs * 1000
  let i := s.input n
  match i.chatter with
  | .locked _ suppressed _ => s.setInput n ⟨some level, 0, none, .locked expiry (satInc suppressed) (some change), .none⟩
  | .quiet | .counting _ _ =>
    let count := i.chatter.countAfter
    let s1 := (s.setInput n ⟨some level, 0, none, .counting expiry count, .none⟩).handOn n level change
    if s.cfg.chatterCount ≤ count then s1.lockInput n level change expiry else s1

/-! ### The end of a chatter window -/

/-- The chatter window's expiry, if it has come (R69). -/
def State.windowDue (s : State) (n : InputNo) : Bool :=
  match (s.input n).chatter with
  | .quiet => false
  | .counting expiry _ | .locked expiry _ _ => s.active && decide (expiry ≤ s.time.elapsed)

/-- A LOCKED input released: QUIET, its CHATTER RELEASE record, and for the BREAKER input its level if it differs from
the one last handed on (R69, R70). -/
def State.release (s : State) (n : InputNo) (suppressed : BitVec 16) (last : Option Stamp) : State :=
  let i := s.input n
  let level := i.level.getD false
  let s1 := s.setInput n { i with chatter := .quiet }
  let s2 := s1.requestNow .chatterRelease (n.val + bitAt 4 level) (suppressed.zeroExtend 32)
  match (s.inputCfg n).role, last with
  | .breaker, some date => if level = s.run.breakerClosed then s2 else s2.breakerLevel level date
  | .breaker, none | .none, _ | .handKey, _ | .takeKey, _ => s2

/-- The window closes: a COUNTING input becomes QUIET, a LOCKED one is released (R69). -/
def State.windowCloses (s : State) (n : InputNo) : State :=
  match (s.input n).chatter with
  | .quiet => s
  | .counting _ _ => s.setInput n { s.input n with chatter := .quiet }
  | .locked _ suppressed last => s.release n suppressed last

/-- SAMPLE_SLOT (R56 to R61): a slot samples its inputs; `levels` are the electrical levels at IN0 to IN15. -/
def execSampleSlot (wait : Nat) (levels : BitVec 16) (s : State) : Host.Outcome State Fault Refusal :=
  s.take wait fun s => s.when s.slotDue (s.sampleSlot levels)

/-- FIRST_SAMPLE (R60): an input's first sample after OPEN, at the level and the date at which its slot took it. -/
def execFirstSample (wait : Nat) (input : InputNo) (high : Bool) (s : State) : Host.Outcome State Fault Refusal :=
  s.take wait fun s =>
    match s.firstDue input with
    | none => s
    | some c => s.when (levelOf (s.inputCfg input) high == c.1) (s.firstSampled input c.1 c.2)

/-- QUALIFIED_CHANGE (R61 to R68): the sample that makes a run complete, as its slot took it. -/
def execQualifiedChange (wait : Nat) (input : InputNo) (s : State) : Host.Outcome State Fault Refusal :=
  s.take wait fun s =>
    match s.changeDue input with
    | none => s
    | some c => s.qualified input c.1 c.2

/-- CHATTER_WINDOW_EXPIRY (R69, R70). -/
def execChatterWindowExpiry (wait : Nat) (input : InputNo) (s : State) : Host.Outcome State Fault Refusal :=
  s.take wait fun s => s.when (s.windowDue input) (s.windowCloses input)

end Sys2Proof.Machine
end

