-- ==== Sys2Proof/Machine/Lamps.lean ====
section
/-! DEFINITION. The lamps' timed events (R183); what each lamp shows is in Flags.lean. -/

namespace Sys2Proof.Machine

/-- A blinking lamp toggles if its half-period has elapsed (R183). -/
def State.blink (s : State) (lamp : Lamp) : State :=
  match (s.atl.lamp lamp).phaseDue s.time.elapsed with
  | none => s
  | some half => { s with atl := s.atl.setLamp lamp ((s.atl.lamp lamp).toggle half) }

/-- The L1 flash has lasted 100 ms from the last intact frame (R183). -/
def State.flashOver (s : State) : Bool :=
  match s.atl.flashUntil with
  | none => false
  | some t => s.working && decide (t ≤ s.time.elapsed)

/-- LAMP_BLINK_PHASE (R183): a half-period of a blinking lamp elapses. -/
def execLampBlinkPhase (wait : Nat) (lamp : Lamp) (s : State) : Host.Outcome State Fault Refusal :=
  s.take wait fun s => s.when s.working (s.blink lamp)

/-- LAMP_FLASH_END (R183). -/
def execLampFlashEnd (wait : Nat) (s : State) : Host.Outcome State Fault Refusal :=
  s.take wait fun s => s.when s.flashOver { s with atl := { s.atl with flashUntil := none } }

end Sys2Proof.Machine
end

