-- ==== Sys2Proof/Machine/Clock.lean ====
section
/-! DEFINITION. The Clock Unit: slewing and stepping, rounds and the round table, the midpoint, the clock
states and the reference second (R28 to R51). -/

namespace Sys2Proof.Machine

/-! ### Steps and slews -/

/-- The causes of a step (R29), by their codes (Table 12-6). -/
inductive StepCause where
  | timeSet | coarse | round | reference
deriving DecidableEq, Repr

/-- The code of a cause of a step (Table 12-6). -/
def StepCause.code : StepCause → Nat
  | .timeSet => 0
  | .coarse => 1
  | .round => 2
  | .reference => 3

/-- The causes of a change of clock state (R30), by their codes (Table 12-6). -/
inductive StateCause where
  | opened | fullRound | founded | shortRounds | outliers | largeCorrection | split | referenceLock | referenceLost
deriving DecidableEq, Repr

/-- The code of a cause of a change of clock state (Table 12-6). -/
def StateCause.code : StateCause → Nat
  | .opened => 1
  | .fullRound => 2
  | .founded => 3
  | .shortRounds => 4
  | .outliers => 5
  | .largeCorrection => 6
  | .split => 7
  | .referenceLock => 8
  | .referenceLost => 9

/-- The unit and value of a step amount: µs, else ms, else minutes, by the range the amount lies in, truncated
toward zero (Table 4-1, log 37). -/
def stepAmount (d : Int) : Nat × Int :=
  if d.natAbs ≤ 2147483647 then (0, d)
  else if d.natAbs ≤ 2147483647000 then (1, d.tdiv 1000)
  else (2, d.tdiv 60000000)

/-- The CLOCK STEP record: dated with the date after the step and the state in force (R29, log 11). -/
def State.recordStep (s : State) (old new : Date) (cause : StepCause) : State :=
  let a := stepAmount (new.minus old)
  s.request .clockStep ⟨new, s.clu.state⟩ (cause.code + a.1 * 4) (BitVec.ofInt 32 a.2)

/-- The round boundary a step reaches: the one it lands exactly on (R31). -/
def boundaryLanded (d : Date) : Option RoundKey :=
  if d.us % 1000000 = 0 then some ⟨d.day, d.second⟩ else none

/-- The shift boundary that the clock has come to and that is still to be taken, after a step: gone if the step leaves the
clock before it, since the clock then comes to it again (R140, R142). Only the latest key come to is kept, so that a step back to
between two that one wait passed over takes the earlier one away with it: the model's choice (log 48). -/
def State.keyDueAfter (s : State) (new : Date) : Option ShiftKey :=
  s.shu.keyDue.filter fun k => !new.earlier (boundaryTime s.cfg.boundaries k)

/-- The clock after a step: P and the spread dropped, time valid, the new date (R29). An own round boundary that the clock has
come to and whose row is still to be taken is dropped by the step: the model's choice (log 51). -/
def State.setClock (s : State) (new : Date) : State :=
  { s with
    time := { s.time with spread := 0, spreadDone := 0, boundaryDue := boundaryLanded new }
    shu := { s.shu with keyDue := s.keyDueAfter new }
    clock := ⟨new, true⟩
    clu := { s.clu with p := 0 } }

/-- A step of the clock: the four things of R29 in order. -/
def State.stepClock (s : State) (new : Date) (cause : StepCause) : State :=
  ((s.setClock new).recordStep s.clock.date new cause).reportStep s.clock.date new

/-- P replaced by a round correction or a reference offset; what is left of this second's amount is dropped (R28). -/
def State.replaceP (s : State) (p : Int) : State :=
  { s with
    time := { s.time with spread := 0, spreadDone := 0 }
    clu := { s.clu with p := p } }

/-! ### Clock states -/

/-- A change of clock state: counters cleared, the latest foreign sound MARK cleared, CLOCK STATE record and
flag (R30, R43). -/
def State.changeState (s : State) (new : ClockState) (cause : StateCause) : State :=
  let s1 := { s with clu := { s.clu with
    state := new
    formation := 0
    short := 0
    outlier := 0
    split := 0
    latestForeign := none } }
  (s1.requestNow .clockState (s.clu.state.code + new.code * 16) (BitVec.ofNat 32 cause.code)).setFlag .clockState

/-- JOINING, AGREED or HOLDOVER: the states a reference lock takes to REFERENCED (R48). -/
def ClockState.lockable : ClockState → Bool
  | .joining | .agreed | .holdover => true
  | .solo | .referenced => false

/-- The reference monitor is LOCKED. -/
def Monitor.isLocked : Monitor → Bool
  | .locked _ => true
  | .searching _ => false

/-- REFERENCED with cause REFERENCE LOCK, if the monitor is LOCKED, the state is one R48 names and the time is
valid (R48). -/
def State.lockReference (s : State) : State :=
  if s.clu.monitor.isLocked && s.clu.state.lockable && s.clock.valid then
    s.changeState .referenced .referenceLock
  else s

/-- A step by SET TIME or at a round close, and REFERENCED if it makes the time valid while LOCKED (R48). -/
def State.stepAndLock (s : State) (new : Date) (cause : StepCause) : State :=
  let s1 := s.stepClock new cause
  if s.clock.valid then s1 else s1.lockReference

/-! ### Rounds -/

/-- The own boundary of a round: its second of day (R31). -/
def RoundKey.boundary (k : RoundKey) : Date := ⟨k.day, k.second * 1000000⟩

/-- A round as it opens: no edge, no entries (R31). -/
def Round.start (k : RoundKey) (own : NodeNo) : Round := ⟨k, none, own, none, []⟩

/-- The open round replaced. -/
def State.setRound (s : State) (r : Option Round) : State := { s with clu := { s.clu with round := r } }

/-- A round opens for a key, unless one is open or the key is that of the last round closed or abandoned (R31). -/
def State.openRound (s : State) (k : RoundKey) : State :=
  if s.clu.round.isNone ∧ s.clu.lastKey ≠ some k then s.setRound (some (Round.start k s.lif.nodeNumber)) else s

/-- The round edge and own reading set, once (R33). -/
def Round.setEdge (r : Round) (edge : Stamp) (sender : NodeNo) : Round :=
  match r.edge with
  | some _ => r
  | none => { r with edge := some edge, edgeSender := sender, ownReading := some (edge.date.minus r.key.boundary) }

/-- A place of the start list updated (R34). -/
def State.setStart (s : State) (node : NodeNo) (start : Start) : State :=
  { s with clu := { s.clu with startList := s.clu.startList.set node.val (some start) } }

/-- The own MARK's start date handed back: the own place of the start list, and the edge of its round if that is
open and has none (R32, R33, R34, log 14). -/
def State.handBack (s : State) (k : RoundKey) (start : Start) : State :=
  let s1 := s.setStart s.lif.nodeNumber start
  match s1.clu.round with
  | none => s1
  | some r =>
    if r.key = k then s1.setRound (some (r.setEdge ⟨start.date, start.quality⟩ s.lif.nodeNumber)) else s1

/-- The body of the own MARK at the start condition of its send: the round's edge values, or the start delay and
the own number (R15, R32, log 13). A joined start condition seen before the own boundary gives a negative delay, which is
sent as it is: the model's choice (log 43). -/
def State.ownMarkBody (s : State) (k : RoundKey) (start : Start) : List Byte :=
  let status := MarkStatus.of s.clu.state s.clock.valid
  let delay := start.date.minus k.boundary
  match s.clu.round with
  | none => markBody k status delay s.lif.nodeNumber
  | some r =>
    match r.ownReading with
    | some reading =>
      if r.key = k then markBody k status reading r.edgeSender else markBody k status delay s.lif.nodeNumber
    | none => markBody k status delay s.lif.nodeNumber

/-- The round being built abandoned: its key kept, its MARK dropped (R31, R32, R38). -/
def State.abandonRound (s : State) : State :=
  match s.clu.round with
  | none => s
  | some r => ({ s with clu := { s.clu with round := none, lastKey := some r.key } }).dropMark r.key

/-! ### The time test and the coarse set -/

/-- The named edge of a MARK: the start held for its edge sender, at most 1 s old (R34). -/
def State.namedEdge (s : State) (sender : NodeNo) : Option Start :=
  match s.clu.startList[sender.val] with
  | none => none
  | some st => if s.time.elapsed - st.osc ≤ 1000000 then some st else none

/-- The implied time of a MARK; none when its second exceeds 86,399 (R40). -/
def MarkBody.implied (m : MarkBody) : Option Date :=
  if m.key.second ≤ 86399 then some (m.key.boundary.plus m.reading) else none

/-- The time test: the implied time and named edge of a MARK whose sender is sound and found foreign (R40). -/
def State.foreignMark (s : State) (m : MarkBody) : Option ForeignMark :=
  match m.status.sound, m.implied, s.namedEdge m.edgeSender with
  | true, some implied, some edge =>
    if !s.clock.valid || decide (200000 < (implied.minus edge.date).natAbs) then some ⟨implied, edge.osc⟩ else none
  | true, none, _ | true, some _, none | false, _, _ => none

/-- A coarse set from a foreign sound MARK: the open round abandoned, the step to the implied time plus the
elapsed time since the named edge, the formation counter cleared, REFERENCED if the monitor is LOCKED (R40, R48). -/
def State.coarseSet (s : State) (f : ForeignMark) : State :=
  let s1 := s.abandonRound
  let s2 := s1.stepClock (f.implied.plus ((s1.time.elapsed - f.edgeOsc : Nat) : Int)) .coarse
  ({ s2 with clu := { s2.clu with formation := 0 } }).lockReference

/-- What the time test does in the clock state in force: a coarse set in JOINING, a count toward the split test in
AGREED (R37, R40, R43). -/
def State.timeTest (s : State) (sender : NodeNo) (m : MarkBody) : State :=
  match s.foreignMark m with
  | none => s
  | some f =>
    match s.clu.state with
    | .joining => s.coarseSet f
    | .agreed =>
      { s with clu := { s.clu with
          foreignSenders := if sender ∈ s.clu.foreignSenders then s.clu.foreignSenders else sender :: s.clu.foreignSenders
          latestForeign := some f } }
    | .solo | .holdover | .referenced => s

/-! ### MARK delivery -/

/-- The local clock lies within the 200 ms before a round's boundary (R31, log 38). -/
def State.earlyOpening (s : State) (k : RoundKey) : Bool :=
  let ahead := k.boundary.minus s.clock.date
  decide (k.second ≤ 86399) && decide (0 ≤ ahead) && decide (ahead ≤ 200000)

/-- The disposition of an entry by the four tests in order (R35). -/
def dispositionOf (r : Round) (m : MarkBody) : Disposition :=
  if !m.status.sound then .notSound
  else if m.key ≠ r.key then .foreign
  else if m.edgeSender ≠ r.edgeSender then .edge
  else if m.reading < -200000 ∨ 400000 < m.reading then .outOfSpan
  else .eligible

/-- An entry put into a table kept in node-number order. -/
def putRoundEntry (e : RoundEntry) : List RoundEntry → List RoundEntry
  | [] => [e]
  | x :: xs => if e.node < x.node then e :: x :: xs else x :: putRoundEntry e xs

/-- The open round after the first thing a delivered MARK does to it: the edge set if the MARK gives it (R33, R35). -/
def Round.edgeFrom (r : Round) (sender : NodeNo) (start : Start) (m : MarkBody) : Round :=
  if m.key = r.key then r.setEdge ⟨start.date, start.quality⟩ sender else r

/-- The round table holds an entry for a sender's node number (R35). -/
def Round.hasEntry (r : Round) (sender : NodeNo) : Bool := r.entries.any fun e => decide (e.node = sender)

/-- The open round with a MARK's entry (R35). -/
def Round.enter (r : Round) (sender : NodeNo) (m : MarkBody) : Round :=
  { r with entries := putRoundEntry ⟨sender, m.status, m.key, m.reading, m.edgeSender, dispositionOf r m⟩ r.entries }

/-- A MARK delivered to the Clock Unit: start list, early opening, edge, entry or loose MARK, time test (R31, R33, R34,
R35, R37, R40, R43); a sender's second MARK of a round sets DUPLICATE ID and is discarded (R35, log 15). -/
def State.markDelivered (s : State) (sender : NodeNo) (start : Start) (body : List Byte) : State :=
  let m := readMark body
  let s1 := s.setStart sender start
  let s2 := if s1.earlyOpening m.key then s1.openRound m.key else s1
  match s2.clu.round with
  | none => s2.timeTest sender m
  | some r =>
    let r1 := r.edgeFrom sender start m
    if r1.hasEntry sender then (s2.setRound (some r1)).setFlag .duplicateId
    else (s2.setRound (some (r1.enter sender m))).timeTest sender m

/-! ### The round close -/

/-- The own entry of a round, its status and disposition decided at the close; none without an own reading (R36). -/
def State.ownEntry (s : State) (r : Round) : Option RoundEntry :=
  r.ownReading.map fun reading =>
    ⟨s.lif.nodeNumber, MarkStatus.of s.clu.state s.clock.valid, r.key, reading, r.edgeSender,
      if s.clu.state.sound then .eligible else .notSound⟩

/-- The round table at the close, own entry included. -/
def State.tableAtClose (s : State) (r : Round) : List RoundEntry :=
  match s.ownEntry r with
  | none => r.entries
  | some e => putRoundEntry e r.entries

/-- An entry is eligible. -/
def RoundEntry.eligible (e : RoundEntry) : Bool := decide (e.disposition = .eligible)

/-- An entry with status REFERENCED. -/
def RoundEntry.isReferenced (e : RoundEntry) : Bool := decide (e.status.code.toNat = ClockState.referenced.code)

/-- The eligible entries used: only the REFERENCED ones if there is any (R39). -/
def usedEntries (table : List RoundEntry) : List RoundEntry :=
  let eligible := table.filter RoundEntry.eligible
  if eligible.any RoundEntry.isReferenced then eligible.filter RoundEntry.isReferenced else eligible

/-- A reading put into its place. -/
def insertReading (x : Int) : List Int → List Int
  | [] => [x]
  | y :: ys => if x ≤ y then x :: y :: ys else y :: insertReading x ys

/-- Readings sorted, lowest first. -/
def sortReadings (l : List Int) : List Int := l.foldr insertReading []

/-- How many readings go from each end of n: the configured trim, but never so many that none stays (R39). -/
def trimOf (k n : Nat) : Nat := min k ((n - 1) / 2)

/-- The midpoint of sorted readings with t removed from each end: the lowest and the highest left, halved and
truncated toward zero (R39). -/
def midpointOf (sorted : List Int) (t : Nat) : Int :=
  (sorted.getD t 0 + sorted.getD (sorted.length - 1 - t) 0).tdiv 2

/-- What a close finds: the table, whether the round is full, and for a full round the entries used, the trim, the
midpoint and the correction (R38, R39). -/
structure CloseValues where
  table      : List RoundEntry
  full       : Bool
  used       : Nat
  trim       : Nat
  midpoint   : Int
  correction : Int
deriving DecidableEq, Repr

/-- The values of a round at its close (R38, R39). -/
def State.closeValues (s : State) (r : Round) : CloseValues :=
  let table := s.tableAtClose r
  if s.cfg.quorum ≤ (table.filter RoundEntry.eligible).length then
    let readings := sortReadings ((usedEntries table).map RoundEntry.reading)
    let t := trimOf s.cfg.trim readings.length
    let mid := midpointOf readings t
    ⟨table, true, readings.length, t, mid, r.ownReading.getD 0 - mid⟩
  else ⟨table, false, 0, 0, 0, 0⟩

/-- |C| exceeds the agreement bound B. -/
def State.beyondBound (s : State) (c : Int) : Bool := decide (s.cfg.boundUs < c.natAbs)

/-- Some entry of another node has a sound status (R42). -/
def heldSound (r : Round) : Bool := r.entries.any fun e => e.status.sound

/-- The own number is lower than that of every entry whose status is JOINING with time valid (R42). -/
def State.lowestJoining (s : State) (r : Round) : Bool :=
  r.entries.all fun e =>
    !(decide (e.status.code.toNat = ClockState.joining.code) && e.status.valid) || decide (s.lif.nodeNumber < e.node)

/-- The formation counter at a short round's close in JOINING, and founding (R42). -/
def State.formationClose (s : State) (r : Round) : State :=
  if heldSound r then { s with clu := { s.clu with formation := 0 } }
  else
    let n := min (s.clu.formation + 1) s.cfg.formationWait
    let s1 := { s with clu := { s.clu with formation := n } }
    if n = s.cfg.formationWait ∧ s.clock.valid = true ∧ s.lowestJoining r = true then
      s1.changeState .agreed .founded
    else s1

/-- The close of a full round in JOINING: step or slew, then AGREED (R41, log 34). -/
def State.joiningFull (s : State) (c : Int) : State × CloseAction :=
  if s.beyondBound c then
    let s1 := s.stepAndLock (s.clock.date.plus (-c)) .round
    (if s1.clu.state = .joining then s1.changeState .agreed .fullRound else s1, .step)
  else ((s.replaceP (-c)).changeState .agreed .fullRound, .slew)

/-- The own group of the split test: eligible entries of other nodes, and the node itself (R43). -/
def ownGroup (r : Round) : Nat := (r.entries.filter RoundEntry.eligible).length + 1

/-- The split test: the split counter, and the SPLIT flag on equal groups (R43). -/
def State.splitTest (s : State) (r : Round) : State :=
  let foreign := s.clu.foreignSenders.length
  let s1 := { s with clu := { s.clu with split := if ownGroup r < foreign then s.clu.split + 1 else 0 } }
  if 1 ≤ foreign ∧ foreign = ownGroup r then s1.setFlag .split else s1

/-- The split counter has reached 3: SPLIT, JOINING, and the coarse set from the latest foreign sound MARK (R43, log 16). -/
def State.splitClose (s : State) : State × CloseAction :=
  let s1 := (s.setFlag .split).changeState .joining .split
  match s.clu.latestForeign with
  | none => (s1, .none)
  | some f => (s1.coarseSet f, .step)

/-- A short round in AGREED (R44). -/
def State.agreedShort (s : State) : State :=
  let n := s.clu.short + 1
  let s1 := { s with clu := { s.clu with short := n } }
  if s.cfg.shortLimit ≤ n then s1.changeState .holdover .shortRounds else s1

/-- A full round in AGREED (R44). -/
def State.agreedFull (s : State) (c : Int) : State × CloseAction :=
  let s1 := { s with clu := { s.clu with short := 0 } }
  if s.beyondBound c then
    let n := s.clu.outlier + 1
    let s2 := { s1 with clu := { s1.clu with outlier := n } }
    (if 2 ≤ n then s2.changeState .joining .outliers else s2, .none)
  else
    let s2 := s1.replaceP (-c)
    ({ s2 with clu := { s2.clu with outlier := 0 } }, .slew)

/-- A full round in HOLDOVER (R45). -/
def State.holdoverFull (s : State) (c : Int) : State × CloseAction :=
  if s.beyondBound c then (s.changeState .joining .largeCorrection, .none)
  else ((s.replaceP (-c)).changeState .agreed .fullRound, .slew)

/-- The close in AGREED: the split test, then R43 or R44. -/
def State.agreedClose (s : State) (r : Round) (v : CloseValues) : State × CloseAction :=
  let s1 := s.splitTest r
  if 3 ≤ s1.clu.split then s1.splitClose
  else if v.full then s1.agreedFull v.correction
  else (s1.agreedShort, .none)

/-- The transition rules of the clock state at a round close (R41 to R46). -/
def State.closeTransition (s : State) (r : Round) (v : CloseValues) : State × CloseAction :=
  match s.clu.state with
  | .joining => if v.full then s.joiningFull v.correction else (s.formationClose r, .none)
  | .agreed => s.agreedClose r v
  | .holdover => if v.full then s.holdoverFull v.correction else (s, .none)
  | .referenced | .solo => (s, .none)

/-- The last closed round as it is kept (R38, R52). -/
def closedRoundOf (r : Round) (state : ClockState) (v : CloseValues) (action : CloseAction) : ClosedRound where
  key := r.key
  full := v.full
  stateAtClose := state
  edge := r.edge
  edgeSender := r.edgeSender
  ownReading := r.ownReading
  used := v.used
  trim := v.trim
  midpoint := v.midpoint
  correction := v.correction
  action := action
  entries := v.table

/-- The close of a round, in the order of R38; the foreign senders are counted afresh from here (R43). -/
def State.closeRound (s : State) (r : Round) : State :=
  let v := s.closeValues r
  let t := ({ s with clu := { s.clu with round := none, lastKey := some r.key } }).closeTransition r v
  let s2 := t.1.dropMark r.key
  { s2 with clu := { s2.clu with
      lastClosed := some (closedRoundOf r s.clu.state v t.2)
      foreignSenders := [] } }

/-- The open round's close moment is reached or passed (R31, R38). -/
def State.closeDue (s : State) : Option Round :=
  match s.clu.round with
  | none => none
  | some r => if s.active && decide (400000 ≤ s.clock.date.minus r.key.boundary) then some r else none

/-! ### The reference second -/

/-- The offset of the local clock from its nearest whole second (R49). -/
def offsetOf (us : Nat) : Int :=
  let m := us % 1000000
  if m < 500000 then (m : Int) else (m : Int) - 1000000

/-- A disciplining pulse in REFERENCED: a step beyond B, which closes an open round it carries the time to the close
of, else a new P (R29, R49). -/
def State.discipline (s : State) : State :=
  let off := offsetOf s.clock.date.us
  if s.beyondBound off then
    let s1 := s.stepClock (s.clock.date.plus (-off)) .reference
    match s1.closeDue with
    | none => s1
    | some r => s1.closeRound r
  else s.replaceP (-off)

/-- The monitor replaced. -/
def State.setMonitor (s : State) (m : Monitor) : State := { s with clu := { s.clu with monitor := m } }

/-- A good interval: toward the lock in SEARCHING, the bad count cleared in LOCKED; in REFERENCED its edge
disciplines the clock (R47, R48, R49). -/
def State.goodInterval (s : State) : State :=
  let s1 := match s.clu.monitor with
    | .searching good =>
      if 4 ≤ good + 1 then (s.setMonitor (.locked 0)).lockReference else s.setMonitor (.searching (good + 1))
    | .locked _ => s.setMonitor (.locked 0)
  if s1.clu.state = .referenced then s1.discipline else s1

/-- The reference loss (R50). -/
def State.loseReference (s : State) : State :=
  if s.clu.state = .referenced then (s.changeState .holdover .referenceLost).setFlag .referenceLost else s

/-- A bad interval: the good count to 0 in SEARCHING; the second in LOCKED is the reference loss (R47, R50). -/
def State.badInterval (s : State) : State :=
  match s.clu.monitor with
  | .searching _ => s.setMonitor (.searching 0)
  | .locked bad => if 2 ≤ bad + 1 then (s.setMonitor (.searching 0)).loseReference else s.setMonitor (.locked (bad + 1))

/-- An interval of the reference within 1 s ± 100 µs (R47). -/
def goodLength (us : Nat) : Bool := decide (999900 ≤ us) && decide (us ≤ 1000100)

/-- A rising edge on REFSEC: it starts timing, or ends an interval (R47). -/
def State.referenceEdge (s : State) : State :=
  let now := s.time.elapsed
  let s1 := { s with clu := { s.clu with refEdge := some now, refMark := now } }
  match s.clu.refEdge with
  | none => s1
  | some e => if goodLength (now - e) then s1.goodInterval else s1.badInterval

/-- 1.5 s of elapsed time without an edge (R47). -/
def State.silenceDue (s : State) : Bool :=
  s.working && decide (s.clu.refMark + 1500000 ≤ s.time.elapsed)

/-- 1.5 s without an edge is a bad interval; the next edge starts timing afresh (R47). -/
def State.referenceSilence (s : State) : State :=
  ({ s with clu := { s.clu with refEdge := none, refMark := s.clu.refMark + 1500000 } }).badInterval

/-! ### The oscillator second and the own boundary -/

/-- The amount taken from P for an oscillator second: the smaller of |P| and S with the sign of P (R28). -/
def slewAmount (p : Int) (limit : Nat) : Int := p.sign * ((min p.natAbs limit : Nat) : Int)

/-- The oscillator second in progress has ended. -/
def State.secondDue (s : State) : Bool :=
  s.working && decide (s.time.secondStart + 1000000 ≤ s.time.elapsed)

/-- An oscillator second begins: the slew amount taken from P and spread (R28), and in ACTIVE the Speed Unit's pulse
count latched and restarted (R112). -/
def State.beginSecond (s : State) : State :=
  let a := slewAmount s.clu.p s.cfg.slewUs
  { s with
    time := { s.time with secondStart := s.time.secondStart + 1000000, spread := a, spreadDone := 0 }
    clu := { s.clu with p := s.clu.p - a }
    spu := if s.active then { s.spu with pulsesLast := s.spu.pulsesNow, pulsesNow := 0 } else s.spu }

/-- The own round boundary the clock has come to, in a state in which rounds run (R31). -/
def State.ownBoundary (s : State) : Option RoundKey :=
  if s.active && !decide (s.clu.state = .solo) then s.time.boundaryDue else none

/-- The own boundary of a second taken: the round opens if it may, and its MARK is queued if it is open (R31, R32). -/
def State.takeBoundary (s : State) (k : RoundKey) : State :=
  let s1 := ({ s with time := { s.time with boundaryDue := none } }).openRound k
  match s1.clu.round with
  | none => s1
  | some r => if r.key = k then s1.queueMark k else s1

/-- OSCILLATOR_SECOND (R28, R112). -/
def execOscillatorSecond (wait : Nat) (s : State) : Host.Outcome State Fault Refusal :=
  s.take wait fun s => s.when s.secondDue s.beginSecond

/-- ROUND_BOUNDARY (R31, R32): the clock reaches the own boundary for a second. -/
def execRoundBoundary (wait : Nat) (s : State) : Host.Outcome State Fault Refusal :=
  s.take wait fun s =>
    match s.ownBoundary with
    | none => s
    | some k => s.takeBoundary k

/-- ROUND_CLOSE (R38): the time of day reaches the open round's boundary plus 400 ms. -/
def execRoundClose (wait : Nat) (s : State) : Host.Outcome State Fault Refusal :=
  s.take wait fun s =>
    match s.closeDue with
    | none => s
    | some r => s.closeRound r

/-- REFSEC_EDGE (R47 to R50). -/
def execRefsecEdge (wait : Nat) (s : State) : Host.Outcome State Fault Refusal :=
  s.take wait fun s => s.when s.working s.referenceEdge

/-- REFSEC_SILENCE (R47, R50). -/
def execRefsecSilence (wait : Nat) (s : State) : Host.Outcome State Fault Refusal :=
  s.take wait fun s => s.when s.silenceDue s.referenceSilence

end Sys2Proof.Machine
end

