-- ==== Sys2Proof/Machine/Line.lean ====
section
/-! DEFINITION. The Line Interface on the wires: the line view, sends, reception, delivery and the stuck line
(R2, R6 to R19). The bits between these events are the environment's (log 19). -/

namespace Sys2Proof.Machine

/-! ### The view -/

/-- The view returns to QUIET: no frame is in progress, and both wires have been high since a moment at the earliest (R6). -/
def Lif.toQuiet (l : Lif) (highFrom : Nat) : Lif :=
  { l with view := .quiet, start := none, counted := false, joinable := false, highFrom := highFrom }

/-- The line view back at QUIET at an edge of a wire (R6). -/
def State.lineQuiet (s : State) : State := { s with lif := s.lif.toQuiet s.time.elapsed }

/-- The line view back at QUIET after both wires have been high for a time (R6, R19). -/
def State.lineQuietAfter (s : State) (us : Nat) : State := { s with lif := s.lif.toQuiet (s.time.elapsed - us) }

/-- The nominal idle gap, after which the view leaves QUIET and a frame is abandoned, at every strapping (R6). -/
def nominalGapUs : Nat := 80

/-- Both wires can have been high for a time without a break (R3, R6, R19, log 19). -/
def State.highFor (s : State) (us : Nat) : Bool := decide (s.lif.highFrom + us ≤ s.time.elapsed)

/-- The node's own idle gap (R3). -/
def State.ownGap (s : State) : Nat := idleGapUs s.lif.lineSpeed

/-- The view is one of the given one; the line is watched in every node state while the main domain works (R2). -/
def State.sees (s : State) (v : LineView) : Bool := s.working && decide (s.lif.view = v)

/-- A start condition seen on an idle line: FRAME, and the frame's start date (R6, R7). -/
def State.startSeen (s : State) : State :=
  { s with lif := { s.lif with
      view := .frame
      start := some s.startNow
      counted := false
      joinable := true
      highFrom := s.time.elapsed
      acked := false } }

/-- Another node's frame is on the line: the view is FRAME and the node is not sending. A node that is itself sending reads no
frame (R9, R10). -/
def State.receiving (s : State) : Bool := s.sees .frame && s.lif.send.isNone && s.lif.start.isSome

/-- The frame in reception counted under an error counter: at most one count for a frame (R17). -/
def State.countOnce (s : State) (f : LineCounters → LineCounters) : State :=
  if s.lif.counted then s else { s.count f with lif := { (s.count f).lif with counted := true } }

/-! ### Sends -/

/-- The body of a frame as it is sent: fixed when it was queued, a MARK's filled at its start condition (R9, R15). -/
def State.bodyAt (s : State) (c : FrameContent) (start : Start) : List Byte :=
  match c with
  | .trip change input active => tripBody change input active
  | .handover key outcome completion due => handoverBody key outcome completion due
  | .mark key => s.ownMarkBody key start
  | .tally key values => tallyBody key values

/-- A send of the head frame from a start condition made or joined (R9). -/
def State.beginSend (s : State) (start : Start) (lclk : Bool) : State :=
  match s.lif.sendList with
  | [] => s
  | f :: fs =>
    { s with lif := { s.lif with
        lclkDriven := lclk
        ldatDriven := true
        view := .frame
        start := some start
        counted := false
        joinable := false
        highFrom := s.time.elapsed
        acked := false
        sendList := { f with inSend := true } :: fs
        send := some ⟨frameBytes f.kind s.lif.nodeNumber (s.bodyAt f.content start), start⟩ } }

/-- A send may begin: ACTIVE, a frame listed, the line IDLE and high for the own idle gap (R3, R9). -/
def State.maySend (s : State) : Bool :=
  s.active && s.sees .idle && s.lif.send.isNone && !s.lif.sendList.isEmpty && s.highFor s.ownGap

/-- The longest high half (Table 1-1): the first fall of LCLK comes no later than this after the start condition (R9,
log 47). -/
def longestHalfUs : Nat := 13

/-- The first fall of LCLK after a start condition is still to come (R9, log 47). -/
def Lif.beforeClock (l : Lif) (start : Start) (now : Nat) : Bool := l.joinable && decide (now ≤ start.osc + longestHalfUs)

/-- The contention may be joined: ACTIVE, a frame listed, a start condition seen and no fall of LCLK since (R9). -/
def State.joinStart (s : State) : Option Start :=
  if s.active && s.sees .frame && s.lif.send.isNone && !s.lif.sendList.isEmpty
    then s.lif.start.filter fun st => s.lif.beforeClock st s.time.elapsed else none

/-- A node that made the start condition itself begins its clock at a fall of LCLK that another contender makes before
the own high half has run out (R4, R9). -/
def State.takeClock (s : State) : State :=
  if s.working && s.lif.send.isSome then { s with lif := { s.lif with lclkDriven := true } } else s

/-- The bit at a place of the frame being sent, from the first header bit to the last check bit (R10). -/
def State.sentBit (s : State) (bit : Nat) : Option Bool :=
  match s.lif.send with
  | none => none
  | some snd => if s.working then (frameBits snd.bytes)[bit]? else none

/-- An unheard TRIP, HANDOVER or TALLY frame: removed silently if its removal was asked, kept for another attempt below
three, else removed, counted and recorded (R14, R22). -/
def State.unheardFrame (s : State) (f : QueuedFrame) : State :=
  if f.removalAsked then s.withdrawSent f.content
  else if f.attempts + 1 < 3 then
    s.setSendList (mapInSend (fun g => { g with inSend := false, attempts := g.attempts + 1 }) s.lif.sendList)
  else ((s.removeSent.count LineCounters.addUnheard).sendFailed f.content false).reportEnd f.content .notSent

/-- A MARK's attempt ends: its start date is handed back and it is removed, heard or not (R15). -/
def State.markEnds (s : State) (k : RoundKey) (start : Start) (heard : Bool) : State :=
  let s1 := (s.handBack k start).removeSent
  if heard then s1 else s1.count LineCounters.addUnheard

/-- An attempt ends at the stop condition (R13, R14, R15). -/
def State.endAttempt (s : State) (start : Start) (f : QueuedFrame) (heard : Bool) : State :=
  let s1 := { s with lif := s.lif.released.toQuiet s.time.elapsed }
  let s2 := match f.content with
    | .mark k => s1.markEnds k start heard
    | .trip _ _ _ | .handover _ _ _ _ | .tally _ _ =>
      if heard then s1.removeSent.reportEnd f.content .heard else s1.unheardFrame f
  s2.queueWaiting

/-- The send in progress with its frame. -/
def State.sending (s : State) : Option (Start × QueuedFrame) :=
  match s.lif.send, s.lif.frameInSend with
  | some snd, some f => if s.working then some (snd.start, f) else none
  | none, _ | _, none => none

/-! ### Reception -/

/-- A frame delivered to its owners by the node's roles (Table 1-5, log 32). -/
def State.deliver (s : State) (kind : FrameKind) (sender : NodeNo) (start : Start) (body : List Byte) : State :=
  match kind with
  | .trip => s.tripNotice sender start body
  | .mark => s.markDelivered sender start body
  | .tally =>
    if s.cfg.postRole then s.tallyReceived sender (readTallyBody body).1 (readTallyBody body).2 else s
  | .handover =>
    let s1 := if s.cfg.unitRole then s.unitHandover sender start.quality body else s
    if s1.cfg.postRole then s1.postHandover sender start.quality body else s1

/-- The L1 flash of 100 ms begins, or is extended from now (R16, R183). -/
def State.flashLine (s : State) : State := { s with atl := { s.atl with flashUntil := some (s.time.elapsed + 100000) } }

/-- An intact frame: counted, the L1 flash, acknowledged if ACTIVE; with the own number DUPLICATE ID, else in ACTIVE
delivered (R12, R16, R18). A frame whose start condition came before OPEN is delivered with the start date taken then,
quality SOLO: the model's choice (log 42). -/
def State.receiveIntact (s : State) (header : Byte) (body : List Byte) : State :=
  let s1 := (s.count fun c => { c with intact := satInc c.intact }).flashLine
  let s2 := { s1 with lif := { s1.lif.toQuiet s.time.elapsed with acked := s.active } }
  if headerNode header = s.lif.nodeNumber then s2.setFlag .duplicateId
  else match s.active, headerKind header, s.lif.start with
    | true, some kind, some start => s2.deliver kind (headerNode header) start body
    | true, some _, none | true, none, _ | false, _, _ => s2

/-- Bits of the frame have been clocked: the contention can no longer be joined (R9). -/
def State.clocked (s : State) : State := { s with lif := { s.lif with joinable := false } }

/-- The node has driven the acknowledge bit of the frame in reception: in ACTIVE, with the check found matching and no fault
found before, or in an earlier row of the same frame; LDAT stands released at the end of every row, which holds the acknowledge
bit whole (R12, log 19). -/
def State.acknowledged (s : State) (matched : Bool) : State :=
  { s with lif := { s.lif with acked := s.lif.acked || (s.active && matched && !s.lif.counted) } }

/-- A frame whose check differs: counted once, not acknowledged; QUIET at its stop condition (R17, log 17). -/
def State.receiveWrong (s : State) (stopped : Bool) : State :=
  let s1 := (s.countOnce fun c => { c with checkErrors := satInc c.checkErrors }).clocked
  if stopped then s1.lineQuiet else s1

/-- A form error by its cause: counted once; a frame of invalid kind, or with a clock pulse in place of its stop, lasts
on in FRAME; after a matching check the acknowledge bit has been driven in ACTIVE (R6, R12, R17, log 17). -/
def State.receiveFaulty (s : State) (cause : FormErrorCause) : State :=
  let count (t : State) : State := (t.countOnce LineCounters.addForm).clocked
  match cause with
  | .invalidKind _ => count s
  | .clockAfterAck => count (s.acknowledged true)
  | .earlyStop => (count s).lineQuiet
  | .ldatFall matched => (count (s.acknowledged matched)).lineQuiet

/-- A frame abandoned: counted once, QUIET, both wires high for the 80 µs that have run out (R6, R12, R17). -/
def State.abandonFrame (s : State) (matched : Bool) : State :=
  ((s.acknowledged matched).countOnce LineCounters.addForm).lineQuietAfter nominalGapUs

/-- The frame ends at a form error of this cause, in every node's view (R6, log 17). -/
def endsFrame : FormErrorCause → Bool
  | .earlyStop | .ldatFall _ => true
  | .invalidKind _ | .clockAfterAck => false

/-- The node is itself sending the frame on the line. -/
def State.sendingFrame (s : State) : Bool := s.sees .frame && s.lif.send.isSome

/-- The frame that the node is itself sending ends before its stop condition: a form error is counted, and the view returns to
QUIET, both wires high since some time before (R6). The send is broken off as by a driver fault: the model's choice (log 41). -/
def State.breakOwnFrame (s : State) (high : Nat) : State :=
  ((s.countOnce LineCounters.addForm).breakOffSend).lineQuietAfter high

/-- A cause of a form error can be found in the frame: an invalid kind needs such a header. -/
def causePossible : FormErrorCause → Bool
  | .invalidKind header => (headerKind header).isNone
  | .earlyStop | .clockAfterAck | .ldatFall _ => true

/-- LINE STUCK: the flag, a frame in reception counted, a send broken off (R19). -/
def State.enterStuck (s : State) (matched : Bool) : State :=
  let s1 := if s.receiving then (s.acknowledged matched).countOnce LineCounters.addForm else s
  let s2 := if s1.lif.send.isSome then s1.breakOffSend else s1
  ({ s2 with lif := { s2.lif.toQuiet s.time.elapsed with view := .stuck } }).setFlag .lineFault

/-- The view enters IDLE: both wires have been high for 80 µs or more, in which the own idle gap already runs (R3, R6). -/
def State.lineIdle (s : State) (high : Nat) : State :=
  { s with lif := { s.lif with view := .idle, highFrom := s.time.elapsed - high } }

/-- Both wires can have been high for the time a LINE_IDLE tells of, 80 µs or more (R6, log 19). -/
def State.idleAfter (s : State) (high : Nat) : Bool := decide (nominalGapUs ≤ high) && s.highFor high

/-! ### The commands -/

/-- START_CONDITION (R6, R7): a fall of LDAT with LCLK high on an IDLE line. -/
def execStartCondition (wait : Nat) (s : State) : Host.Outcome State Fault Refusal :=
  s.take wait fun s => s.when (s.sees .idle) s.startSeen

/-- LINE_IDLE (R6): both wires high for 80 µs in QUIET; `high`: how long they have been high by then, which is longer where the
view entered QUIET with both high already (R19). -/
def execLineIdle (arrival : HighArrival) (s : State) : Host.Outcome State Fault Refusal :=
  s.take arrival.wait fun s => s.when (s.sees .quiet && s.idleAfter arrival.high) (s.lineIdle arrival.high)

/-- NOT_A_START (R6): a fall of LCLK in IDLE before a start condition, or of LDAT in QUIET. -/
def execNotAStart (wait : Nat) (s : State) : Host.Outcome State Fault Refusal :=
  s.take wait fun s => s.when (s.sees .idle || s.sees .quiet) s.lineQuiet

/-- FRAME_ABANDONED (R6, R12, R17): both wires high for 80 µs within a frame, without a stop condition; `matched`: its
check had been found matching, so that its acknowledge bit came first. -/
def execFrameAbandoned (arrival : BreakArrival) (s : State) : Host.Outcome State Fault Refusal :=
  s.take arrival.wait fun s =>
    if s.sendingFrame then s.when (s.highFor nominalGapUs) (s.breakOwnFrame nominalGapUs)
    else s.when (s.receiving && s.highFor nominalGapUs) (s.abandonFrame arrival.matched)

/-- SEND_BEGIN (R9): the own idle gap has run out and the node makes its start condition. -/
def execSendBegin (wait : Nat) (s : State) : Host.Outcome State Fault Refusal :=
  s.take wait fun s => s.when s.maySend (s.beginSend s.startNow false)

/-- CONTENTION_JOIN (R9): the first fall of LCLK after another node's start condition, or after the own one. -/
def execContentionJoin (wait : Nat) (s : State) : Host.Outcome State Fault Refusal :=
  s.take wait fun s =>
    match s.joinStart with
    | none => s.takeClock
    | some start => s.beginSend start true

/-- ARBITRATION_LOSS (R10): the node sent a 1 at this bit and reads a 0; it receives the rest of the frame. -/
def execArbitrationLoss (wait : Nat) (bit : Nat) (s : State) : Host.Outcome State Fault Refusal :=
  s.take wait fun s =>
    s.when (decide (s.sentBit bit = some true))
      (s.count fun c => { c with arbitration := satInc c.arbitration }).breakOffSend

/-- DRIVER_FAULT (R10): the node sent a 0 at this bit and reads a 1 (log 18). -/
def execDriverFault (wait : Nat) (bit : Nat) (s : State) : Host.Outcome State Fault Refusal :=
  s.take wait fun s =>
    s.when (decide (s.sentBit bit = some false)) (s.countOnce LineCounters.addForm).breakOffSend

/-- ATTEMPT_END (R13 to R15): the acknowledge bit and the stop condition of a send. -/
def execAttemptEnd (wait : Nat) (heard : Bool) (s : State) : Host.Outcome State Fault Refusal :=
  s.take wait fun s =>
    match s.sending with
    | none => s
    | some x => s.endAttempt x.1 x.2 heard

/-- FRAME_RECEIVED_INTACT (R8, R16, R18). -/
def execFrameReceivedIntact (wait : Nat) (header : Byte) (body : List Byte) (check : BitVec 16) (s : State) :
    Host.Outcome State Fault Refusal :=
  s.take wait fun s =>
    s.when (s.receiving && !s.lif.counted && frameChecks header body check) (s.receiveIntact header body)

/-- CHECK_ERROR (R17): the whole frame has been read and its check differs. -/
def execCheckError (wait : Nat) (header : Byte) (body : List Byte) (check : BitVec 16) (stopped : Bool) (s : State) :
    Host.Outcome State Fault Refusal :=
  s.take wait fun s =>
    s.when (s.receiving && !s.lif.counted && checkDiffers header body check) (s.receiveWrong stopped)

/-- FORM_ERROR (R6, R17): in a node that is itself sending, what ends the frame ends it there too. -/
def execFormError (wait : Nat) (cause : FormErrorCause) (s : State) : Host.Outcome State Fault Refusal :=
  s.take wait fun s =>
    if s.sendingFrame then s.when (endsFrame cause) (s.breakOwnFrame 0)
    else s.when (s.receiving && causePossible cause) (s.receiveFaulty cause)

/-- LINE_STUCK (R19): a wire low for 5 ms without a break; `matched`: the check of the frame in reception had been found
matching (R12). -/
def execLineStuck (arrival : BreakArrival) (s : State) : Host.Outcome State Fault Refusal :=
  s.take arrival.wait fun s => s.when (s.working && !s.sees .stuck) (s.enterStuck arrival.matched)

/-- LINE_STUCK_LEFT (R19): both wires high together for the own idle gap. -/
def execLineStuckLeft (wait : Nat) (s : State) : Host.Outcome State Fault Refusal :=
  s.take wait fun s => s.when (s.sees .stuck && s.highFor s.ownGap) (s.lineQuietAfter s.ownGap)

end Sys2Proof.Machine
end

