-- ==== Sys2Proof/Config.lean ====
section
/-! DEFINITION. The free values: what the manual leaves open and the model does not fix.
Neither has a body, so a proof can use no value of it. -/

namespace Sys2Proof.Config

/-- Free value (log 20): the byte that stands where a response names the command it answers, in the
NO COMMAND response of R174, which answers none. Applied to the counter `State.free`. -/
opaque noCommandCode : Nat → BitVec 8

/-- Free value (log 3): where in the order of the steps that come due at one tick the next one goes.
The manual has such steps taken "in either order". Applied to the counter `State.free`. -/
opaque tiePlace : Nat → Nat

end Sys2Proof.Config
end

