-- ==== Sys2Proof/Machine/Configuration.lean ====
section
/-! DEFINITION. The configuration block: its layout, the test of each field in order, and the configuration it gives
(Table 10-3, R54, R55, R177, R187). -/

namespace Sys2Proof.Machine

/-- The fields that take two bytes of the block (R187). -/
def twoByteFields : List Nat := [4, 8, 9, 12, 13, 15, 16, 18, 19, 20, 21, 22, 23, 26, 28, 29, 30, 31]

/-- The fields the block carries, in ascending number: 1 to 31 and 40 to 119 (R187). -/
def blockFields : List Nat := (List.range 31).map (· + 1) ++ (List.range 80).map (· + 40)

/-- How many bytes a field takes. -/
def fieldWidth (n : Nat) : Nat := if n ∈ twoByteFields then 2 else 1

/-- The values of fields laid out one after the other, each with its number. -/
def readFields : List Nat → List Byte → List (Nat × Nat)
  | [], _ => []
  | n :: ns, bytes => (n, beNat (bytes.take (fieldWidth n))) :: readFields ns (bytes.drop (fieldWidth n))

/-- The value of a field of a block. -/
def blockValue (fields : List (Nat × Nat)) (n : Nat) : Nat :=
  match fields.find? fun f => f.1 == n with
  | none => 0
  | some f => f.2

/-- A value lies within a range, both ends included. -/
def inRange (lo hi v : Nat) : Bool := decide (lo ≤ v) && decide (v ≤ hi)

/-- A value lies within a range and is a multiple of a unit. -/
def inRangeBy (unit lo hi v : Nat) : Bool := inRange lo hi v && decide (v % unit = 0)

/-- The test of boundary i: below the number of boundaries it is a minute of day, greater than the one before (R177). -/
def boundaryPasses (v : Nat → Nat) (i : Nat) : Bool :=
  decide (v 17 ≤ i) || (inRange 0 1439 (v (18 + i)) && (decide (i = 0) || decide (v (17 + i) < v (18 + i))))

/-- The test of input i's role: a code, placed by the node's roles, held by no input of lower number (R55, R177). -/
def rolePasses (v : Nat → Nat) (i : Nat) : Bool :=
  let role := v (44 + 5 * i)
  let unit := decide (v 1 % 2 = 1)
  let post := decide (2 ≤ v 1)
  inRange 0 3 role && (decide (role = 0)
    || ((if role = 1 then unit else post) && (List.range i).all fun j => !decide (v (44 + 5 * j) = role)))

/-- The test of field 120: on a post both keys are given (R177). -/
def keysComplete (v : Nat → Nat) : Bool :=
  decide (v 1 < 2) || [2, 3].all fun role => (List.range 16).any fun i => decide (v (44 + 5 * i) = role)

/-- The test of a field of an input: levels and flags have two codes, edges and roles four (R177, R187). -/
def inputFieldPasses (v : Nat → Nat) (n : Nat) : Bool :=
  match (n - 40) % 5 with
  | 0 | 2 | 3 => inRange 0 1 (v n)
  | 1 => inRange 0 3 (v n)
  | _ => rolePasses v ((n - 40) / 5)

/-- The test of a field in Table 10-3, its cross-checks with fields of lower number included (R177). -/
def fieldPasses (v : Nat → Nat) (n : Nat) : Bool :=
  match n with
  | 1 => inRange 0 3 (v 1)
  | 2 => inRange 2 8 (v 2)
  | 3 => inRange 2 8 (v 3)
  | 4 => inRangeBy 10 50 2550 (v 4)
  | 5 => inRange 3 15 (v 5)
  | 6 => inRange 0 3 (v 6)
  | 7 => inRange 1 16 (v 7)
  | 8 => inRange 50 20000 (v 8)
  | 9 => inRange 10 1000 (v 9)
  | 10 => inRange 1 15 (v 10)
  | 11 => inRange 3 30 (v 11)
  | 12 => inRangeBy 100 100 10000 (v 12)
  | 13 => inRangeBy 100 100 2000 (v 13)
  | 14 => inRange 1 64 (v 14)
  | 15 => inRange 1 65534 (v 15)
  | 16 => inRange 2 65535 (v 16) && decide (v 15 < v 16)
  | 17 => inRange 1 6 (v 17)
  | 18 => boundaryPasses v 0
  | 19 => boundaryPasses v 1
  | 20 => boundaryPasses v 2
  | 21 => boundaryPasses v 3
  | 22 => boundaryPasses v 4
  | 23 => boundaryPasses v 5
  | 24 => inRange 0 30 (v 24)
  | 25 => inRange 1 120 (v 25)
  | 26 => inRange 10 300 (v 26)
  | 27 => inRange 10 255 (v 27)
  | 28 | 29 | 30 | 31 => true
  | 120 => keysComplete v
  | _ => inputFieldPasses v n

/-- The first failing field of a block (R177). -/
def firstFailing (v : Nat → Nat) : Option Nat := (blockFields ++ [120]).find? fun n => !fieldPasses v n

/-- The recorded edges a code names (R187). -/
def RecordedEdges.ofCode : Nat → RecordedEdges
  | 0 => .none
  | 1 => .rising
  | 2 => .falling
  | _ => .both

/-- The role a code names (R187). -/
def InputRole.ofCode : Nat → InputRole
  | 0 => .none
  | 1 => .breaker
  | 2 => .handKey
  | _ => .takeKey

/-- The configuration of input i (Table 10-3). -/
def inputConfigOf (v : Nat → Nat) (i : Nat) : InputConfig where
  activeHigh := decide (v (40 + 5 * i) = 1)
  edges := RecordedEdges.ofCode (v (41 + 5 * i))
  cascade := decide (v (42 + 5 * i) = 1)
  fast := decide (v (43 + 5 * i) = 1)
  role := InputRole.ofCode (v (44 + 5 * i))

/-- The sixteen inputs' configurations. -/
def inputConfigs (f : Nat → InputConfig) : Vector InputConfig 16 :=
  #v[f 0, f 1, f 2, f 3, f 4, f 5, f 6, f 7, f 8, f 9, f 10, f 11, f 12, f 13, f 14, f 15]

/-- The configuration the fields give (R178). -/
def configOf (v : Nat → Nat) : NodeConfig where
  unitRole := decide (v 1 % 2 = 1)
  postRole := decide (2 ≤ v 1)
  qFast := v 2
  qNormal := v 3
  chatterMs := v 4
  chatterCount := v 5
  trim := v 6
  quorum := v 7
  boundUs := v 8
  slewUs := v 9
  shortLimit := v 10
  formationWait := v 11
  spanMs := v 12
  settleMs := v 13
  pulsesPerRev := v 14
  standstill := v 15
  spin := v 16
  boundaries := (List.range (v 17)).map fun i => v (18 + i)
  earlyMin := v 24
  graceMin := v 25
  pairingS := v 26
  gatherS := v 27
  expectedUnits := BitVec.ofNat 16 (v 28)
  enableMask := BitVec.ofNat 16 (v 29)
  mapA := BitVec.ofNat 16 (v 30)
  mapB := BitVec.ofNat 16 (v 31)
  inputs := inputConfigs (inputConfigOf v)

/-- The values of the fields of a block (R187). -/
def valuesOf (block : List Byte) : Nat → Nat := blockValue (readFields blockFields block)

end Sys2Proof.Machine
end

