-- ==== Sys2Proof/Machine/Responses.lean ====
section
/-! DEFINITION. The data of the responses: Tables 12-8 to 12-12 and the READ TALLY data (R187). -/

namespace Sys2Proof.Machine

/-! ### READ CASCADE (Table 12-8) -/

/-- A stored member in 18 bytes. -/
def memberBytes (m : Member) : List Byte :=
  beBytes 1 (nodeInputByte m.node m.input)
    ++ beBytes 1 (bitAt 0 m.active + bitAt 1 m.doubtful + bitAt 2 m.line)
    ++ stampBytes m.stamp ++ stampBytes m.heard

/-- The flags of a cascade: DOUBTFUL 0, FULL 1, LATE 2. -/
def cascadeFlags (c : Cascade) : Nat := bitAt 0 c.doubtful + bitAt 1 c.full + bitAt 2 c.late

/-- The first-out's node and input byte. -/
def firstOutByte (c : Cascade) : Nat :=
  match c.firstOut with
  | none => 0
  | some (node, input) => nodeInputByte node input

/-- The READ CASCADE data, with the number of cascades that remain. -/
def cascadeData (c : Cascade) (remaining : Nat) : List Byte :=
  stampBytes c.opening ++ beBytes 1 c.opener.val ++ beBytes 1 (cascadeFlags c) ++ [c.notStored, c.lateCount]
    ++ beBytes 1 c.members.length ++ beBytes 1 (firstOutByte c)
    ++ c.members.flatMap memberBytes ++ beBytes 1 remaining

/-! ### READ ROUND (Table 12-9) -/

/-- The code of an action at a close. -/
def CloseAction.code : CloseAction → Nat
  | .none => 0
  | .slew => 1
  | .step => 2

/-- The code of a disposition. -/
def Disposition.code : Disposition → Nat
  | .eligible => 0
  | .notSound => 1
  | .foreign => 2
  | .edge => 3
  | .outOfSpan => 4

/-- An entry of a round table in 13 bytes. -/
def roundEntryBytes (e : RoundEntry) : List Byte :=
  beBytes 1 e.node.val ++ [e.status.byte] ++ beBytes 2 e.key.day.toNat ++ beBytes 3 e.key.second
    ++ beInt 4 e.reading ++ beBytes 1 e.edgeSender.val ++ beBytes 1 e.disposition.code

/-- The READ ROUND data; without an edge the edge sender is 0 (log 36). -/
def roundData (r : ClosedRound) : List Byte :=
  beBytes 2 r.key.day.toNat ++ beBytes 3 r.key.second
    ++ beBytes 1 (bitAt 0 r.full + bitAt 1 r.ownReading.isSome + r.action.code * 4)
    ++ beBytes 1 r.stateAtClose.code
    ++ optStampBytes r.edge ++ beBytes 1 (if r.edge.isSome then r.edgeSender.val else 0)
    ++ beInt 4 (r.ownReading.getD 0)
    ++ beBytes 1 r.used ++ beBytes 1 r.trim ++ beInt 4 r.midpoint ++ beInt 4 r.correction
    ++ beBytes 1 r.entries.length ++ r.entries.flatMap roundEntryBytes

/-! ### READ TALLY (section 12.4) -/

/-- The READ TALLY data: fields, flags, baseline, amounts, last closed key, record count, unused counter (R136). -/
def tallyData (t : Tallies) (unused : BitVec 16) : List Byte :=
  tallyFieldsBytes t.tally.fields ++ beBytes 1 t.tally.flagsByte ++ t.baseline.fields.bytes
    ++ (amounts (sixOf t.tally.fields) t.baseline.fields).bytes ++ optKeyBytes t.lastClosed
    ++ beBytes 1 t.unitShifts.length ++ beBytes 2 unused.toNat

/-! ### READ STATION SHIFT (Table 12-11) -/

/-- Bytes 3 to 14: the result of a record, 0 where there is none; the own post is the sending post of a LOCAL result
(R160, log 39). -/
def resultBytes (own : NodeNo) (r : Option Result) : List Byte :=
  match r with
  | none => beBytes 12 0
  | some r =>
    beBytes 1 r.outcome.code ++ stampBytes r.completion ++ beBytes 2 r.due.toNat
      ++ beBytes 1 (match r.elsewhere with
        | none => own.val
        | some node => node.val + 16)

/-- An entry in 12 bytes: node, ABSENT 4, UNEXPECTED 5, and the values, 0 where absent. -/
def stationEntryBytes (e : StationEntry) : List Byte :=
  beBytes 1 (e.node.val + bitAt 4 e.values.isNone + bitAt 5 e.unexpected)
    ++ (match e.values with
      | none => beBytes 11 0
      | some v => v.bytes)

/-- The READ STATION SHIFT data, with the number of records that remain. -/
def stationData (own : NodeNo) (x : StationRecord) (remaining : Nat) : List Byte :=
  keyBytes x.key ++ resultBytes own x.result ++ beBytes 1 x.entries.length
    ++ x.entries.flatMap stationEntryBytes ++ beBytes 1 remaining

/-! ### READ STATUS (Table 12-12) -/

/-- Sixteen marks, one per input, as a mask. -/
def inputMask (p : InputNo → Bool) : Nat := allInputs.foldl (fun m n => m + bitAt n.val (p n)) 0

/-- Items that only some nodes report: 0 on the others. -/
def reportedOn (applies : Bool) (bytes : List Byte) : List Byte := if applies then bytes else beBytes bytes.length 0

/-- Milliseconds left until a moment, truncated (log 27). -/
def msLeft (due now : Nat) : Nat := (due - now) / 1000

/-- Bytes 0 to 13: the line counters (R23). -/
def statusLine (s : State) : List Byte :=
  let c := s.lif.counters
  [c.intact, c.checkErrors, c.formErrors, c.unheard, c.arbitration, c.displaced, c.lateMarks].flatMap fun x => beBytes 2 x.toNat

/-- The count held with the reference monitor's state. -/
def Monitor.count : Monitor → Nat
  | .searching good => good
  | .locked bad => bad

/-- Bytes 14 to 18: the clock. -/
def statusClock (s : State) : List Byte :=
  beBytes 1 (bitAt 0 s.clock.valid + bitAt 1 s.clu.monitor.isLocked + s.clu.monitor.count * 4) ++ beInt 4 s.clu.p

/-- Bytes 19 to 24: the inputs (R72). -/
def statusInputs (s : State) : List Byte :=
  beBytes 2 (inputMask fun n => (s.input n).level.isSome)
    ++ beBytes 2 (inputMask fun n => (s.input n).level = some true)
    ++ beBytes 2 (inputMask fun n => (s.input n).locked)

/-- Bytes 25 to 34: the Event Queue (R83). -/
def statusQueue (s : State) : List Byte :=
  beBytes 2 s.evq.records.length ++ beBytes 2 s.evq.nextSeq.toNat
    ++ (match s.evq.openOverflow with
      | none => beBytes 6 0
      | some o => beBytes 1 1 ++ beBytes 2 o.seq.toNat ++ beBytes 3 o.lostCount.toNat)

/-- The stop of a unit node that awaits classification. -/
def State.reportedStop (s : State) : Option Stop := if s.cfg.unitRole then s.run.stop else none

/-- A stop in AWAITING CLOSE. -/
def Stop.awaitsClose (x : Stop) : Bool :=
  match x.phase with
  | .waiting _ => false
  | .awaitingClose _ _ => true

/-- Byte 35: the cascade flags and the stop's. -/
def statusCascadeFlags (s : State) : Nat :=
  (match s.csu.current with
    | none => 0
    | some o => 1 + 2 * cascadeFlags o.cascade)
    + bitAt 4 s.csu.slot.isSome + bitAt 5 s.reportedStop.isSome + bitAt 6 (s.reportedStop.any Stop.awaitsClose)

/-- Bytes 36 to 47: the open cascade (R106). -/
def statusOpenCascade (s : State) : List Byte :=
  match s.csu.current with
  | none => beBytes 12 0
  | some o =>
    stampBytes o.cascade.opening ++ beBytes 1 o.cascade.opener.val ++ beBytes 1 o.cascade.members.length
      ++ beBytes 2 (msLeft o.closeAt s.time.elapsed)

/-- Bytes 48 to 60: the slot, the list and the counters (R106). -/
def statusCascades (s : State) : List Byte :=
  (match s.csu.slot with
    | none => beBytes 8 0
    | some m => beBytes 1 (nodeInputByte m.node m.input) ++ dateBytes m.stamp.date)
    ++ beBytes 1 s.csu.list.length ++ beBytes 2 s.csu.stray.toNat ++ beBytes 2 s.csu.lost.toNat

/-- Bytes 61 to 70: the stop (R106). -/
def statusStop (s : State) : List Byte :=
  match s.reportedStop with
  | none => beBytes 10 0
  | some x =>
    stampBytes x.stamp ++ beBytes 2 (match x.phase with
      | .waiting deadline => msLeft deadline s.time.elapsed
      | .awaitingClose _ _ => 0)

/-- The code of a phase of the Speed Unit. -/
def SpeedPhase.code : SpeedPhase → Nat
  | .noEdge => 0
  | .firstPeriod _ => 1
  | .measuring _ => 2

/-- Bytes 71 to 81: the Speed Unit (R122). -/
def statusSpeed (s : State) : List Byte :=
  let u := s.spu
  beBytes 1 (u.phase.code + bitAt 2 u.silent) ++ beBytes 4 u.speed ++ beBytes 3 (u.lastPeriod.getD 0)
    ++ beBytes 2 u.pulsesLast ++ beBytes 1 u.revPulses

/-- Byte 82: the run state (R122). -/
def statusRun (s : State) : List Byte :=
  reportedOn s.cfg.unitRole (beBytes 1 (s.run.state.code + bitAt 2 s.run.breakerClosed + bitAt 3 s.run.turning
    + bitAt 4 s.run.initialPhase + bitAt 5 s.run.speedSilent))

/-- The code of a state of the handover machine. -/
def PostState.code : PostState → Nat
  | .onWatch => 0
  | .early => 1
  | .due => 2
  | .overdue => 3

/-- Byte 86: the machine's state and the held press. -/
def statusMode (s : State) : Nat :=
  s.shu.mode.code + (match s.shu.held with
    | none => 0
    | some p => 4 + 8 * p.key.code)

/-- The code of a station shift record's status; 0 stands for no record. -/
def RecordStatus.code : RecordStatus → Nat
  | .gathering => 1
  | .awaitingAcceptance => 2
  | .complete => 3

/-- The statuses of the records, two bits each, the oldest lowest. -/
def statusCodes : List StationRecord → Nat
  | [] => 0
  | x :: xs => x.status.code + 4 * statusCodes xs

/-- The time left on the pairing timer in milliseconds. -/
def State.pairingLeft (s : State) : Nat :=
  match s.shu.held with
  | none => 0
  | some p => msLeft (p.since + s.cfg.pairingS * 1000000) s.time.elapsed

/-- The grace timer in whole seconds, 0 while its value is below 0 (log 27). -/
def State.graceSeconds (s : State) : Nat :=
  match s.shu.grace with
  | none => 0
  | some t => (t.value s.time.elapsed).toNat / 1000000

/-- Bytes 86 to 115: the post's items (R161). Of a grace timer above 16,777,215 s the three bytes give the low 24 bits: the
model's choice (log 27). -/
def statusPost (s : State) : List Byte :=
  reportedOn s.cfg.postRole
    (beBytes 1 (statusMode s) ++ optKeyBytes s.target ++ beBytes 3 s.graceSeconds ++ beBytes 3 s.pairingLeft
      ++ optKeyBytes s.lastAccepted ++ optKeyBytes s.shu.lastCreated ++ optKeyBytes (s.shu.heldResult.map Prod.fst)
      ++ beBytes 1 s.shu.records.length ++ beBytes 2 (statusCodes s.shu.records)
      ++ [s.shu.unused, s.shu.unmatched, s.shu.repeated, s.shu.lostRecords].flatMap fun x => beBytes 2 x.toNat)

/-- The code of a supply state. -/
def SupplyState.code : SupplyState → Nat
  | .run => 0
  | .keepAlive => 1
  | .restoring => 2
  | .off => 3

/-- The code of a store area. -/
def StoreArea.code : StoreArea → Nat
  | .tally => 0
  | .baseline => 1
  | .unitShift => 2
  | .eventQueue => 3

/-- Bytes 116 to 124: the Supply Monitor and the store check (R172). -/
def statusSupply (s : State) : List Byte :=
  let u := s.sup
  beBytes 1 (u.state.code + u.nodeStateAtReset.code * 4 + bitAt 4 u.creditMark + bitAt 5 u.firstFailure.isSome
    + bitAt 6 u.failureOverflow)
    ++ (match u.firstFailure with
      | none => beBytes 2 0
      | some (area, index) => beBytes 1 area.code ++ beBytes 1 index)
    ++ beBytes 4 u.outageTenths.toNat ++ beBytes 2 s.chk.passes.toNat

/-- Bytes 125 to 134: the node and the attention flags, masks and maps (R176, R180). -/
def statusNode (s : State) : List Byte :=
  beBytes 1 (s.lpt.nodeState.code + bitAt 2 s.cfg.unitRole + bitAt 3 s.cfg.postRole + s.lif.lineSpeed.toNat * 16)
    ++ beBytes 1 s.lif.nodeNumber.val
    ++ [s.atl.flags, s.cfg.enableMask, s.cfg.mapA, s.cfg.mapB].flatMap fun x => beBytes 2 x.toNat

/-- The READ STATUS data, filled to 136 bytes with 0 (Table 12-12, R187). -/
def statusData (s : State) : List Byte :=
  statusLine s ++ statusClock s ++ statusInputs s ++ statusQueue s
    ++ beBytes 1 (statusCascadeFlags s) ++ statusOpenCascade s ++ statusCascades s ++ statusStop s
    ++ statusSpeed s ++ statusRun s ++ optKeyBytes s.shu.lastReached ++ statusPost s
    ++ statusSupply s ++ statusNode s ++ beBytes 1 0

end Sys2Proof.Machine
end

