-- ==== Sys2Proof/Machine/Opening.lean ====
section
/-! DEFINITION. The eight steps of OPEN, in their order (R179). -/

namespace Sys2Proof.Machine

/-- Step 1 of R179: the node state becomes ACTIVE. -/
def State.openNodeState (s : State) : State := { s with lpt := { s.lpt with nodeState := .active } }

/-- Step 2 of R179: JOINING with cause OPEN; rounds run from the next boundary. -/
def State.openClock (s : State) : State :=
  ({ s with time := { s.time with boundaryDue := none } }).changeState .joining .opened

/-- Step 3 of R179: the OPENED record (Table 12-6). -/
def State.recordOpened (s : State) : State :=
  s.requestNow .opened (bitAt 0 s.cfg.unitRole + bitAt 1 s.cfg.postRole + bitAt 2 s.clock.valid)
    (BitVec.ofNat 32 (s.lif.nodeNumber.val + s.lif.lineSpeed.toNat * 16))

/-- Step 5 of R179: the sweep with its first slot, and the Speed Unit with its silence timer (R56, R108). -/
def State.startSweep (s : State) : State := { s with isc := .initial s.time.elapsed, spu := .initial s.time.elapsed }

/-- Step 6 of R179: on a unit node the initial phase and the tenths (R116, R125). -/
def State.startRun (s : State) : State :=
  { s with run := if s.cfg.unitRole then { s.run with initialPhase := true, tenthStart := s.time.elapsed } else s.run }

/-- Step 8 of R179: the first pass of the store check (R170). -/
def State.startChecks (s : State) : State :=
  { s with chk := { s.chk with pass := some .tally, passStart := s.time.elapsed } }

/-- The steps of OPEN in the order of R179. -/
def openStepList : List (State → State) :=
  [State.openNodeState, State.openClock, State.recordOpened, State.lockReference, State.startSweep, State.startRun,
    State.openShift, State.startChecks]

/-- The first n steps of OPEN (R179). -/
def State.openTo (s : State) (n : Nat) : State := (openStepList.take n).foldl (fun t step => step t) s

/-- OPEN's steps, all of them (R179). -/
def State.openSteps (s : State) : State := s.openTo openStepList.length

/-- A loss of main supply or an assertion of RSTN that comes while OPEN executes finds the steps that OPEN has reached;
OPEN executes only in CONFIGURED, from the Local Port (R175, R179, log 22). -/
def State.midOpen (s : State) (reached : Option Nat) : State :=
  match reached with
  | none => s
  | some n => if s.portOpen && decide (s.lpt.nodeState = .configured) then s.openTo n else s

end Sys2Proof.Machine
end

