-- ==== Sys2Proof/Machine/Supply.lean ====
section
/-! DEFINITION. The Supply Monitor: the loss of a supply, keep-alive, restore, cold start and the reset pin
(R163 to R169). -/

namespace Sys2Proof.Machine

/-! ### The two domains -/

/-- The main domain at its initial values, the node number and line speed as last read (R53, R72, R107, R108, R123,
R162, R174, R176, R180, tables "state after each reset kind"). -/
def State.mainInitial (s : State) : State :=
  let now := s.time.elapsed
  { s with
    time := { s.time with secondStart := now, spread := 0, spreadDone := 0, boundaryDue := none }
    lif := .initial s.lif.nodeNumber s.lif.lineSpeed now
    clu := .initial now
    isc := .initial now
    csu := .initial
    spu := .initial now
    run := .initial now
    shu := .initial
    chk := .initial now
    lpt := .initial
    atl := .initial now }

/-- The straps read at a reset (R176). -/
def State.readStraps (s : State) (id : NodeNo) (sp : BitVec 2) : State :=
  { s with
    lif := { s.lif with nodeNumber := id, lineSpeed := sp }
    pins := { s.pins with id := id, sp := sp } }

/-- The level at RSTN noted (log 5). -/
def State.setRstn (s : State) (low : Bool) : State := { s with pins := { s.pins with rstnLow := low } }

/-- The backup domain at its initial values (R168, log 29). -/
def State.backupInitial (s : State) : State :=
  { s with
    clock := ⟨⟨0, 0⟩, false⟩
    evq := .initial
    tallies := .initial
    lastAccepted := none
    sup := { Sup.initial with state := s.sup.state, vbkPresent := s.sup.vbkPresent } }

/-- Both supplies lost: OFF, and both domains gone (R163, R164). -/
def State.toOff (s : State) : State :=
  let s1 := s.mainInitial.backupInitial
  { s1 with sup := { s1.sup with state := .off, vbkPresent := false } }

/-! ### The loss of main supply -/

/-- Steps of the loss treatment that R164 and R169 share: both wires released (R24). -/
def State.releaseWires (s : State) : State :=
  { s with lif := { s.lif with lclkDriven := false, ldatDriven := false, send := none } }

/-- The loss treatment at a loss of main supply, in the order of R164: POWER LOSS record, run close-out, outage timer
and credit mark. -/
def State.lossTreatment (s : State) : State :=
  let credit := s.unitActive
  let s1 := (s.releaseWires.requestNow .powerLoss s.lpt.nodeState.code 0).closeOut false
  { s1 with sup := { s1.sup with outageUs := 0, creditMark := credit } }

/-- KEEP-ALIVE, the main domain lost; a run of the backup oscillator begins (R26, R164, log 8). -/
def State.toKeepAlive (s : State) : State :=
  let s1 := s.mainInitial
  { s1 with sup := { s1.sup with state := .keepAlive, rstnHeld := false, backupPhase := 0, restoreCycles := 0 } }

/-- VDD lost during the RESTORING wait: back to KEEP-ALIVE, the outage timer running on (R166). -/
def State.backToKeepAlive (s : State) : State :=
  { s with sup := { s.sup with state := .keepAlive, restoreCycles := 0 } }

/-- VDD ceases to be good (R163, R164, R166, log 23). -/
def State.vddLost (s : State) : State :=
  match s.sup.state with
  | .run => if s.sup.vbkPresent then s.lossTreatment.toKeepAlive else s.toOff
  | .restoring => if s.sup.vbkPresent then s.backToKeepAlive else s.toOff
  | .keepAlive | .off => s

/-- VBK is lost (R163, R165). -/
def State.vbkLost (s : State) : State :=
  match s.sup.state with
  | .keepAlive => s.toOff
  | .run | .restoring => { s with sup := { s.sup with vbkPresent := false } }
  | .off => s

/-! ### The reset pin -/

/-- The assertion of RSTN: wires released, the run closed out with RESET, the node state kept, and the main domain at
its initial values (R169). -/
def State.assertReset (s : State) : State :=
  let state := s.lpt.nodeState
  let s1 := (s.releaseWires.closeOut true).mainInitial
  { s1 with sup := { s1.sup with nodeStateAtReset := state, rstnHeld := true } }

/-- The moment at which the RESTORING wait has ended and its restore pass begun: RSTN asserted then waits for the end of
the restore (R166, log 50). -/
def State.atWaitEnd (s : State) : Bool := s.chk.restorePass && decide (s.chk.passStart = s.time.elapsed)

/-- The release of RSTN: straps read, RESET record (R169). -/
def State.releaseReset (s : State) (id : NodeNo) (sp : BitVec 2) : State :=
  let s1 := s.mainInitial.readStraps id sp
  ({ s1 with sup := { s1.sup with rstnHeld := false } }).requestNow .reset s1.sup.nodeStateAtReset.code 0

/-! ### Restore and cold start -/

/-- The supply state RUN, the main domain at its initial values with the straps just read (R167, R168). -/
def State.toRun (s : State) (id : NodeNo) (sp : BitVec 2) : State :=
  let s1 := s.mainInitial.readStraps id sp
  { s1 with sup := { s1.sup with state := .run, restoreCycles := 0 } }

/-- Step 3 of R167: the outage duration credited to the tally if the credit mark is set, and the mark cleared. -/
def State.creditOutage (s : State) : State :=
  if s.sup.creditMark then
    let s1 := s.changeTally fun t => t.addOutage s.sup.outageTenths
    { s1 with sup := { s1.sup with creditMark := false } }
  else s

/-- The restore pass of the store check begins (step 5 of R167). -/
def State.startRestorePass (s : State) : State :=
  { s with chk := { s.chk with pass := some .tally, restorePass := true, passStart := s.time.elapsed } }

/-- The end of the RESTORING wait: a cold start's with the fresh mark set, else the restore in the order of R167. RSTN
low at the end of a cold start is taken at once, at the end of the restore when its pass ends (R166). -/
def State.endRestore (s : State) (id : NodeNo) (sp : BitVec 2) : State :=
  let s1 := s.toRun id sp
  if s.sup.freshMark then
    let s2 := { s1 with sup := { s1.sup with freshMark := false } }
    if s.pins.rstnLow then s2.assertReset else s2
  else
    let s2 := s1.creditOutage
    (s2.requestNow .powerRestore 0 s2.sup.outageTenths).startRestorePass

/-- The RESTORING wait is over (R166). -/
def State.restoreDue (s : State) : Bool := decide (s.sup.state = .restoring) && s.restoreWaitOver

/-- OFF is left: the backup domain at its initial values, the fresh mark set, KEEP-ALIVE on VBK alone, else RESTORING
(R168). The backup oscillator begins a run of 32,768 cycles there (R26): the model's choice (log 8). -/
def State.leaveOff (s : State) (returned : SupplyReturned) : State :=
  let s1 := s.mainInitial.backupInitial
  let (state, vbk) := match returned with
    | .vdd => (SupplyState.restoring, false)
    | .vbk => (SupplyState.keepAlive, true)
    | .both => (SupplyState.restoring, true)
  { s1 with sup := { s1.sup with state := state, vbkPresent := vbk, freshMark := true } }

/-! ### The commands -/

/-- MAIN_SUPPLY_LOSS (R163, R164, R166), at a step of OPEN if it comes while OPEN executes (R179). -/
def execMainSupplyLoss (arrival : ResetArrival) (s : State) : Host.Outcome State Fault Refusal :=
  s.take arrival.wait fun s => (s.midOpen arrival.midOpen).vddLost

/-- BACKUP_SUPPLY_LOSS (R163, R165). -/
def execBackupSupplyLoss (wait : Nat) (s : State) : Host.Outcome State Fault Refusal :=
  s.take wait fun s => s.vbkLost

/-- BACKUP_SUPPLY_RETURN (R163): VBK is present again; from OFF that is a COLD_START. -/
def execBackupSupplyReturn (wait : Nat) (s : State) : Host.Outcome State Fault Refusal :=
  s.take wait fun s =>
    s.when (!decide (s.sup.state = .off)) { s with sup := { s.sup with vbkPresent := true } }

/-- MAIN_SUPPLY_RETURN (R166): VDD becomes good in KEEP-ALIVE and a wait begins. -/
def execMainSupplyReturn (wait : Nat) (s : State) : Host.Outcome State Fault Refusal :=
  s.take wait fun s =>
    s.when (decide (s.sup.state = .keepAlive)) { s with sup := { s.sup with state := .restoring, restoreCycles := 0 } }

/-- RESTORE_WAIT_END (R167, R168), with the straps as they stand. -/
def execRestoreWaitEnd (wait : Nat) (id : NodeNo) (sp : BitVec 2) (s : State) : Host.Outcome State Fault Refusal :=
  s.take wait fun s => s.when s.restoreDue (s.endRestore id sp)

/-- COLD_START (R168): a supply returns from OFF. -/
def execColdStart (wait : Nat) (returned : SupplyReturned) (s : State) : Host.Outcome State Fault Refusal :=
  s.take wait fun s => s.when (decide (s.sup.state = .off)) (s.leaveOff returned)

/-- RSTN_ASSERT (R166, R169): RSTN falls; it is sensed in RUN, at a step of OPEN if it comes while OPEN executes (R179). -/
def execRstnAssert (arrival : ResetArrival) (s : State) : Host.Outcome State Fault Refusal :=
  s.take arrival.wait fun s =>
    (s.when (s.working && !s.pins.rstnLow && !s.atWaitEnd) (s.midOpen arrival.midOpen).assertReset).setRstn true

/-- RSTN_RELEASE (R169), with the straps as they stand: RSTN rises. -/
def execRstnRelease (wait : Nat) (id : NodeNo) (sp : BitVec 2) (s : State) : Host.Outcome State Fault Refusal :=
  s.take wait fun s =>
    (s.when (decide (s.sup.state = .run) && s.sup.rstnHeld) (s.releaseReset id sp)).setRstn false

end Sys2Proof.Machine
end

