-- ==== Sys2Proof/Machine/StoreCheck.lean ====
section
/-! DEFINITION. The store check: its passes, the test of one record, and the report of a failure (R82, R127, R170,
R171, log 25). -/

namespace Sys2Proof.Machine

/-- The record a pass tests next, past the ends of the lists; none when every record has been tested (R170). -/
def State.testPlace (s : State) (c : Cursor) : Option Cursor :=
  let events := fun p => if p < s.evq.records.length then some (Cursor.event p) else none
  match c with
  | .tally => some .tally
  | .baseline => some .baseline
  | .unitShift p => if p < s.tallies.unitShifts.length then some (.unitShift p) else events 0
  | .event p => events p

/-- The record after one in the order of R170. -/
def Cursor.next : Cursor → Cursor
  | .tally => .baseline
  | .baseline => .unitShift 0
  | .unitShift p => .unitShift (p + 1)
  | .event p => .event (p + 1)

/-- A failure reported: the first is kept, a further one sets the overflow flag, and STORE CHECK is set (R171). -/
def State.reportFailure (s : State) (area : StoreArea) (index : Nat) : State :=
  let sup := match s.sup.firstFailure with
    | none => { s.sup with firstFailure := some (area, index) }
    | some _ => { s.sup with failureOverflow := true }
  ({ s with sup := sup }).setFlag .storeCheck

/-- The tally SUSPECT, its check recomputed over the flag (R127). -/
def State.suspectTally (s : State) : State := s.changeTally fun t => { t with suspect := true }

/-- The tally's stored check fails. -/
def State.tallyFails (s : State) : Bool := !decide (tallyCheck s.tallies.tally = s.tallies.tally.check)

/-- The baseline's stored check fails. -/
def State.baselineFails (s : State) : Bool := !decide (baselineCheck s.tallies.baseline.fields = s.tallies.baseline.check)

/-- A failure of the tally or of the baseline reaches the Run Unit: SUSPECT, the tally's check recomputed over it, and
the failure reported unless it is a baseline's found while SUSPECT was set (R127, R171). -/
def State.takeFailure (s : State) (area : StoreArea) (reported : Bool) : State :=
  if reported then s.suspectTally.reportFailure area 0 else s.suspectTally

/-- The test of the tally's check (R127, R171). -/
def State.testTally (s : State) : State := s.when s.tallyFails (s.takeFailure .tally true)

/-- The test of the baseline's check, not reported while the tally is SUSPECT (R127, R171). -/
def State.testBaseline (s : State) : State :=
  s.when s.baselineFails (s.takeFailure .baseline (!s.tallies.tally.suspect))

/-- The test of a unit shift record, not reported if it is marked CORRUPT already (R132, R171). -/
def State.testUnitShift (s : State) (p : Nat) : State :=
  match s.tallies.unitShifts[p]? with
  | none => s
  | some u =>
    if u.corrupt || unitShiftCheck u = u.check then s
    else
      ({ s with tallies := { s.tallies with unitShifts := s.tallies.unitShifts.set p { u with corrupt := true } } }).reportFailure
        .unitShift p

/-- The test of an event record, not reported if it is marked CORRUPT already (R82, R171). -/
def State.testEvent (s : State) (p : Nat) : State :=
  match s.evq.records[p]? with
  | none => s
  | some r =>
    if r.corrupt || recordCheck r = r.check then s
    else
      ({ s with evq := { s.evq with records := s.evq.records.set p { r with corrupt := true } } }).reportFailure .eventQueue p

/-- The test of the record at a place (R170). -/
def State.testAt (s : State) (c : Cursor) : State :=
  match c with
  | .tally => s.testTally
  | .baseline => s.testBaseline
  | .unitShift p => s.testUnitShift p
  | .event p => s.testEvent p

/-- A pass begins: 10 s of elapsed time after the last one began, in ACTIVE (R170). -/
def State.passDue (s : State) : Bool :=
  s.active && s.chk.pass.isNone && decide (s.chk.passStart + 10000000 ≤ s.time.elapsed)

/-- A pass at its first record (R170). -/
def State.beginPass (s : State) : State :=
  { s with chk := { s.chk with pass := some .tally, passStart := s.chk.passStart + 10000000 } }

/-- The place of the record that the pass in progress tests now. -/
def State.testDue (s : State) : Option Cursor :=
  if s.working then s.chk.pass.bind s.testPlace else none

/-- A record tested and the pass moved on (R170). -/
def State.testStep (s : State) (c : Cursor) : State :=
  let s1 := s.testAt c
  { s1 with chk := { s1.chk with pass := some c.next } }

/-- A pass in progress has tested every record. -/
def State.passOver (s : State) : Bool := s.working && s.chk.pass.isSome && (s.chk.pass.bind s.testPlace).isNone

/-- The pass ends and is counted (R172); a restore pass frees the Local Port (R167), and an assertion of RSTN that
waited for the end of the restore is taken (R166). -/
def State.endPass (s : State) : State :=
  let s1 := { s with chk := { s.chk with pass := none, restorePass := false, passes := satInc s.chk.passes } }
  if s.chk.restorePass && s.pins.rstnLow then s1.assertReset else s1

/-- The failure that the pass finds at its place, if it is the tally's or the baseline's: its area, and whether it is
reported (R127, R171). -/
def State.findingNow (s : State) : Option (StoreArea × Bool) :=
  match s.testDue with
  | some .tally => if s.tallyFails then some (.tally, true) else none
  | some .baseline => if s.baselineFails then some (.baseline, !s.tallies.tally.suspect) else none
  | some (.unitShift _) | some (.event _) | none => none

/-- A failure found on the old contents is taken after an ACCEPT TALLY that it came together with; the pass moves on
(R127, log 22). -/
def State.takeFinding (s : State) (finding : Option (StoreArea × Bool)) : State :=
  match finding with
  | none => s
  | some x =>
    let s1 := s.takeFailure x.1 x.2
    { s1 with chk := { s1.chk with pass := s1.chk.pass.map Cursor.next } }

/-- STORE_CHECK_PASS_START (R170). -/
def execStoreCheckPassStart (wait : Nat) (s : State) : Host.Outcome State Fault Refusal :=
  s.take wait fun s => s.when s.passDue s.beginPass

/-- STORE_CHECK_TEST (R170, R171). -/
def execStoreCheckTest (wait : Nat) (s : State) : Host.Outcome State Fault Refusal :=
  s.take wait fun s =>
    match s.testDue with
    | none => s
    | some c => s.testStep c

/-- STORE_CHECK_PASS_END (R170, R172). -/
def execStoreCheckPassEnd (wait : Nat) (s : State) : Host.Outcome State Fault Refusal :=
  s.take wait fun s => s.when s.passOver s.endPass

end Sys2Proof.Machine
end

