-- ==== Sys2Proof/Machine/Port.lean ====
section
/-! DEFINITION. The Local Port: the thirteen commands and the two kinds of transaction (R51, R52, R80, R99, R129,
R130, R136, R137, R160, R173 to R181). -/

namespace Sys2Proof.Machine

/-! ### Responses -/

/-- The codes of the commands (Table 12-7). -/
inductive CommandCode where
  | configure | openNode | setTime | presetTally | acceptTally | readStatus | readEvent | readCascade | readRound
  | readTally | readShift | readStationShift | ackAttention
deriving DecidableEq, Repr

/-- The code byte of a command (Table 12-7). -/
def CommandCode.byte : CommandCode → Byte
  | .configure => 0x01#8
  | .openNode => 0x02#8
  | .setTime => 0x03#8
  | .presetTally => 0x04#8
  | .acceptTally => 0x05#8
  | .readStatus => 0x06#8
  | .readEvent => 0x07#8
  | .readCascade => 0x08#8
  | .readRound => 0x09#8
  | .readTally => 0x0A#8
  | .readShift => 0x0B#8
  | .readStationShift => 0x0C#8
  | .ackAttention => 0x0D#8

/-- The reason codes, in the order of Table 10-1 (R187). -/
inductive Reason where
  | state | alreadyConfigured | notConfigured | field | range | counts | length | unknown | noCommand
deriving DecidableEq, Repr

/-- The byte of a reason (R187). -/
def Reason.byte : Reason → Byte
  | .state => 0x01#8
  | .alreadyConfigured => 0x02#8
  | .notConfigured => 0x03#8
  | .field => 0x04#8
  | .range => 0x05#8
  | .counts => 0x06#8
  | .length => 0x07#8
  | .unknown => 0x08#8
  | .noCommand => 0x09#8

/-- The response buffer filled (R174). -/
def State.respond (s : State) (bytes : List Byte) : State := { s with lpt := { s.lpt with response := some bytes } }

/-- DONE with data (R187). -/
def State.done (s : State) (c : CommandCode) (data : List Byte) : State := s.respond (0x01#8 :: c.byte :: data)

/-- REFUSED with a reason (R187). -/
def State.refuse (s : State) (c : CommandCode) (r : Reason) : State := s.respond [0x02#8, c.byte, r.byte]

/-- EMPTY (R187). -/
def State.empty (s : State) (c : CommandCode) : State := s.respond [0x03#8, c.byte]

/-- A read transaction reaches the node at all: it is neither in KEEP-ALIVE nor in OFF. -/
def State.portPowered (s : State) : Bool := decide (s.sup.state = .run) || decide (s.sup.state = .restoring)

/-- A command taken by the Local Port; turned away without a trace while it is busy (R175). A command that comes whole, as a row
of its own, leaves the bytes shown as last shifted out on LSDO as they were: the model's choice (log 52). -/
def State.viaPort (s : State) (f : State → State) : State := if s.portOpen then f s else s

/-! ### The commands that change the node -/

/-- The configuration taken by every block; nothing starts (R178). -/
def State.takeConfig (s : State) (c : NodeConfig) : State :=
  { s with lpt := { s.lpt with nodeState := .configured, config := some c } }

/-- CONFIGURE (R177, R178, Table 10-2). -/
def State.configure (block : List Byte) (s : State) : State :=
  if block.length ≠ 129 then s.refuse .configure .length
  else match s.lpt.nodeState with
    | .configured => s.refuse .configure .alreadyConfigured
    | .active => s.refuse .configure .state
    | .unconfigured =>
      match firstFailing (valuesOf block) with
      | some n => s.respond [0x02#8, CommandCode.configure.byte, Reason.field.byte, BitVec.ofNat 8 n]
      | none => (s.takeConfig (configOf (valuesOf block))).done .configure []

/-- OPEN (R179, Table 10-2). -/
def State.openCommand (s : State) : State :=
  match s.lpt.nodeState with
  | .unconfigured => s.refuse .openNode .notConfigured
  | .active => s.refuse .openNode .state
  | .configured => s.openSteps.done .openNode []

/-- The clock states in which SET TIME is taken (R51). -/
def ClockState.settable : ClockState → Bool
  | .solo | .joining | .holdover => true
  | .agreed | .referenced => false

/-- SET TIME taken: an open round is abandoned and the clock stepped (R38, R48, R51). -/
def State.timeSet (s : State) (d : Date) : State := s.abandonRound.stepAndLock d .timeSet

/-- SET TIME (R51, log 12). -/
def State.setTimeCommand (day : Day) (us : Nat) (s : State) : State :=
  if s.clu.state.settable then
    if usOutOfRange us then s.refuse .setTime .range else (s.timeSet ⟨day, us⟩).done .setTime []
  else s.refuse .setTime .state

/-- Some saturating field of the tally stands at its highest value (R126, R129). -/
def someAtTop (f : TallyFields) : Bool :=
  atTop f.online || atTop f.spinning || atTop f.starts || atTop f.syncs || atTop f.trips || atTop f.normalStops
    || atTop f.outage

/-- The tally and baseline preset (R129). -/
def State.preset (s : State) (f : TallyFields) : State :=
  { s with tallies := { s.tallies with
      tally := Tally.sealed ⟨f, false, false, someAtTop f, 0⟩
      baseline := Baseline.of (sixOf f) } }

/-- PRESET TALLY (R129). -/
def State.presetCommand (f : TallyFields) (s : State) : State :=
  if s.lpt.nodeState = .active then s.refuse .presetTally .state
  else if f.trips.toNat + f.normalStops.toNat ≠ f.syncs.toNat then s.refuse .presetTally .counts
  else (s.preset f).done .presetTally []

/-- The tally and baseline accepted as they stand (R130). -/
def State.acceptTallies (s : State) : State :=
  { s with tallies := { s.tallies with
      tally := Tally.sealed { s.tallies.tally with suspect := false }
      baseline := Baseline.of s.tallies.baseline.fields } }

/-- ACCEPT TALLY (R130); a store check failure that comes together with it and is taken second sets SUSPECT (R127, log 22). -/
def State.acceptCommand (finding : Bool) (s : State) : State :=
  (s.acceptTallies.takeFinding (if finding then s.findingNow else none)).done .acceptTally []

/-- The attention flags after an acknowledge: marked flags cleared, marked level sources that still hold set again (R181). -/
def State.ackedFlags (s : State) (mask : BitVec 16) : BitVec 16 := (s.atl.flags &&& ~~~mask) ||| (s.levelMarks &&& mask)

/-- The acknowledge; a mark on STORE CHECK clears the first store failure and the overflow flag (R171, R181). -/
def State.acknowledge (s : State) (mask : BitVec 16) : State :=
  { s with
    atl := { s.atl with flags := s.ackedFlags mask }
    sup := if mask.getLsbD Source.storeCheck.number then { s.sup with firstFailure := none, failureOverflow := false } else s.sup }

/-- ACK ATTENTION, with the flags before and after (R181). -/
def State.ackCommand (mask : BitVec 16) (s : State) : State :=
  (s.acknowledge mask).done .ackAttention (beBytes 2 s.atl.flags.toNat ++ beBytes 2 (s.ackedFlags mask).toNat)

/-! ### The commands that read -/

/-- READ STATUS (R176 and every chapter's status rule). -/
def State.readStatusCommand (s : State) : State := s.done .readStatus (statusData s)

/-- A pass's place after the head record of the Event Queue has been removed (R82, log 25). -/
def Cursor.afterRemoval : Cursor → Cursor
  | .event (p + 1) => .event p
  | .event 0 => .event 0
  | .tally => .tally
  | .baseline => .baseline
  | .unitShift p => .unitShift p

/-- The head record removed (R80). -/
def State.removeHead (s : State) (rest : List Record) : State :=
  { s with
    evq := { s.evq with records := rest }
    chk := { s.chk with pass := s.chk.pass.map Cursor.afterRemoval } }

/-- READ EVENT (R80). -/
def State.readEventCommand (s : State) : State :=
  match s.evq.records with
  | [] => s.empty .readEvent
  | r :: rest => (s.removeHead rest).done .readEvent (recordBytes r ++ beBytes 1 rest.length)

/-- READ CASCADE (R99). -/
def State.readCascadeCommand (s : State) : State :=
  match s.csu.list with
  | [] => s.empty .readCascade
  | c :: rest => ({ s with csu := { s.csu with list := rest } }).done .readCascade (cascadeData c rest.length)

/-- READ ROUND (R52). -/
def State.readRoundCommand (s : State) : State :=
  match s.clu.lastClosed with
  | none => s.empty .readRound
  | some r => s.done .readRound (roundData r)

/-- READ TALLY (R136). -/
def State.readTallyCommand (s : State) : State := s.done .readTally (tallyData s.tallies s.run.unusedHandovers)

/-- READ SHIFT (R137). -/
def State.readShiftCommand (position : Nat) (s : State) : State :=
  if 3 < position then s.refuse .readShift .range
  else match s.tallies.unitShifts[position]? with
    | none => s.empty .readShift
    | some u => s.done .readShift (unitShiftBytes u u.corrupt)

/-- A station shift record is COMPLETE. -/
def StationRecord.isComplete (x : StationRecord) : Bool := decide (x.status = .complete)

/-- READ STATION SHIFT: the oldest COMPLETE record is returned and removed (R160). -/
def State.readStationCommand (s : State) : State :=
  match s.shu.records.find? StationRecord.isComplete with
  | none => s.empty .readStationShift
  | some x =>
    let rest := s.shu.records.eraseP StationRecord.isComplete
    ({ s with shu := { s.shu with records := rest } }).done .readStationShift (stationData s.lif.nodeNumber x rest.length)

/-! ### Transactions -/

/-- The fixed argument length of a command (Table 12-7). -/
def CommandCode.arguments : CommandCode → Nat
  | .configure => 129
  | .setTime => 7
  | .presetTally => 30
  | .readShift => 1
  | .ackAttention => 2
  | .openNode | .acceptTally | .readStatus | .readEvent | .readCascade | .readRound | .readTally | .readStationShift => 0

/-- The thirteen command codes. -/
def allCommands : List CommandCode :=
  [.configure, .openNode, .setTime, .presetTally, .acceptTally, .readStatus, .readEvent, .readCascade, .readRound,
    .readTally, .readShift, .readStationShift, .ackAttention]

/-- The eight values of PRESET TALLY's arguments, sized 5, 5, 4, 3, 3, 3, 3, 4 (Table 12-7). -/
def readPreset (args : List Byte) : TallyFields where
  online := BitVec.ofNat 40 (fieldAt args 0 5)
  spinning := BitVec.ofNat 40 (fieldAt args 5 5)
  revolutions := BitVec.ofNat 32 (fieldAt args 10 4)
  starts := BitVec.ofNat 24 (fieldAt args 14 3)
  syncs := BitVec.ofNat 24 (fieldAt args 17 3)
  trips := BitVec.ofNat 24 (fieldAt args 20 3)
  normalStops := BitVec.ofNat 24 (fieldAt args 23 3)
  outage := BitVec.ofNat 32 (fieldAt args 26 4)

/-- The command of a code executed with its argument bytes. -/
def State.runCommand (s : State) (c : CommandCode) (args : List Byte) : State :=
  match c with
  | .configure => s.configure args
  | .openNode => s.openCommand
  | .setTime => s.setTimeCommand (BitVec.ofNat 16 (fieldAt args 0 2)) (fieldAt args 2 5)
  | .presetTally => s.presetCommand (readPreset args)
  | .acceptTally => s.acceptCommand false
  | .readStatus => s.readStatusCommand
  | .readEvent => s.readEventCommand
  | .readCascade => s.readCascadeCommand
  | .readRound => s.readRoundCommand
  | .readTally => s.readTallyCommand
  | .readShift => s.readShiftCommand (fieldAt args 0 1)
  | .readStationShift => s.readStationCommand
  | .ackAttention => s.ackCommand (BitVec.ofNat 16 (fieldAt args 0 2))

/-- A refusal that answers a code byte, whether it names a command or not (R173). -/
def State.refuseCode (s : State) (code : Byte) (r : Reason) : State := s.respond [0x02#8, code, r.byte]

/-- The transaction carried exactly two bytes plus the stated number of arguments, with no partial byte (R173). -/
def wellFramed (bytes : List Byte) (insideByte : Bool) : Bool :=
  match bytes with
  | _ :: len :: args => !insideByte && decide (args.length = len.toNat)
  | [] | [_] => false

/-- A command transaction examined as LSEL rises: framing, code, fixed length, execution (R173, log 21). -/
def State.examine (s : State) (code : Byte) (bytes : List Byte) (insideByte : Bool) : State :=
  if wellFramed bytes insideByte then
    match allCommands.find? fun c => c.byte == code with
    | none => s.refuseCode code .unknown
    | some c =>
      let args := bytes.drop 2
      if args.length = c.arguments then s.runCommand c args else s.refuseCode code .length
  else s.refuseCode code .length

/-- What the node shifts out, recorded from the second byte on (log 22). -/
def State.shiftOut (s : State) (bytes : List Byte) : State := { s with lpt := { s.lpt with lsdo := bytes } }

/-- Bytes clocked out of a response: past its end the read receives 00h (R187). -/
def clockedOut (response : List Byte) (clocked : Nat) : List Byte :=
  (response ++ List.replicate clocked 0x00#8).take clocked

/-- The NO COMMAND response; the byte of the command it answers is a free value (R174, R187, log 20). -/
def State.noCommand (s : State) : List Byte := [0x02#8, Config.noCommandCode s.free, Reason.noCommand.byte]

/-- A read transaction: BUSY while the port is busy, else the response buffer, else NO COMMAND (R173, R174, R175). -/
def State.readOut (s : State) (clocked : Nat) (busy : Bool) : State :=
  if busy || !s.portOpen then s.shiftOut (clockedOut [0x04#8] clocked)
  else match s.lpt.response with
    | some r => s.shiftOut (clockedOut r clocked)
    | none => { s.shiftOut (clockedOut s.noCommand clocked) with free := s.free + 1 }

/-- A transaction by its first byte: a read transaction, or a command transaction during which 00h goes out (R173, R175). -/
def State.transact (s : State) (bytes : List Byte) (insideByte whileExecuting : Bool) : State :=
  match bytes with
  | [] => s
  | code :: rest =>
    if code = 0x00#8 then s.readOut rest.length whileExecuting
    else
      let s1 := s.shiftOut (clockedOut [] rest.length)
      if whileExecuting || !s.portOpen then s1 else s1.examine code bytes insideByte

/-! ### The rows of the table -/

/-- CONFIGURE (R178). -/
def execConfigure (wait : Nat) (block : List Byte) (s : State) : Host.Outcome State Fault Refusal :=
  s.take wait fun s => s.viaPort (State.configure block)

/-- OPEN (R179). -/
def execOpenNode (wait : Nat) (s : State) : Host.Outcome State Fault Refusal :=
  s.take wait fun s => s.viaPort State.openCommand

/-- SET TIME (R51). -/
def execSetTime (wait : Nat) (day : Day) (us : BitVec 40) (s : State) : Host.Outcome State Fault Refusal :=
  s.take wait fun s => s.viaPort (State.setTimeCommand day us.toNat)

/-- PRESET TALLY (R129). -/
def execPresetTally (wait : Nat) (fields : TallyFields) (s : State) : Host.Outcome State Fault Refusal :=
  s.take wait fun s => s.viaPort (State.presetCommand fields)

/-- ACCEPT TALLY (R130). -/
def execAcceptTally (arrival : AcceptArrival) (s : State) : Host.Outcome State Fault Refusal :=
  s.take arrival.wait fun s => s.viaPort (State.acceptCommand arrival.finding)

/-- READ STATUS (R176). -/
def execReadStatus (wait : Nat) (s : State) : Host.Outcome State Fault Refusal :=
  s.take wait fun s => s.viaPort State.readStatusCommand

/-- READ EVENT (R80). -/
def execReadEvent (wait : Nat) (s : State) : Host.Outcome State Fault Refusal :=
  s.take wait fun s => s.viaPort State.readEventCommand

/-- READ CASCADE (R99). -/
def execReadCascade (wait : Nat) (s : State) : Host.Outcome State Fault Refusal :=
  s.take wait fun s => s.viaPort State.readCascadeCommand

/-- READ ROUND (R52). -/
def execReadRound (wait : Nat) (s : State) : Host.Outcome State Fault Refusal :=
  s.take wait fun s => s.viaPort State.readRoundCommand

/-- READ TALLY (R136). -/
def execReadTally (wait : Nat) (s : State) : Host.Outcome State Fault Refusal :=
  s.take wait fun s => s.viaPort State.readTallyCommand

/-- READ SHIFT (R137). -/
def execReadShift (wait : Nat) (position : Byte) (s : State) : Host.Outcome State Fault Refusal :=
  s.take wait fun s => s.viaPort (State.readShiftCommand position.toNat)

/-- READ STATION SHIFT (R160). -/
def execReadStationShift (wait : Nat) (s : State) : Host.Outcome State Fault Refusal :=
  s.take wait fun s => s.viaPort State.readStationCommand

/-- ACK ATTENTION (R181). -/
def execAckAttention (wait : Nat) (mask : BitVec 16) (s : State) : Host.Outcome State Fault Refusal :=
  s.take wait fun s => s.viaPort (State.ackCommand mask)

/-- COMMAND_TRANSACTION (R173, R175): the bytes clocked in on LSDI from the fall to the rise of LSEL. -/
def execCommandTransaction (wait : Nat) (bytes : List Byte) (insideByte whileExecuting : Bool) (s : State) :
    Host.Outcome State Fault Refusal :=
  s.take wait fun s => s.when s.portPowered (s.transact bytes insideByte whileExecuting)

/-- READ_TRANSACTION (R173 to R175): `clocked` is how many bytes follow the first one. -/
def execReadTransaction (wait : Nat) (clocked : Nat) (whileExecuting : Bool) (s : State) : Host.Outcome State Fault Refusal :=
  s.take wait fun s => s.when s.portPowered (s.readOut clocked whileExecuting)

end Sys2Proof.Machine
end

