-- ==== Sys2Proof/Machine/Speed.lean ====
section
/-! DEFINITION. The Speed Unit, the SPEED SILENT condition and the oscillator tenths (R108 to R117, R125). -/

namespace Sys2Proof.Machine

/-- The held edge of a phase. -/
def SpeedPhase.edge : SpeedPhase → Option Nat
  | .noEdge => none
  | .firstPeriod e | .measuring e => some e

/-- An edge is accepted: none is held, or it comes 20 µs or more after the last accepted one (R109). -/
def SpeedPhase.accepts (p : SpeedPhase) (now : Nat) : Bool :=
  match p.edge with
  | none => true
  | some e => decide (e + 20 ≤ now)

/-- The speed of a period, in tenths of an rpm, truncated (R110). -/
def speedOf (period pulsesPerRev : Nat) : Nat := 600000000 / (period * pulsesPerRev)

/-- Steps 1 and 2 of R109: the pulse counts, and a completed revolution to the tally of a unit node (R112, R113). -/
def State.countPulse (s : State) : State :=
  let n := s.spu.revPulses + 1
  let whole := decide (s.cfg.pulsesPerRev ≤ n)
  let s1 := { s with spu := { s.spu with pulsesNow := s.spu.pulsesNow + 1, revPulses := if whole then 0 else n } }
  if whole && s.cfg.unitRole then s1.changeTally Tally.addRevolution else s1

/-- Step 3 of R109: the edge under its phase, and a new speed to the Run Unit of a unit node (R110). -/
def State.phaseEdge (s : State) : State :=
  let now := s.time.elapsed
  match s.spu.phase with
  | .noEdge => { s with spu := { s.spu with phase := .firstPeriod now } }
  | .firstPeriod _ => { s with spu := { s.spu with phase := .measuring now } }
  | .measuring e =>
    let s1 := { s with spu := { s.spu with
      phase := .measuring now
      lastPeriod := some (now - e)
      speed := speedOf (now - e) s.cfg.pulsesPerRev } }
    if s.cfg.unitRole then s1.speedHanded else s1

/-- Steps 4 and 5 of R109: the silent mark cleared, which ends the SPEED SILENT timing, and the silence timer restarted. -/
def State.endSilence (s : State) : State :=
  ({ s with spu := { s.spu with silent := false, silenceSince := s.time.elapsed } }).timeSilence

/-- An accepted edge, in the order of R109. -/
def State.acceptEdge (s : State) : State := s.countPulse.phaseEdge.endSilence

/-- An edge on SPD in ACTIVE that the Speed Unit accepts (R108, R109). -/
def State.edgeAccepted (s : State) : Bool := s.active && s.spu.phase.accepts s.time.elapsed

/-- The silence timer has reached 2 s and no silence has been declared since the last accepted edge (R111). -/
def State.speedSilenceDue (s : State) : Bool :=
  s.active && !s.spu.silent && decide (s.spu.silenceSince + 2000000 ≤ s.time.elapsed)

/-- Silence declared: speed 0, no edge held, the mark set, and the speed 0 to the Run Unit of a unit node (R111, R117). -/
def State.declareSilence (s : State) : State :=
  let s1 := { s with spu := { s.spu with phase := .noEdge, speed := 0, silent := true } }
  if s.cfg.unitRole then s1.speedHanded.timeSilence else s1

/-- ONLINE and the silent mark have held together for 2 s and the condition has not begun (R117). -/
def State.silentDue (s : State) : Bool :=
  match s.run.silentSince with
  | none => false
  | some t => s.unitActive && !s.run.speedSilent && decide (t + 2000000 ≤ s.time.elapsed)

/-- The SPEED SILENT condition begins, with its record (R117). -/
def State.beginSpeedSilent (s : State) : State :=
  let s1 := s.requestNow .speedSilent 0 0
  { s1 with run := { s1.run with speedSilent := true } }

/-- The tenth in progress has ended (R125). -/
def State.tenthDue (s : State) : Bool := s.unitActive && decide (s.run.tenthStart + 100000 ≤ s.time.elapsed)

/-- A tenth credited to the run state in force; STANDSTILL adds nothing (R125). -/
def State.creditTenth (s : State) : State :=
  let s1 := { s with run := { s.run with tenthStart := s.run.tenthStart + 100000 } }
  match s.run.state with
  | .standstill => s1
  | .spinning | .online => s1.changeTally fun t => t.addTenth s.run.state

/-- SPD_EDGE (R109, R110). -/
def execSpdEdge (wait : Nat) (s : State) : Host.Outcome State Fault Refusal :=
  s.take wait fun s => s.when s.edgeAccepted s.acceptEdge

/-- SPEED_SILENCE (R111). -/
def execSpeedSilence (wait : Nat) (s : State) : Host.Outcome State Fault Refusal :=
  s.take wait fun s => s.when s.speedSilenceDue s.declareSilence

/-- SPEED_SILENT (R117). -/
def execSpeedSilent (wait : Nat) (s : State) : Host.Outcome State Fault Refusal :=
  s.take wait fun s => s.when s.silentDue s.beginSpeedSilent

/-- OSCILLATOR_TENTH (R125). -/
def execOscillatorTenth (wait : Nat) (s : State) : Host.Outcome State Fault Refusal :=
  s.take wait fun s => s.when s.tenthDue s.creditTenth

end Sys2Proof.Machine
end

