-- ==== Sys2Proof/Machine/Dispatch.lean ====
section
/-! DEFINITION. The dispatch: one arm per constructor of Instr. -/

namespace Sys2Proof.Machine

/-- The effect of a command on everything but the queue. -/
def exec (i : Instr) (s : State) : Host.Outcome State Fault Refusal :=
  match i with
  | .configure wait block => Sys2Proof.Machine.execConfigure wait block s
  | .openNode wait => Sys2Proof.Machine.execOpenNode wait s
  | .setTime wait day us => Sys2Proof.Machine.execSetTime wait day us s
  | .presetTally wait fields => Sys2Proof.Machine.execPresetTally wait fields s
  | .acceptTally arrival => Sys2Proof.Machine.execAcceptTally arrival s
  | .readStatus wait => Sys2Proof.Machine.execReadStatus wait s
  | .readEvent wait => Sys2Proof.Machine.execReadEvent wait s
  | .readCascade wait => Sys2Proof.Machine.execReadCascade wait s
  | .readRound wait => Sys2Proof.Machine.execReadRound wait s
  | .readTally wait => Sys2Proof.Machine.execReadTally wait s
  | .readShift wait position => Sys2Proof.Machine.execReadShift wait position s
  | .readStationShift wait => Sys2Proof.Machine.execReadStationShift wait s
  | .ackAttention wait mask => Sys2Proof.Machine.execAckAttention wait mask s
  | .commandTransaction wait bytes insideByte whileExecuting => Sys2Proof.Machine.execCommandTransaction wait bytes insideByte whileExecuting s
  | .readTransaction wait clocked whileExecuting => Sys2Proof.Machine.execReadTransaction wait clocked whileExecuting s
  | .startCondition wait => Sys2Proof.Machine.execStartCondition wait s
  | .lineIdle arrival => Sys2Proof.Machine.execLineIdle arrival s
  | .frameAbandoned arrival => Sys2Proof.Machine.execFrameAbandoned arrival s
  | .sendBegin wait => Sys2Proof.Machine.execSendBegin wait s
  | .contentionJoin wait => Sys2Proof.Machine.execContentionJoin wait s
  | .arbitrationLoss wait bit => Sys2Proof.Machine.execArbitrationLoss wait bit s
  | .driverFault wait bit => Sys2Proof.Machine.execDriverFault wait bit s
  | .attemptEnd wait heard => Sys2Proof.Machine.execAttemptEnd wait heard s
  | .frameReceivedIntact wait header body check => Sys2Proof.Machine.execFrameReceivedIntact wait header body check s
  | .checkError wait header body check stopped => Sys2Proof.Machine.execCheckError wait header body check stopped s
  | .formError wait cause => Sys2Proof.Machine.execFormError wait cause s
  | .lineStuck arrival => Sys2Proof.Machine.execLineStuck arrival s
  | .lineStuckLeft wait => Sys2Proof.Machine.execLineStuckLeft wait s
  | .oscillatorSecond wait => Sys2Proof.Machine.execOscillatorSecond wait s
  | .roundBoundary wait => Sys2Proof.Machine.execRoundBoundary wait s
  | .roundClose wait => Sys2Proof.Machine.execRoundClose wait s
  | .refsecEdge wait => Sys2Proof.Machine.execRefsecEdge wait s
  | .refsecSilence wait => Sys2Proof.Machine.execRefsecSilence wait s
  | .firstSample wait input high => Sys2Proof.Machine.execFirstSample wait input high s
  | .qualifiedChange wait input => Sys2Proof.Machine.execQualifiedChange wait input s
  | .chatterWindowExpiry wait input => Sys2Proof.Machine.execChatterWindowExpiry wait input s
  | .cascadeClose wait => Sys2Proof.Machine.execCascadeClose wait s
  | .stopDeadline wait => Sys2Proof.Machine.execStopDeadline wait s
  | .spdEdge wait => Sys2Proof.Machine.execSpdEdge wait s
  | .speedSilence wait => Sys2Proof.Machine.execSpeedSilence wait s
  | .speedSilent wait => Sys2Proof.Machine.execSpeedSilent wait s
  | .oscillatorTenth wait => Sys2Proof.Machine.execOscillatorTenth wait s
  | .shiftBoundaryReached wait => Sys2Proof.Machine.execShiftBoundaryReached wait s
  | .earlyMark wait => Sys2Proof.Machine.execEarlyMark wait s
  | .graceExpiry wait => Sys2Proof.Machine.execGraceExpiry wait s
  | .pairingTimeout wait => Sys2Proof.Machine.execPairingTimeout wait s
  | .gatherExpiry wait key => Sys2Proof.Machine.execGatherExpiry wait key s
  | .mainSupplyLoss arrival => Sys2Proof.Machine.execMainSupplyLoss arrival s
  | .backupSupplyLoss wait => Sys2Proof.Machine.execBackupSupplyLoss wait s
  | .mainSupplyReturn wait => Sys2Proof.Machine.execMainSupplyReturn wait s
  | .restoreWaitEnd wait id sp => Sys2Proof.Machine.execRestoreWaitEnd wait id sp s
  | .coldStart wait returned => Sys2Proof.Machine.execColdStart wait returned s
  | .rstnAssert arrival => Sys2Proof.Machine.execRstnAssert arrival s
  | .rstnRelease wait id sp => Sys2Proof.Machine.execRstnRelease wait id sp s
  | .storeCheckPassStart wait => Sys2Proof.Machine.execStoreCheckPassStart wait s
  | .storeCheckTest wait => Sys2Proof.Machine.execStoreCheckTest wait s
  | .storeCheckPassEnd wait => Sys2Proof.Machine.execStoreCheckPassEnd wait s
  | .lampBlinkPhase wait lamp => Sys2Proof.Machine.execLampBlinkPhase wait lamp s
  | .lampFlashEnd wait => Sys2Proof.Machine.execLampFlashEnd wait s
  | .sampleSlot wait levels => Sys2Proof.Machine.execSampleSlot wait levels s
  | .notAStart wait => Sys2Proof.Machine.execNotAStart wait s
  | .backupSupplyReturn wait => Sys2Proof.Machine.execBackupSupplyReturn wait s

end Sys2Proof.Machine
end

