-- ==== Sys2Proof/Machine/Tick.lean ====
section
/-! DEFINITION. What a step does on an empty queue: the time-driven steps of the table that are due now are queued; when
none is, one microsecond (in KEEP-ALIVE and RESTORING one backup cycle) passes, and those that have come due by then are
queued (log 1, log 3). -/

namespace Sys2Proof.Machine

/-- A command that is queued if its moment has come. -/
def ifDue (due : Bool) (c : Instr) : List Instr := if due then [c] else []

/-- The time-driven steps of the clock that are due (R28, R31, R32, R38, R47). -/
def State.dueClock (s : State) : List Instr :=
  ifDue s.secondDue (.oscillatorSecond 0) ++ ifDue s.ownBoundary.isSome (.roundBoundary 0)
    ++ ifDue s.closeDue.isSome (.roundClose 0) ++ ifDue s.silenceDue (.refsecSilence 0)

/-- The send that the own idle gap's end begins (R9). -/
def State.dueSend (s : State) : List Instr := ifDue s.maySend (.sendBegin 0)

/-- What a slot has left to be handled of one input: its first sample, or the change that its sample has qualified (R60,
R61, log 28). -/
def State.dueSample (s : State) (n : InputNo) : List Instr :=
  ((s.firstDue n).map fun c => Instr.firstSample 0 n (electricalOf (s.inputCfg n) c.1)).toList ++ ifDue (s.changeDue n).isSome (.qualifiedChange 0 n)

/-- The slot that is due, with the terminal levels as last presented (R56, log 5), and what slots have left to be handled. -/
def State.dueInputs (s : State) : List Instr :=
  ifDue s.slotDue (.sampleSlot 0 s.pins.inputs) ++ allInputs.flatMap s.dueSample

/-- The chatter windows that have expired (R69). -/
def State.dueWindows (s : State) : List Instr := (allInputs.filter s.windowDue).map fun n => .chatterWindowExpiry 0 n

/-- The time-driven steps of cascades, stops, speed and tenths that are due (R96, R102, R111, R117, R125). -/
def State.dueUnit (s : State) : List Instr :=
  ifDue s.cascadeDue.isSome (.cascadeClose 0) ++ ifDue s.deadlineDue.isSome (.stopDeadline 0)
    ++ ifDue s.speedSilenceDue (.speedSilence 0) ++ ifDue s.silentDue (.speedSilent 0) ++ ifDue s.tenthDue (.oscillatorTenth 0)

/-- The time-driven steps of the Shift Unit that are due (R140, R145, R147, R149, R159). -/
def State.dueShift (s : State) : List Instr :=
  ifDue s.boundaryKeyDue.isSome (.shiftBoundaryReached 0) ++ ifDue s.earlyDue (.earlyMark 0)
    ++ ifDue s.graceDue (.graceExpiry 0) ++ ifDue s.pairingDue (.pairingTimeout 0)
    ++ (s.shu.records.filter s.gatherDue).map fun r => .gatherExpiry 0 r.key

/-- A lamp whose half-period has elapsed (R183). -/
def State.dueLamp (s : State) (lamp : Lamp) : List Instr :=
  ifDue (s.working && ((s.atl.lamp lamp).phaseDue s.time.elapsed).isSome) (.lampBlinkPhase 0 lamp)

/-- The start of a store check pass, and the steps of the lamps and the supply that are due (R166, R170, R183). -/
def State.dueRest (s : State) : List Instr :=
  ifDue s.passDue (.storeCheckPassStart 0)
    ++ [Lamp.l0, .l1, .l2, .l3].flatMap s.dueLamp ++ ifDue s.flashOver (.lampFlashEnd 0)
    ++ ifDue s.restoreDue (.restoreWaitEnd 0 s.pins.id s.pins.sp)

/-- Every step that a moment of time gives and that is due. -/
def State.dueTimed (s : State) : List Instr :=
  s.dueClock ++ s.dueSend ++ s.dueInputs ++ s.dueWindows ++ s.dueUnit ++ s.dueShift ++ s.dueRest

/-- The next test of a store check pass, or its end: one for each tick (R170, log 25). -/
def State.dueCheck (s : State) : List Instr :=
  ifDue s.testDue.isSome (.storeCheckTest 0) ++ ifDue s.passOver (.storeCheckPassEnd 0)

/-- Steps that come due together in an order that free values choose (log 3). -/
def orderDue : Nat → List Instr → List Instr
  | _, [] => []
  | _, [c] => [c]
  | free, c :: d :: cs =>
    (orderDue (free + 1) (d :: cs)).insertIdx (Config.tiePlace free % (cs.length + 2)) c

/-- How many free values the order of n due steps takes. -/
def tiesOf (n : Nat) : Nat := n - 1

/-- Due steps put into the queue, in an order that free values choose (log 3). -/
def State.queueDue (s : State) (due : List Instr) : State :=
  { s with pending := orderDue s.free due, free := s.free + tiesOf due.length }

/-- A step on an empty queue: what is due now, or else one unit of time and what has come due by then (log 1). What a slot leaves
to be handled comes due only once SAMPLE_SLOT has run, so that every other row of the same moment (a window's expiry, CASCADE_CLOSE,
STOP_DEADLINE, SPEED_SILENCE, PAIRING_TIMEOUT and the others that `State.dueTimed` lists) goes before the first sample or the
qualified change: one of the two orders of R69, R96, R105, R115, R120 and R149, and the model's choice (log 3). -/
def State.tick (s : State) : State :=
  if s.dueTimed.isEmpty then
    let s1 := s.after 1
    s1.queueDue (s1.dueTimed ++ s1.dueCheck)
  else s.queueDue s.dueTimed

end Sys2Proof.Machine
end

