-- ==== Sys2Proof/Machine/Step.lean ====
section
/-! DEFINITION. One step of the node: the command at the front of the queue, or a tick when none waits (log 1). -/

namespace Sys2Proof.Machine

/-- One step: the front command's effect with the queue's rest; on an empty queue a tick (log 1). -/
def step (s : State) : Host.Outcome State Fault Refusal :=
  match s.pending with
  | [] => .next s.tick
  | c :: rest => exec c { s with pending := rest }

/-- The state with the command a word spells put at the front of its queue; unchanged where it spells none (log 6). -/
def State.withFetchWord (s : State) (nbits w : Nat) : State :=
  match decodeTableWord nbits w with
  | none => s
  | some c => { s with pending := c :: s.pending }

end Sys2Proof.Machine
end

