-- ==== Sys2Proof/Safety.lean ====
section
/-! DEFINITION. What the statements about the node are made of: when an outcome goes on, and the conditions that
every step keeps. -/

namespace Sys2Proof.Machine

/-- An outcome that is a next state with a property: neither a fault nor a refusal. -/
def Goes (o : Host.Outcome State Fault Refusal) (p : State → Prop) : Prop := ∃ t, o = .next t ∧ p t

/-- A condition that every step keeps: from a state that has it, a step that answers a next state answers one that
has it (so for a command at the front of the queue and for a tick). -/
def Kept (p : State → Prop) : Prop := ∀ s t, p s → step s = .next t → p t

/-- The attention outputs follow flags, enable mask and maps; while the main domain does not work both are released
and every flag is clear (R180, R182). -/
def State.outputsFollow (s : State) : Prop :=
  if s.working then
    s.atl.attnALow = attnALowOf s.atl.flags s.cfg ∧ s.atl.attnBLow = attnBLowOf s.atl.flags s.cfg
  else s.atl.attnALow = false ∧ s.atl.attnBLow = false ∧ s.atl.flags = 0

/-- A level source whose condition holds has its flag set (R180). -/
def State.levelsSet (s : State) : Prop :=
  s.working = true → s.atl.flags &&& s.levelMarks = s.levelMarks

/-- A lamp is lit as its pattern has it: OFF unlit, STEADY and FLASH lit, a blink lit and unlit in turn (Table 11-2). -/
def LampState.litByPattern (l : LampState) : Prop :=
  match l.pattern with
  | .off => l.lit = false
  | .steady | .flash => l.lit = true
  | .slowBlink | .fastBlink => True

/-- Each lamp has the pattern that Table 11-3 selects, and every lamp is off while the main domain does not work; and the
output is lit as the pattern has it (R183). -/
def State.lampsFollow (s : State) : Prop :=
  (if s.working then
    s.atl.lamp0.pattern = lamp0Pattern s ∧ s.atl.lamp1.pattern = lamp1Pattern s
      ∧ s.atl.lamp2.pattern = lamp2Pattern s ∧ s.atl.lamp3.pattern = lamp3Pattern s s.atl.flags
  else ∀ lamp, (s.atl.lamp lamp).pattern = .off)
    ∧ ∀ lamp, (s.atl.lamp lamp).litByPattern

/-- Attention and Lamps shows the state. -/
def State.attends (s : State) : Prop := s.outputsFollow ∧ s.levelsSet ∧ s.lampsFollow

/-- At most 256 records are held, and a 256th is an OVERFLOW record at the tail (R77, R78). -/
def Evq.sound (q : Evq) : Prop :=
  q.records.length ≤ 256 ∧ (q.records.length = 256 → q.openOverflow.isSome = true)

/-- The sequence number that the record after r carries, modulo 65,536: one more than r's, or past the records lost into r
if r is an OVERFLOW record (R75). -/
def seqAfter (r : Record) : BitVec 16 :=
  if r.isOverflow then r.seq + r.lostCount.truncate 16 else r.seq + 1

/-- Records that stand next to each other carry sequence numbers that follow on, and the next sequence number follows the
tail (R75). -/
def seqChain : List Record → BitVec 16 → Prop
  | [], _ => True
  | [r], next => next = seqAfter r
  | r :: x :: rest, next => x.seq = seqAfter r ∧ seqChain (x :: rest) next

/-- The queue's sequence numbers account for every record taken (R75). -/
def Evq.chained (q : Evq) : Prop := seqChain q.records q.nextSeq

/-- Node state, configuration, clock state and run state fit together: a configuration is held outside UNCONFIGURED only
and there always (R176, R178); the clock state is SOLO exactly while the node is not ACTIVE (Table 2-1); outside ACTIVE the
run state is STANDSTILL with no stop waiting (R114); of an ONLINE run state and a waiting stop at most one holds
(R119, R121); and while the main domain does not work the node is UNCONFIGURED (R163, R168, R169). -/
def State.coherent (s : State) : Prop :=
  (s.lpt.config = none ↔ s.lpt.nodeState = .unconfigured)
    ∧ (s.clu.state = .solo ↔ s.lpt.nodeState ≠ .active)
    ∧ (s.lpt.nodeState ≠ .active → s.run.state = .standstill ∧ s.run.stop = none)
    ∧ (s.run.state = .online → s.run.stop = none)
    ∧ (s.working = false → s.lpt.nodeState = .unconfigured)

/-- The one waiting stop or online run that the sync count is ahead by (R126). -/
def State.openRun (s : State) : Nat := if s.run.state = .online ∨ s.run.stop.isSome = true then 1 else 0

/-- Unless the tally is SATURATED, syncs equal trips plus normal stops plus the one waiting stop or online run (R126). -/
def State.balanced (s : State) : Prop :=
  s.tallies.tally.saturated = false →
    s.tallies.tally.fields.syncs.toNat
      = s.tallies.tally.fields.trips.toNat + s.tallies.tally.fields.normalStops.toNat + s.openRun

/-- A station shift record's entries stand in node-number order, with one entry at most for a node (R158, R160, Table 8-5). -/
def StationRecord.ordered (r : StationRecord) : Prop := r.entries.Pairwise fun x y => x.node < y.node

/-- A round table's entries stand in node-number order, with one entry at most for a node (R35). -/
def Round.ordered (r : Round) : Prop := r.entries.Pairwise fun x y => x.node < y.node

/-- The node's lists hold no more than their rules give them: send list (R20), open and closed cascades (R92, R98), unit
shift list (R132), station shift list (R157); and the entries of station shift records and of the round table stand in
node-number order, one at most for a node (R35, R158). -/
def State.bounded (s : State) : Prop :=
  (s.lif.sendList.filter fun f => !f.isMark).length ≤ 7
    ∧ (s.lif.sendList.filter QueuedFrame.isMark).length ≤ 1
    ∧ s.csu.list.length ≤ 4
    ∧ (∀ c ∈ s.csu.list, c.members.length ≤ 24)
    ∧ (∀ o, s.csu.current = some o → o.cascade.members.length ≤ 24)
    ∧ s.tallies.unitShifts.length ≤ 4
    ∧ s.shu.records.length ≤ 8
    ∧ (∀ r ∈ s.shu.records, r.ordered)
    ∧ (∀ r, s.clu.round = some r → r.ordered)

/-! ### What is due -/

/-- The time-driven steps that are due in a state, each with its condition spelled out; `wait` is 0, and the steps of pins
carry the levels as last presented (log 1, log 5). -/
def State.comesDue (s : State) (c : Instr) : Prop :=
  let now := s.time.elapsed
  match c with
  | .oscillatorSecond w => w = 0 ∧ s.working = true ∧ s.time.secondStart + 1000000 ≤ now
  | .roundBoundary w => w = 0 ∧ s.active = true ∧ s.clu.state ≠ .solo ∧ ∃ k, s.time.boundaryDue = some k
  | .roundClose w =>
    w = 0 ∧ s.active = true ∧ ∃ r, s.clu.round = some r ∧ 400000 ≤ s.clock.date.minus ⟨r.key.day, r.key.second * 1000000⟩
  | .refsecSilence w => w = 0 ∧ s.working = true ∧ s.clu.refMark + 1500000 ≤ now
  | .sendBegin w =>
    w = 0 ∧ s.active = true ∧ s.lif.view = .idle ∧ s.lif.send = none ∧ s.lif.sendList ≠ []
      ∧ s.lif.highFrom + 8 * (10 + s.lif.lineSpeed.toNat) ≤ now
  | .sampleSlot w levels => w = 0 ∧ levels = s.pins.inputs ∧ s.active = true ∧ s.isc.nextSlotAt ≤ now
  | .firstSample w n high =>
    w = 0 ∧ s.active = true ∧ ∃ stamp, (s.input n).owed = .first (high == (s.inputCfg n).activeHigh) stamp
  | .qualifiedChange w n =>
    w = 0 ∧ s.active = true ∧ ∃ first level, (s.input n).owed = .change first ∧ (s.input n).level = some level
  | .chatterWindowExpiry w n =>
    w = 0 ∧ s.active = true ∧ ∃ expiry, expiry ≤ now
      ∧ ((∃ count, (s.input n).chatter = .counting expiry count)
        ∨ ∃ suppressed last, (s.input n).chatter = .locked expiry suppressed last)
  | .cascadeClose w => w = 0 ∧ s.active = true ∧ ∃ o, s.csu.current = some o ∧ o.closeAt ≤ now
  | .stopDeadline w =>
    w = 0 ∧ s.active = true ∧ ∃ x deadline, s.run.stop = some x ∧ x.phase = .waiting deadline ∧ deadline ≤ now
  | .speedSilence w => w = 0 ∧ s.active = true ∧ s.spu.silent = false ∧ s.spu.silenceSince + 2000000 ≤ now
  | .speedSilent w =>
    w = 0 ∧ s.active = true ∧ s.cfg.unitRole = true ∧ s.run.speedSilent = false
      ∧ ∃ since, s.run.silentSince = some since ∧ since + 2000000 ≤ now
  | .oscillatorTenth w => w = 0 ∧ s.active = true ∧ s.cfg.unitRole = true ∧ s.run.tenthStart + 100000 ≤ now
  | .shiftBoundaryReached w =>
    w = 0 ∧ s.active = true ∧ s.clock.valid = true
      ∧ ∃ k c, s.shu.lastReached = some k ∧ s.shu.keyDue = some c ∧ c.later k = true
  | .earlyMark w =>
    w = 0 ∧ s.active = true ∧ s.cfg.postRole = true ∧ s.clock.valid = true ∧ s.shu.mode = .onWatch
      ∧ ∃ k, s.target = some k ∧ k.laterThan s.lastAccepted = true
        ∧ s.clock.date.earlier ((boundaryTime s.cfg.boundaries k).plus (-((s.cfg.earlyMin * 60000000 : Nat) : Int))) = false
        ∧ s.clock.date.earlier (boundaryTime s.cfg.boundaries k) = true
  | .graceExpiry w =>
    w = 0 ∧ s.active = true ∧ s.cfg.postRole = true ∧ s.shu.mode = .due
      ∧ ∃ timer, s.shu.grace = some timer ∧ ((s.cfg.graceMin * 60000000 : Nat) : Int) ≤ timer.base + ((now - timer.since : Nat) : Int)
  | .pairingTimeout w =>
    w = 0 ∧ s.active = true ∧ s.cfg.postRole = true
      ∧ ∃ p, s.shu.held = some p ∧ p.since + s.cfg.pairingS * 1000000 ≤ now
  | .gatherExpiry w k =>
    w = 0 ∧ s.active = true ∧ s.cfg.postRole = true
      ∧ ∃ r ∈ s.shu.records, r.key = k ∧ r.status = .gathering ∧ r.gatherSince + s.cfg.gatherS * 1000000 ≤ now
  | .storeCheckPassStart w => w = 0 ∧ s.active = true ∧ s.chk.pass = none ∧ s.chk.passStart + 10000000 ≤ now
  | .lampBlinkPhase w lamp =>
    w = 0 ∧ s.working = true
      ∧ (((s.atl.lamp lamp).pattern = .slowBlink ∧ (s.atl.lamp lamp).since + 500000 ≤ now)
        ∨ ((s.atl.lamp lamp).pattern = .fastBlink ∧ (s.atl.lamp lamp).since + 125000 ≤ now))
  | .lampFlashEnd w => w = 0 ∧ s.working = true ∧ ∃ t, s.atl.flashUntil = some t ∧ t ≤ now
  | .restoreWaitEnd w id sp =>
    w = 0 ∧ id = s.pins.id ∧ sp = s.pins.sp ∧ s.sup.state = .restoring ∧ 65536 ≤ 125 * s.sup.restoreCycles
  | _ => False

/-- The step of a store check pass that a tick adds: the test of the record at the pass's place, or the end of the pass
where no record is left (log 25). -/
def State.checkComes (s : State) (c : Instr) : Prop :=
  match c with
  | .storeCheckTest w => w = 0 ∧ s.working = true ∧ ∃ p q, s.chk.pass = some p ∧ s.testPlace p = some q
  | .storeCheckPassEnd w => w = 0 ∧ s.working = true ∧ ∃ p, s.chk.pass = some p ∧ s.testPlace p = none
  | _ => False

end Sys2Proof.Machine
end

