-- ==== Sys2Proof/Certificates/Slice0/Obligations.lean ====
section
/-! DEFINITION. The statements about the node, one Prop each. In all of them `a` is the state in which a command takes
its effect: the state before it after the command's wait (log 1); and every command ends with `finish`, which changes
Attention and Lamps alone (`Obligations.TimePasses`). -/

open Sys2Proof Sys2Proof.Machine

/-! ### Steps, waits, reset -/

/-- A step with a command at the front of the queue is that command's effect on the state with the queue's rest. -/
def Obligations.FrontCommandRuns : Prop :=
  ∀ (c : Instr) (rest : List Instr) (s : State),
    step { s with pending := c :: rest } = exec c { s with pending := rest }

/-- A step on an empty queue. Which time-driven steps are due is said row by row in `State.comesDue`, and which step a store check
pass adds in `State.checkComes`. If any is due, no time passes and they are queued; if none is, one microsecond (one backup
cycle) passes and those that have come due by then are queued, with the step of a pass in progress; nothing else changes. The
order in the queue is one that free values choose. (The unit of time, and due steps before time, are the model's choice of log
1, the free order of log 3; one test of a pass for each tick is the model's choice of log 25. In `State.comesDue` the pins as last
presented are log 5, the 125 main cycles for a backup cycle log 9, the moment since which the wires are high log 19, what slots leave
to the other sampling rows log 28, R145 with no last accepted key log 45, a shift boundary still to be taken log 48.) -/
def Obligations.EmptyQueueTicks : Prop :=
  ∀ s : State,
    (∀ c, c ∈ s.dueTimed ↔ s.comesDue c)
      ∧ (∀ c, c ∈ s.dueCheck ↔ s.checkComes c)
      ∧ (s.pending = [] → s.dueTimed ≠ [] →
          ∃ t, step s = .next t ∧ t.pending.Perm s.dueTimed ∧ t = { s with pending := t.pending, free := t.free })
      ∧ (s.pending = [] → s.dueTimed = [] →
          ∃ t, step s = .next t ∧ t.pending.Perm ((s.after 1).dueTimed ++ (s.after 1).dueCheck)
            ∧ t = { s.after 1 with pending := t.pending, free := t.free })

/-- Every command answers a next state, with whatever operands and in whatever state, and leaves the queue as it is. (That a row
whose condition does not hold, or whose operands are ill-formed, still answers a next state is the model's choice of logs 2
and 30.) -/
def Obligations.EveryCommandGoesOn : Prop :=
  ∀ (c : Instr) (s : State), Goes (exec c s) fun t => t.pending = s.pending

/-- The passing of time. In RUN, on the main oscillator: the elapsed time; the clock, by the microseconds and by the points of the
slew in progress that fall into them, the k-th where k/|amount| of the oscillator second has passed (log 7); the second the clock
has come to; a send's clock, from the high half on; the shift boundary come to; and nothing else. In KEEP-ALIVE and RESTORING, on
the backup oscillator: the clock, the place in its run, the wait in backup cycles (log 9) and, unless the fresh mark is set (log
24), the outage timer; in OFF nothing. The n-th cycle of a backup run adds the integer part of n × 1,000,000 ÷ 32,768 minus that
of (n − 1) × 1,000,000 ÷ 32,768, 30 or 31 µs. `finish`, which ends a command, changes Attention and Lamps alone. (The place of a
point, the wait counted in backup cycles, the timer standing with the fresh mark, and a shift boundary kept, or several taken one
after another, until the row is taken are the model's: logs 7, 9, 24, 48.) -/
def Obligations.TimePasses : Prop :=
  (∀ (s : State) (n : Nat),
    let t := s.after n
    s.finish = { s with atl := s.finish.atl }
      ∧ t.clock.valid = s.clock.valid
      ∧ match s.sup.state with
        | .run =>
          let now := s.time.elapsed + n
          let points := s.time.spread.natAbs * min (now - s.time.secondStart) 1000000 / 1000000
          let advance : Int := (n : Int) + s.time.spread.sign * ((points : Int) - (s.time.spreadDone : Int))
          t = { s with
            time := { s.time with elapsed := now, spreadDone := points, boundaryDue := t.time.boundaryDue }
            clock := { s.clock with date := s.clock.date.plus advance }
            lif := { s.lif with lclkDriven := t.lif.lclkDriven }
            shu := { s.shu with keyDue := t.shu.keyDue } }
            ∧ (t.clock.date.day = s.clock.date.day → t.clock.date.second = s.clock.date.second →
                t.time.boundaryDue = s.time.boundaryDue)
            ∧ ((t.clock.date.day ≠ s.clock.date.day ∨ t.clock.date.second ≠ s.clock.date.second) →
                t.time.boundaryDue = some ⟨t.clock.date.day, t.clock.date.second⟩)
            ∧ (t.lif.lclkDriven = true ↔ s.lif.lclkDriven = true
                ∨ ∃ snd, s.lif.send = some snd ∧ snd.start.osc + (10 + s.lif.lineSpeed.toNat) ≤ now)
            ∧ (s.active = false ∨ s.clock.valid = false ∨ s.shu.lastReached = none → t.shu.keyDue = none)
            ∧ (∀ k, s.active = true → s.clock.valid = true → s.shu.lastReached = some k →
                let ahead := (boundaryTime s.cfg.boundaries (nextKey s.cfg.boundaries k)).minus s.clock.date
                (s.shu.keyDue.isSome = true ∨ (0 < ahead ∧ ahead ≤ advance) →
                  t.shu.keyDue = some (latestKeyAt s.cfg.boundaries t.clock.date))
                  ∧ (s.shu.keyDue = none → ¬ (0 < ahead ∧ ahead ≤ advance) → t.shu.keyDue = none))
        | .keepAlive | .restoring =>
          t.clock.date = s.clock.date.plus (backupUs s.sup.backupPhase n : Nat)
            ∧ t = { s with
              clock := t.clock
              sup := { s.sup with
                backupPhase := (s.sup.backupPhase + n) % 32768
                outageUs := if s.sup.freshMark then s.sup.outageUs else s.sup.outageUs + backupUs s.sup.backupPhase n
                restoreCycles := if s.sup.state = .restoring then s.sup.restoreCycles + n else s.sup.restoreCycles } }
        | .off => t = s)
    ∧ (∀ k, k < 32768 →
        backupUs k 1 = (k + 1) * 1000000 / 32768 - k * 1000000 / 32768 ∧ (backupUs k 1 = 30 ∨ backupUs k 1 = 31))
    ∧ backupUs 0 32768 = 1000000

/-- What a cold start leaves (Tables 1-7, 2-5, 3-7, 4-3, 5-5, 6-4, 7-2, 8-6, 9-4): each block's registers, counters, lists
and flags at the values the tables give, no response and no configuration, no attention flag and both attention outputs released, as the Local Port and
Attention and Lamps have them. (That `State.reset` is the machine right after a cold start's end, in RUN and UNCONFIGURED, is the
model's choice of log 4.) -/
def Obligations.ResetLeaves : Prop :=
  let s := State.reset
  s.clock = ⟨⟨0, 0⟩, false⟩
    ∧ (s.lif.lclkDriven = false ∧ s.lif.ldatDriven = false ∧ s.lif.view = .quiet ∧ s.lif.sendList = []
      ∧ s.lif.counters = ⟨0, 0, 0, 0, 0, 0, 0⟩)
    ∧ (s.clu.state = .solo ∧ s.clu.p = 0 ∧ s.clu.round = none ∧ s.clu.lastClosed = none ∧ s.clu.lastKey = none
      ∧ s.clu.startList = Vector.replicate 16 none ∧ s.clu.formation = 0 ∧ s.clu.short = 0 ∧ s.clu.outlier = 0
      ∧ s.clu.split = 0 ∧ s.clu.latestForeign = none ∧ s.clu.monitor = .searching 0)
    ∧ (∀ n : InputNo, s.input n = ⟨none, 0, none, .quiet, .none⟩)
    ∧ (s.evq.records = [] ∧ s.evq.nextSeq = 0)
    ∧ (s.csu.current = none ∧ s.csu.slot = none ∧ s.csu.list = [] ∧ s.csu.stray = 0 ∧ s.csu.lost = 0)
    ∧ (s.spu.phase = .noEdge ∧ s.spu.speed = 0 ∧ s.spu.lastPeriod = none ∧ s.spu.silent = false ∧ s.spu.pulsesNow = 0
      ∧ s.spu.pulsesLast = 0 ∧ s.spu.revPulses = 0)
    ∧ (s.run.state = .standstill ∧ s.run.breakerClosed = false ∧ s.run.turning = false ∧ s.run.stop = none
      ∧ s.run.speedSilent = false ∧ s.run.unusedHandovers = 0)
    ∧ (s.tallies.tally.fields = ⟨0, 0, 0, 0, 0, 0, 0, 0⟩ ∧ s.tallies.tally.blank = true ∧ s.tallies.tally.suspect = false
      ∧ s.tallies.tally.saturated = false ∧ s.tallies.tally.check = tallyCheck s.tallies.tally
      ∧ s.tallies.baseline = Baseline.of ⟨0, 0, 0, 0, 0, 0⟩ ∧ s.tallies.unitShifts = [] ∧ s.tallies.lastClosed = none)
    ∧ (s.shu.mode = .onWatch ∧ s.shu.held = none ∧ s.shu.heldResult = none ∧ s.shu.records = [] ∧ s.shu.lastCreated = none
      ∧ s.shu.lastReached = none ∧ s.lastAccepted = none
      ∧ s.shu.unused = 0 ∧ s.shu.unmatched = 0 ∧ s.shu.repeated = 0 ∧ s.shu.lostRecords = 0)
    ∧ (s.sup.state = .run ∧ s.sup.outageUs = 0 ∧ s.sup.creditMark = false ∧ s.sup.freshMark = false
      ∧ s.sup.nodeStateAtReset = .unconfigured ∧ s.sup.firstFailure = none ∧ s.sup.failureOverflow = false ∧ s.chk.passes = 0)
    ∧ (s.lpt.nodeState = .unconfigured ∧ s.lpt.config = none ∧ s.lpt.response = none)
    ∧ (s.atl.flags = 0 ∧ s.atl.attnALow = false ∧ s.atl.attnBLow = false)

/-- The conditions that the invariants below say every step keeps hold at reset. -/
def Obligations.InvariantsHoldAtReset : Prop :=
  State.reset.attends ∧ State.reset.evq.sound ∧ State.reset.evq.chained ∧ State.reset.coherent ∧ State.reset.balanced
    ∧ State.reset.bounded

/-! ### Invariants that every step keeps -/

/-- Attention and Lamps follows the state through every step: the outputs follow flags and masks, level flags stand while
their conditions hold, each lamp has its pattern and is lit as the pattern has it: OFF unlit, STEADY and FLASH lit; and while the
main domain does not work, outputs, flags and lamps are off. -/
def Obligations.AttentionAlwaysFollows : Prop := Kept State.attends

/-- The sequence numbers in the Event Queue account for every record taken, stored or lost. -/
def Obligations.SequenceNumbersAccount : Prop := Kept fun s => s.evq.sound ∧ s.evq.chained

/-- The sync count equals trips plus normal stops plus the one waiting stop or online run, unless the tally is SATURATED. -/
def Obligations.SyncsBalance : Prop := Kept fun s => s.coherent ∧ s.balanced

/-- Send list, cascades, unit shift list and station shift list keep within their places, and the entries of the station shift
records and of the round table stand in node-number order, one at most for a node. -/
def Obligations.ListsStayBounded : Prop := Kept State.bounded

/-! ### The Event Queue -/

/-- A record request takes the next sequence number and is placed: appended below 255 records; at 255 with an ordinary tail,
or above, lost into a new OVERFLOW record that takes the lost record's number and date, lost count 1, offset 0, with the EVENT
OVERFLOW flag; into an open OVERFLOW record at the tail, whose lost count rises by one. Nothing else of the state changes. -/
def Obligations.RecordRequestIsPlaced : Prop :=
  ∀ (s : State) (kind : RecordKind) (stamp : Stamp) (a : Nat) (b : BitVec 32),
    let r := s.evq.recordFor kind stamp (BitVec.ofNat 8 a) b
    let t := s.request kind stamp a b
    r.seq = s.evq.nextSeq ∧ r.kind = kind ∧ r.stamp = stamp ∧ r.detailA = BitVec.ofNat 8 a ∧ r.detailB = b
      ∧ r.corrupt = false ∧ r.check = recordCheck r
      ∧ t.evq.nextSeq = s.evq.nextSeq + 1
      ∧ t = { s with evq := t.evq, atl := { s.atl with flags := t.atl.flags } }
      ∧ (s.evq.records.length < 255 → t.evq.records = s.evq.records ++ [r] ∧ t.atl.flags = s.atl.flags)
      ∧ (255 ≤ s.evq.records.length → s.evq.openOverflow = none →
          ∃ o, t.evq.records = s.evq.records ++ [o] ∧ o.kind = .overflow ∧ o.seq = r.seq ∧ o.stamp = stamp ∧ o.lostCount = 1
            ∧ o.detailB.extractLsb' 0 16 = 0 ∧ o.corrupt = false ∧ o.check = recordCheck o
            ∧ t.atl.flags = s.atl.flags ||| Source.eventOverflow.mark)
      ∧ (∀ o, 255 ≤ s.evq.records.length → s.evq.openOverflow = some o →
          ∃ u, t.evq.records = s.evq.records.dropLast ++ [u] ∧ u.kind = .overflow ∧ u.seq = o.seq ∧ u.stamp = o.stamp
            ∧ u.lostCount = o.lostCount + 1 ∧ u.detailB.extractLsb' 0 16 = lossOffset o.stamp.date stamp.date
            ∧ u.corrupt = o.corrupt ∧ u.check = recordCheck u ∧ t.atl.flags = s.atl.flags)

/-! ### Local Port commands -/

/-- CONFIGURE. In UNCONFIGURED with a block of 129 bytes none of whose fields fails, the configuration is taken whole, the node
state becomes CONFIGURED, the response is DONE, and nothing else changes. Refused: LENGTH for a block of another length, ALREADY
CONFIGURED in CONFIGURED, STATE in ACTIVE, FIELD with the first failing field's number; then the answer is all that changes.
Content: where each field of a block lies; the test of each field (its range, and the cross-checks of fields 16, 18 to 23, the
roles and field 120); that the first failing field is the lowest; and the field of the configuration that each gives. -/
def Obligations.ConfigureAnswers : Prop :=
  (∀ (w : Nat) (block : List Byte) (s : State),
    let a := s.after w
    let answers (bytes : List Byte) : Prop :=
      exec (.configure w block) s = .next ({ a with lpt := { a.lpt with response := some bytes } }).finish
    a.portOpen = true →
      (a.lpt.nodeState = .unconfigured → block.length = 129 → firstFailing (valuesOf block) = none →
        exec (.configure w block) s = .next ({ a with lpt := { a.lpt with
          nodeState := .configured
          config := some (configOf (valuesOf block))
          response := some [0x01#8, 0x01#8] } }).finish)
        ∧ (block.length ≠ 129 → answers [0x02#8, 0x01#8, 0x07#8])
        ∧ (block.length = 129 → a.lpt.nodeState = .configured → answers [0x02#8, 0x01#8, 0x02#8])
        ∧ (block.length = 129 → a.lpt.nodeState = .active → answers [0x02#8, 0x01#8, 0x01#8])
        ∧ (∀ n, block.length = 129 → a.lpt.nodeState = .unconfigured → firstFailing (valuesOf block) = some n →
            answers [0x02#8, 0x01#8, 0x04#8, BitVec.ofNat 8 n]))
    ∧ (∀ block : List Byte,
      let v := valuesOf block
      (∀ x ∈ [(1, 0, 1), (2, 1, 1), (3, 2, 1), (4, 3, 2), (5, 5, 1), (6, 6, 1), (7, 7, 1), (8, 8, 2), (9, 10, 2), (10, 12, 1),
          (11, 13, 1), (12, 14, 2), (13, 16, 2), (14, 18, 1), (15, 19, 2), (16, 21, 2), (17, 23, 1), (18, 24, 2), (19, 26, 2),
          (20, 28, 2), (21, 30, 2), (22, 32, 2), (23, 34, 2), (24, 36, 1), (25, 37, 1), (26, 38, 2), (27, 40, 1), (28, 41, 2),
          (29, 43, 2), (30, 45, 2), (31, 47, 2)],
        v x.1 = fieldAt block x.2.1 x.2.2)
        ∧ ∀ j, j < 80 → v (40 + j) = fieldAt block (49 + j) 1)
    ∧ (∀ v : Nat → Nat,
      (∀ x ∈ [(1, 0, 3), (2, 2, 8), (3, 2, 8), (5, 3, 15), (6, 0, 3), (7, 1, 16), (8, 50, 20000), (9, 10, 1000), (10, 1, 15),
          (11, 3, 30), (14, 1, 64), (15, 1, 65534), (17, 1, 6), (24, 0, 30), (25, 1, 120), (26, 10, 300), (27, 10, 255)],
        fieldPasses v x.1 = true ↔ x.2.1 ≤ v x.1 ∧ v x.1 ≤ x.2.2)
        ∧ (∀ x ∈ [(4, 10, 50, 2550), (12, 100, 100, 10000), (13, 100, 100, 2000)],
            fieldPasses v x.1 = true ↔ x.2.2.1 ≤ v x.1 ∧ v x.1 ≤ x.2.2.2 ∧ x.2.1 ∣ v x.1)
        ∧ (fieldPasses v 16 = true ↔ 2 ≤ v 16 ∧ v 16 ≤ 65535 ∧ v 15 < v 16)
        ∧ (∀ i, i < 6 → (fieldPasses v (18 + i) = true ↔
            v 17 ≤ i ∨ (v (18 + i) ≤ 1439 ∧ (i = 0 ∨ v (17 + i) < v (18 + i)))))
        ∧ (∀ n ∈ [28, 29, 30, 31], fieldPasses v n = true)
        ∧ (∀ i, i < 16 →
            (∀ j ∈ [0, 2, 3], fieldPasses v (40 + 5 * i + j) = true ↔ v (40 + 5 * i + j) ≤ 1)
              ∧ (fieldPasses v (41 + 5 * i) = true ↔ v (41 + 5 * i) ≤ 3)
              ∧ (fieldPasses v (44 + 5 * i) = true ↔ v (44 + 5 * i) = 0
                  ∨ ((v (44 + 5 * i) = 1 ∧ v 1 % 2 = 1 ∨ v (44 + 5 * i) = 2 ∧ 2 ≤ v 1 ∨ v (44 + 5 * i) = 3 ∧ 2 ≤ v 1)
                    ∧ ∀ j, j < i → v (44 + 5 * j) ≠ v (44 + 5 * i))))
        ∧ (fieldPasses v 120 = true ↔
            v 1 < 2 ∨ ((∃ i, i < 16 ∧ v (44 + 5 * i) = 2) ∧ ∃ i, i < 16 ∧ v (44 + 5 * i) = 3))
        ∧ (∀ n, firstFailing v = some n ↔
            (1 ≤ n ∧ n ≤ 31 ∨ 40 ≤ n ∧ n ≤ 120) ∧ fieldPasses v n = false
              ∧ ∀ m, m < n → (1 ≤ m ∧ m ≤ 31 ∨ 40 ≤ m ∧ m ≤ 120) → fieldPasses v m = true)
        ∧ (let c := configOf v
          (c.unitRole = decide (v 1 % 2 = 1) ∧ c.postRole = decide (2 ≤ v 1))
            ∧ (c.qFast = v 2 ∧ c.qNormal = v 3 ∧ c.chatterMs = v 4 ∧ c.chatterCount = v 5)
            ∧ (c.trim = v 6 ∧ c.quorum = v 7 ∧ c.boundUs = v 8 ∧ c.slewUs = v 9 ∧ c.shortLimit = v 10 ∧ c.formationWait = v 11)
            ∧ (c.spanMs = v 12 ∧ c.settleMs = v 13 ∧ c.pulsesPerRev = v 14 ∧ c.standstill = v 15 ∧ c.spin = v 16)
            ∧ (c.boundaries = (List.range (v 17)).map fun i => v (18 + i))
            ∧ (c.earlyMin = v 24 ∧ c.graceMin = v 25 ∧ c.pairingS = v 26 ∧ c.gatherS = v 27)
            ∧ (c.expectedUnits = BitVec.ofNat 16 (v 28) ∧ c.enableMask = BitVec.ofNat 16 (v 29)
              ∧ c.mapA = BitVec.ofNat 16 (v 30) ∧ c.mapB = BitVec.ofNat 16 (v 31))
            ∧ ∀ i : InputNo,
                let f := 40 + 5 * i.val
                c.inputs[i.val].activeHigh = decide (v f = 1)
                  ∧ (v (f + 1) ≤ 3 → c.inputs[i.val].edges = [RecordedEdges.none, .rising, .falling, .both].getD (v (f + 1)) .both)
                  ∧ c.inputs[i.val].cascade = decide (v (f + 2) = 1) ∧ c.inputs[i.val].fast = decide (v (f + 3) = 1)
                  ∧ (v (f + 4) ≤ 3 → c.inputs[i.val].role = [InputRole.none, .breaker, .handKey, .takeKey].getD (v (f + 4)) .none)))

/-- OPEN. In CONFIGURED it is the eight steps of R179 in their order, with the answer DONE: the node state ACTIVE; the clock state
JOINING with cause OPEN, rounds from the next boundary; the record OPENED; REFERENCED if the monitor is LOCKED and the time valid;
the sweep and the Speed Unit; on a unit node the initial phase and the tenths; the Shift Unit; the first store check pass. The first
records are CLOCK STATE, OPENED and, with REFERENCED, a second CLOCK STATE; the CLOCK STATE flag is set; what is not named stays.
Refused: NOT CONFIGURED in UNCONFIGURED, STATE in ACTIVE; then the answer is all that changes. The Shift Unit's step: nothing
without valid time; else the latest key becomes the last reached one; a unit node closes the keys since the last closed one in a
catch-up, the last four, MERGED if there were more; a post handles those since the last accepted one, creating their records, or
tests R145 if there is none. Of the keys since a key each is later than it with a boundary time at or before the clock, as R1
compares them, in ascending order, and none is left out but earlier ones past five. -/
def Obligations.OpenAnswers : Prop :=
  (∀ (w : Nat) (s : State),
    let a := s.after w
    let answers (bytes : List Byte) : Prop :=
      exec (.openNode w) s = .next ({ a with lpt := { a.lpt with response := some bytes } }).finish
    let locks : Bool := a.clu.monitor.isLocked && a.clock.valid
    a.portOpen = true →
      (a.lpt.nodeState = .configured → exec (.openNode w) s = .next ({ a.openSteps with
        lpt := { a.lpt with nodeState := .active, response := some [0x01#8, 0x02#8] } }).finish)
        ∧ (a.lpt.nodeState = .configured → a.clu.state = .solo →
        Goes (exec (.openNode w) s) fun t =>
          t = { a with
            lpt := { a.lpt with nodeState := .active, response := some [0x01#8, 0x02#8] }
            time := { a.time with boundaryDue := none }
            clu := { a.clu with
              state := if locks then .referenced else .joining
              formation := 0
              short := 0
              outlier := 0
              split := 0
              latestForeign := none }
            isc := Isc.initial a.time.elapsed
            spu := Spu.initial a.time.elapsed
            run := if a.cfg.unitRole then { a.run with initialPhase := true, tenthStart := a.time.elapsed } else a.run
            chk := { a.chk with pass := some .tally, passStart := a.time.elapsed }
            tallies := t.tallies
            lif := t.lif
            evq := t.evq
            shu := t.shu
            lastAccepted := t.lastAccepted
            atl := t.atl }
            ∧ t.tallies.tally = a.tallies.tally
            ∧ (a.clock.valid = true → t.shu.lastReached = some (latestKeyAt a.cfg.boundaries a.clock.date))
            ∧ (a.clock.valid = false → t.tallies = a.tallies ∧ t.shu = a.shu ∧ t.lastAccepted = a.lastAccepted ∧ t.lif = a.lif)
            ∧ (a.cfg.unitRole = false → t.tallies = a.tallies)
            ∧ (a.cfg.postRole = false → t.lastAccepted = a.lastAccepted)
            ∧ t.atl.flags.getLsbD 3 = true
            ∧ (a.evq.records.length < 253 →
                ∃ r1 r2 rest, t.evq.records = a.evq.records ++ r1 :: r2 :: rest
                  ∧ (r1.kind = .clockState ∧ r1.stamp = ⟨a.clock.date, .joining⟩ ∧ r1.detailA = 0x10#8 ∧ r1.detailB = 1)
                  ∧ (r2.kind = .opened ∧ r2.stamp = ⟨a.clock.date, .joining⟩
                    ∧ r2.detailA = BitVec.ofNat 8 ((if a.cfg.unitRole then 1 else 0) + (if a.cfg.postRole then 2 else 0)
                        + (if a.clock.valid then 4 else 0))
                    ∧ r2.detailB = BitVec.ofNat 32 (a.lif.nodeNumber.val + 16 * a.lif.lineSpeed.toNat))
                  ∧ (locks = true → ∃ r3 rest', rest = r3 :: rest' ∧ r3.kind = .clockState
                    ∧ r3.stamp = ⟨a.clock.date, .referenced⟩ ∧ r3.detailA = 0x41#8 ∧ r3.detailB = 8)))
        ∧ (a.lpt.nodeState = .unconfigured → answers [0x02#8, 0x02#8, 0x03#8])
        ∧ (a.lpt.nodeState = .active → answers [0x02#8, 0x02#8, 0x01#8]))
    ∧ (∀ s : State,
      let active : State := { s with
        lpt := { s.lpt with nodeState := .active }
        time := { s.time with boundaryDue := none } }
      let joining := active.changeState .joining .opened
      let opened := joining.requestNow .opened
        ((if s.cfg.unitRole then 1 else 0) + (if s.cfg.postRole then 2 else 0) + (if s.clock.valid then 4 else 0))
        (BitVec.ofNat 32 (s.lif.nodeNumber.val + s.lif.lineSpeed.toNat * 16))
      let locked := opened.lockReference
      let started : State := { locked with
        isc := Isc.initial s.time.elapsed
        spu := Spu.initial s.time.elapsed
        run := if s.cfg.unitRole then { locked.run with initialPhase := true, tenthStart := s.time.elapsed } else locked.run }
      s.openSteps = { started.openShift with chk := { started.openShift.chk with pass := some .tally, passStart := s.time.elapsed } })
    ∧ (∀ s : State,
      let plan := s.cfg.boundaries
      let k := latestKeyAt plan s.clock.date
      let reached : State := { s with shu := { s.shu with
        lastReached := some k
        keyDue := s.shu.keyDue.filter fun c => c.later k } }
      let caught : State := if s.cfg.unitRole then
          (match s.tallies.lastClosed with
            | none => reached
            | some c => reached.closeOrder (closeKeys false true (s.keysSince c)))
        else reached
      (s.clock.valid = false → s.openShift = s)
        ∧ (s.clock.valid = true → s.cfg.postRole = false → s.openShift = caught)
        ∧ (s.clock.valid = true → s.cfg.postRole = true → s.lastAccepted = none → s.openShift = caught)
        ∧ (∀ c, s.clock.valid = true → s.cfg.postRole = true → s.lastAccepted = some c →
            (s.keysSince c = [] → s.openShift = caught.testEarly)
              ∧ (s.keysSince c ≠ [] → s.openShift =
                  ((lastFour (s.keysSince c)).foldl State.createRecord caught).handleKeys (s.keysSince c))))
    ∧ (∀ (s : State) (k : ShiftKey),
      let plan := s.cfg.boundaries
      let counts (x : ShiftKey) : Prop := x.later k = true ∧ (boundaryTime plan x).later s.clock.date = false
      let l := s.keysSince k
      (∀ x ∈ l, counts x)
        ∧ (plan ≠ [] → plan.Pairwise (· < ·) → (∀ m ∈ plan, m < 1440) → s.clock.date.us < 86400000000 → k.index < plan.length →
            l.Pairwise (fun x y => y.later x = true) ∧ l.length ≤ 5
              ∧ ∀ x, x.index < plan.length → counts x → x ∈ l ∨ (l.length = 5 ∧ ∀ y ∈ l, y.later x = true)))

/-- SET TIME. In SOLO, JOINING or HOLDOVER with a microsecond of day in range, the clock stands at the date given, the time valid, P
and the spread 0, no round open, the response DONE; the clock state is the one before, or REFERENCED if the step made the time valid
in JOINING or HOLDOVER with the monitor LOCKED. An open round is abandoned first; then the step of `StepsAndStateChanges` is made,
with its CLOCK STEP record (cause SET TIME, dated after the step in the state before it, log 11) and its report to the Shift Unit,
which out of ACTIVE changes nothing; then the monitor's lock is taken. Refused: STATE
in AGREED and REFERENCED, RANGE above the last microsecond of day; then only the answer changes. (STATE before RANGE where both hold:
the model's choice, log 12.) -/
def Obligations.SetTimeAnswers : Prop :=
  ∀ (w : Nat) (day : Day) (us : BitVec 40) (s : State),
    let a := s.after w
    let answers (bytes : List Byte) : Prop :=
      exec (.setTime w day us) s = .next ({ a with lpt := { a.lpt with response := some bytes } }).finish
    a.portOpen = true →
      (a.clu.state ≠ .agreed → a.clu.state ≠ .referenced → us.toNat ≤ 86399999999 →
        (let abandoned := match a.clu.round with
            | none => a
            | some r => ({ a with clu := { a.clu with round := none, lastKey := some r.key } }).dropMark r.key
          let stepped := abandoned.stepClock ⟨day, us.toNat⟩ .timeSet
          let locked := if a.clock.valid then stepped else stepped.lockReference
          exec (.setTime w day us) s =
            .next ({ locked with lpt := { locked.lpt with response := some [0x01#8, 0x03#8] } }).finish)
        ∧ Goes (exec (.setTime w day us) s) fun t =>
          t.clock = ⟨⟨day, us.toNat⟩, true⟩ ∧ t.clu.p = 0 ∧ t.time.spread = 0 ∧ t.clu.round = none
            ∧ (∀ r, a.clu.round = some r → t.clu.lastKey = some r.key)
            ∧ (a.clu.round = none → t.clu.lastKey = a.clu.lastKey)
            ∧ t.clu.state = (if !a.clock.valid && a.clu.monitor.isLocked && decide (a.clu.state ≠ .solo) then .referenced
                else a.clu.state)
            ∧ (a.evq.records.length < 255 →
                let amount := stepAmount (Date.minus ⟨day, us.toNat⟩ a.clock.date)
                ∃ r rest, t.evq.records = a.evq.records ++ r :: rest ∧ r.kind = .clockStep
                  ∧ r.stamp = ⟨⟨day, us.toNat⟩, a.clu.state⟩ ∧ r.detailA = BitVec.ofNat 8 (4 * amount.1)
                  ∧ r.detailB = BitVec.ofInt 32 amount.2)
            ∧ t.clu.lastClosed = a.clu.lastClosed ∧ t.clu.monitor = a.clu.monitor ∧ t.clu.startList = a.clu.startList
            ∧ t.tallies.tally = a.tallies.tally ∧ t.time.elapsed = a.time.elapsed
            ∧ t = { a with
                lpt := { a.lpt with response := some [0x01#8, 0x03#8] }
                time := t.time
                clock := t.clock
                clu := t.clu
                lif := t.lif
                evq := t.evq
                tallies := t.tallies
                shu := t.shu
                lastAccepted := t.lastAccepted
                atl := t.atl }
            ∧ (a.active = false → t.tallies = a.tallies ∧ t.shu = a.shu ∧ t.lastAccepted = a.lastAccepted))
        ∧ (a.clu.state = .agreed ∨ a.clu.state = .referenced → answers [0x02#8, 0x03#8, 0x01#8])
        ∧ (a.clu.state ≠ .agreed → a.clu.state ≠ .referenced → 86399999999 < us.toNat → answers [0x02#8, 0x03#8, 0x05#8])

/-- PRESET TALLY. Outside ACTIVE with balancing counts, the tally has the values given, BLANK and SUSPECT clear, SATURATED set
exactly if a saturating field was given its highest value; the baseline has the values of the same name; both checks are those of
the contents; the unit shift records and the last closed key, and all else but the answer, are unchanged. Refused: STATE in ACTIVE,
COUNTS when trips plus normal stops differ from syncs; then only the answer changes. -/
def Obligations.PresetTallyAnswers : Prop :=
  ∀ (w : Nat) (f : TallyFields) (s : State),
    let a := s.after w
    let answers (bytes : List Byte) : Prop :=
      exec (.presetTally w f) s = .next ({ a with lpt := { a.lpt with response := some bytes } }).finish
    a.portOpen = true →
      (a.lpt.nodeState ≠ .active → f.trips.toNat + f.normalStops.toNat = f.syncs.toNat →
        ∃ tally : Tally,
          tally.fields = f ∧ tally.blank = false ∧ tally.suspect = false
            ∧ (tally.saturated = true ↔ f.online = BitVec.allOnes 40 ∨ f.spinning = BitVec.allOnes 40
                ∨ f.starts = BitVec.allOnes 24 ∨ f.syncs = BitVec.allOnes 24 ∨ f.trips = BitVec.allOnes 24
                ∨ f.normalStops = BitVec.allOnes 24 ∨ f.outage = BitVec.allOnes 32)
            ∧ tally.check = tallyCheck tally
            ∧ exec (.presetTally w f) s = .next ({ a with
                tallies := { a.tallies with tally := tally, baseline := Baseline.of (sixOf f) }
                lpt := { a.lpt with response := some [0x01#8, 0x04#8] } }).finish)
        ∧ (a.lpt.nodeState = .active → answers [0x02#8, 0x04#8, 0x01#8])
        ∧ (a.lpt.nodeState ≠ .active → f.trips.toNat + f.normalStops.toNat ≠ f.syncs.toNat → answers [0x02#8, 0x04#8, 0x06#8])

/-- ACCEPT TALLY, in every node state: SUSPECT clear; the fields, BLANK and SATURATED, the baseline's fields and the unit shift
list as they were; both checks recomputed, so that the store check's tests pass at once; the answer DONE; nothing else changes.
Where the pass in progress stands at a tally or baseline whose check fails and its finding comes together with the command
(operand `finding`, log 22), the finding is taken second: SUSPECT is set again with the tally's check recomputed, the failure
reported (a baseline's only if SUSPECT was clear before), and the pass moves on. (That a finding may come together with the
command, and that one made by a transaction takes its turn first, is the model's choice of log 22.) -/
def Obligations.AcceptTallyAccepts : Prop :=
  ∀ (w : Nat) (finding : Bool) (s : State),
    let a := s.after w
    let tallyFails := a.chk.pass = some .tally ∧ tallyCheck a.tallies.tally ≠ a.tallies.tally.check
    let baselineFails :=
      a.chk.pass = some .baseline ∧ baselineCheck a.tallies.baseline.fields ≠ a.tallies.baseline.check
    let accepted (tally : Tally) : State := { a with
      tallies := { a.tallies with
        tally := tally
        baseline := ⟨a.tallies.baseline.fields, baselineCheck a.tallies.baseline.fields⟩ }
      lpt := { a.lpt with response := some [0x01#8, 0x05#8] } }
    let kept (tally : Tally) : Prop :=
      tally.fields = a.tallies.tally.fields ∧ tally.blank = a.tallies.tally.blank
        ∧ tally.saturated = a.tallies.tally.saturated ∧ tally.check = tallyCheck tally
    let reported (x : State) (area : StoreArea) : State := { x with
      sup := if x.sup.firstFailure = none
        then { x.sup with firstFailure := some (area, 0) } else { x.sup with failureOverflow := true }
      atl := { x.atl with flags := x.atl.flags ||| Source.storeCheck.mark } }
    a.portOpen = true →
      (finding = false ∨ (¬ tallyFails ∧ ¬ baselineFails) →
        ∃ tally, kept tally ∧ tally.suspect = false
          ∧ Goes (exec (.acceptTally ⟨w, finding⟩) s) fun t =>
              t = (accepted tally).finish ∧ t.testTally = t ∧ t.testBaseline = t)
        ∧ (finding = true → tallyFails →
            ∃ tally, kept tally ∧ tally.suspect = true
              ∧ exec (.acceptTally ⟨w, finding⟩) s =
                .next ({ reported (accepted tally) .tally with chk := { a.chk with pass := some .baseline } }).finish)
        ∧ (finding = true → baselineFails →
            ∃ tally, kept tally ∧ tally.suspect = true
              ∧ (a.tallies.tally.suspect = false → exec (.acceptTally ⟨w, finding⟩) s =
                .next ({ reported (accepted tally) .baseline with chk := { a.chk with pass := some (.unitShift 0) } }).finish)
              ∧ (a.tallies.tally.suspect = true → exec (.acceptTally ⟨w, finding⟩) s =
                .next ({ accepted tally with chk := { a.chk with pass := some (.unitShift 0) } }).finish))

/-- The commands that change nothing but the answer: READ STATUS, READ TALLY, READ ROUND and READ SHIFT give DONE with the data
the tables lay out, EMPTY where there is no last closed round or no record at the position, RANGE above position 3; the data of
READ STATUS has 136 bytes, of READ TALLY 81, of READ SHIFT 38. Content: the value at every named place of the four layouts, high
byte first (Tables 12-9, 12-10, 12-12 and section 12.4), with the codes of the states; an item of a unit node or of a post is 0
elsewhere, a key that is absent has boundary index FFh, any other absent item is 0. (The times left at bytes 46, 69 and 93 and the
grace seconds at byte 90 are truncated, and the seconds are 0 while the timer stands below 0 and their low 24 bits above
16,777,215: the model's choice of log 27. The bytes of other absent values are 0
and an edge sender without an edge is 0: log 36.) -/
def Obligations.ReadsAnswer : Prop :=
  (∀ (w : Nat) (s : State),
    let a := s.after w
    let answered (bytes : List Byte) : State := ({ a with lpt := { a.lpt with response := some bytes } }).finish
    a.portOpen = true →
      exec (.readStatus w) s = .next (answered ([0x01#8, 0x06#8] ++ statusData a)) ∧ (statusData a).length = 136
        ∧ exec (.readTally w) s = .next (answered ([0x01#8, 0x0A#8] ++ tallyData a.tallies a.run.unusedHandovers))
        ∧ (tallyData a.tallies a.run.unusedHandovers).length = 81
        ∧ (a.clu.lastClosed = none → exec (.readRound w) s = .next (answered [0x03#8, 0x09#8]))
        ∧ (∀ r, a.clu.lastClosed = some r → exec (.readRound w) s = .next (answered ([0x01#8, 0x09#8] ++ roundData r)))
        ∧ (∀ n : Byte, 3 < n.toNat → exec (.readShift w n) s = .next (answered [0x02#8, 0x0B#8, 0x05#8]))
        ∧ (∀ n : Byte, n.toNat ≤ 3 → a.tallies.unitShifts[n.toNat]? = none →
            exec (.readShift w n) s = .next (answered [0x03#8, 0x0B#8]))
        ∧ (∀ (n : Byte) (u : UnitShift), n.toNat ≤ 3 → a.tallies.unitShifts[n.toNat]? = some u →
            exec (.readShift w n) s = .next (answered ([0x01#8, 0x0B#8] ++ unitShiftBytes u u.corrupt))
              ∧ (unitShiftBytes u u.corrupt).length = 38))
    ∧ (∀ s : State,
      let at_ := fieldAt (statusData s)
      let c := s.lif.counters
      let stop : Option Stop := if s.cfg.unitRole then s.run.stop else none
      let showsKey (p : Nat) (o : Option ShiftKey) : Prop :=
        (o = none → at_ p 3 = 0x0000FF) ∧ ∀ k, o = some k → at_ p 2 = k.day.toNat ∧ at_ (p + 2) 1 = k.index % 256
      (at_ 0 2 = c.intact.toNat ∧ at_ 2 2 = c.checkErrors.toNat ∧ at_ 4 2 = c.formErrors.toNat ∧ at_ 6 2 = c.unheard.toNat
        ∧ at_ 8 2 = c.arbitration.toNat ∧ at_ 10 2 = c.displaced.toNat ∧ at_ 12 2 = c.lateMarks.toNat)
        ∧ (at_ 14 1 = (s.clock.valid.toNat + 2 * s.clu.monitor.isLocked.toNat + 4 * s.clu.monitor.count) % 256
          ∧ at_ 15 4 = (BitVec.ofInt 32 s.clu.p).toNat)
        ∧ (∀ n : InputNo,
            (at_ 19 2).testBit n.val = (s.input n).level.isSome
              ∧ (at_ 21 2).testBit n.val = decide ((s.input n).level = some true)
              ∧ (at_ 23 2).testBit n.val = (s.input n).locked)
        ∧ (at_ 25 2 = s.evq.records.length % 65536 ∧ at_ 27 2 = s.evq.nextSeq.toNat
          ∧ at_ 29 1 = s.evq.openOverflow.isSome.toNat
          ∧ (∀ o, s.evq.openOverflow = some o → at_ 30 2 = o.seq.toNat ∧ at_ 32 3 = o.lostCount.toNat))
        ∧ at_ 35 1 = (match s.csu.current with
              | none => 0
              | some o => 1 + 2 * o.cascade.doubtful.toNat + 4 * o.cascade.full.toNat + 8 * o.cascade.late.toNat)
            + 16 * s.csu.slot.isSome.toNat + 32 * stop.isSome.toNat
            + (match stop with
              | some ⟨_, _, .awaitingClose _ _⟩ => 64
              | some ⟨_, _, .waiting _⟩ | none => 0)
        ∧ (s.csu.current = none → at_ 36 8 = 0 ∧ at_ 44 4 = 0)
        ∧ (∀ o, s.csu.current = some o →
            at_ 36 2 = o.cascade.opening.date.day.toNat ∧ at_ 38 5 = o.cascade.opening.date.us % 2 ^ 40
              ∧ at_ 43 1 = o.cascade.opening.quality.code ∧ at_ 44 1 = o.cascade.opener.val
              ∧ at_ 45 1 = o.cascade.members.length % 256 ∧ at_ 46 2 = (o.closeAt - s.time.elapsed) / 1000 % 65536)
        ∧ (s.csu.slot = none → at_ 48 8 = 0)
        ∧ (∀ m, s.csu.slot = some m →
            at_ 48 1 = 16 * m.node.val + m.input.val ∧ at_ 49 2 = m.stamp.date.day.toNat ∧ at_ 51 5 = m.stamp.date.us % 2 ^ 40)
        ∧ (at_ 56 1 = s.csu.list.length % 256 ∧ at_ 57 2 = s.csu.stray.toNat ∧ at_ 59 2 = s.csu.lost.toNat)
        ∧ (stop = none → at_ 61 8 = 0 ∧ at_ 69 2 = 0)
        ∧ (∀ x, stop = some x →
            at_ 61 2 = x.stamp.date.day.toNat ∧ at_ 63 5 = x.stamp.date.us % 2 ^ 40 ∧ at_ 68 1 = x.stamp.quality.code
              ∧ at_ 69 2 = (match x.phase with
                | .waiting deadline => (deadline - s.time.elapsed) / 1000 % 65536
                | .awaitingClose _ _ => 0))
        ∧ at_ 71 1 = (match s.spu.phase with
              | .noEdge => 0
              | .firstPeriod _ => 1
              | .measuring _ => 2) + 4 * s.spu.silent.toNat
        ∧ (at_ 72 4 = s.spu.speed % 2 ^ 32 ∧ at_ 76 3 = s.spu.lastPeriod.getD 0 % 2 ^ 24 ∧ at_ 79 2 = s.spu.pulsesLast % 65536
          ∧ at_ 81 1 = s.spu.revPulses % 256)
        ∧ (s.cfg.unitRole = false → at_ 82 1 = 0)
        ∧ (s.cfg.unitRole = true →
            at_ 82 1 = s.run.state.code + 4 * s.run.breakerClosed.toNat + 8 * s.run.turning.toNat
              + 16 * s.run.initialPhase.toNat + 32 * s.run.speedSilent.toNat)
        ∧ showsKey 83 s.shu.lastReached
        ∧ (s.cfg.postRole = false → at_ 86 30 = 0)
        ∧ (s.cfg.postRole = true →
            (s.shu.held = none → at_ 86 1 = s.shu.mode.code ∧ at_ 93 3 = 0)
              ∧ (∀ p, s.shu.held = some p → at_ 86 1 = s.shu.mode.code + 4 + 8 * p.key.code
                ∧ at_ 93 3 = (p.since + s.cfg.pairingS * 1000000 - s.time.elapsed) / 1000 % 2 ^ 24)
              ∧ showsKey 87 s.target
              ∧ (s.shu.grace = none → at_ 90 3 = 0)
              ∧ (∀ t, s.shu.grace = some t → 
                at_ 90 3 = (t.base + ((s.time.elapsed - t.since : Nat) : Int)).toNat / 1000000 % 2 ^ 24)
              ∧ showsKey 96 s.lastAccepted ∧ showsKey 99 s.shu.lastCreated ∧ showsKey 102 (s.shu.heldResult.map Prod.fst)
              ∧ at_ 105 1 = s.shu.records.length % 256
              ∧ (∀ i, i < 8 → at_ 106 2 / 4 ^ i % 4 = (match s.shu.records[i]? with
                | none => 0
                | some x => x.status.code))
              ∧ at_ 108 2 = s.shu.unused.toNat ∧ at_ 110 2 = s.shu.unmatched.toNat ∧ at_ 112 2 = s.shu.repeated.toNat
              ∧ at_ 114 2 = s.shu.lostRecords.toNat)
        ∧ (at_ 116 1 = s.sup.state.code + 4 * s.sup.nodeStateAtReset.code + 16 * s.sup.creditMark.toNat
              + 32 * s.sup.firstFailure.isSome.toNat + 64 * s.sup.failureOverflow.toNat
          ∧ (s.sup.firstFailure = none → at_ 117 2 = 0)
          ∧ (∀ area index, s.sup.firstFailure = some (area, index) → at_ 117 1 = area.code ∧ at_ 118 1 = index % 256)
          ∧ at_ 119 4 = min (s.sup.outageUs / 100000) 4294967295 ∧ at_ 123 2 = s.chk.passes.toNat)
        ∧ (at_ 125 1 = s.lpt.nodeState.code + 4 * s.cfg.unitRole.toNat + 8 * s.cfg.postRole.toNat + 16 * s.lif.lineSpeed.toNat
          ∧ at_ 126 1 = s.lif.nodeNumber.val ∧ at_ 127 2 = s.atl.flags.toNat ∧ at_ 129 2 = s.cfg.enableMask.toNat
          ∧ at_ 131 2 = s.cfg.mapA.toNat ∧ at_ 133 2 = s.cfg.mapB.toNat ∧ at_ 135 1 = 0))
    ∧ ([SupplyState.run, .keepAlive, .restoring, .off].map SupplyState.code = [0, 1, 2, 3]
      ∧ [NodeState.unconfigured, .configured, .active].map NodeState.code = [0, 1, 2]
      ∧ [RunState.standstill, .spinning, .online].map RunState.code = [0, 1, 2]
      ∧ [PostState.onWatch, .early, .due, .overdue].map PostState.code = [0, 1, 2, 3]
      ∧ [PressKey.hand, .take].map PressKey.code = [0, 1]
      ∧ [RecordStatus.gathering, .awaitingAcceptance, .complete].map RecordStatus.code = [1, 2, 3]
      ∧ [StoreArea.tally, .baseline, .unitShift, .eventQueue].map StoreArea.code = [0, 1, 2, 3])
    ∧ (∀ (t : Tallies) (unused : BitVec 16),
      let at_ := fieldAt (tallyData t unused)
      let f := t.tally.fields
      let b := t.baseline.fields
      (at_ 0 5 = f.online.toNat ∧ at_ 5 5 = f.spinning.toNat ∧ at_ 10 4 = f.revolutions.toNat ∧ at_ 14 3 = f.starts.toNat
        ∧ at_ 17 3 = f.syncs.toNat ∧ at_ 20 3 = f.trips.toNat ∧ at_ 23 3 = f.normalStops.toNat ∧ at_ 26 4 = f.outage.toNat)
        ∧ at_ 30 1 = t.tally.blank.toNat + 2 * t.tally.suspect.toNat + 4 * t.tally.saturated.toNat
        ∧ (at_ 31 5 = b.online.toNat ∧ at_ 36 5 = b.spinning.toNat ∧ at_ 41 3 = b.starts.toNat ∧ at_ 44 3 = b.syncs.toNat
          ∧ at_ 47 3 = b.trips.toNat ∧ at_ 50 3 = b.normalStops.toNat)
        ∧ (at_ 53 5 = f.online.toNat - b.online.toNat ∧ at_ 58 5 = f.spinning.toNat - b.spinning.toNat
          ∧ at_ 63 3 = f.starts.toNat - b.starts.toNat ∧ at_ 66 3 = f.syncs.toNat - b.syncs.toNat
          ∧ at_ 69 3 = f.trips.toNat - b.trips.toNat ∧ at_ 72 3 = f.normalStops.toNat - b.normalStops.toNat)
        ∧ (t.lastClosed = none → at_ 75 3 = 0x0000FF)
        ∧ (∀ k, t.lastClosed = some k → at_ 75 2 = k.day.toNat ∧ at_ 77 1 = k.index % 256)
        ∧ at_ 78 1 = t.unitShifts.length % 256 ∧ at_ 79 2 = unused.toNat)
    ∧ (∀ u : UnitShift,
      let at_ := fieldAt (unitShiftBytes u u.corrupt)
      (at_ 0 2 = u.key.day.toNat ∧ at_ 2 1 = u.key.index % 256)
        ∧ (at_ 3 5 = u.amounts.online.toNat ∧ at_ 8 5 = u.amounts.spinning.toNat ∧ at_ 13 3 = u.amounts.starts.toNat
          ∧ at_ 16 3 = u.amounts.syncs.toNat ∧ at_ 19 3 = u.amounts.trips.toNat ∧ at_ 22 3 = u.amounts.normalStops.toNat)
        ∧ at_ 25 1 = u.stepped.toNat + 2 * u.catchUp.toNat + 4 * u.merged.toNat + 8 * u.notSound.toNat + 16 * u.suspect.toNat
            + 128 * u.corrupt.toNat
        ∧ (u.acceptance = none → at_ 26 12 = 0)
        ∧ (∀ x, u.acceptance = some x →
            at_ 26 1 = x.outcome.code ∧ at_ 27 2 = x.completion.date.day.toNat ∧ at_ 29 5 = x.completion.date.us % 2 ^ 40
              ∧ at_ 34 1 = x.completion.quality.code ∧ at_ 35 2 = x.due.toNat ∧ at_ 37 1 = x.post.val))
    ∧ (∀ r : ClosedRound,
      let at_ := fieldAt (roundData r)
      (at_ 0 2 = r.key.day.toNat ∧ at_ 2 3 = r.key.second % 2 ^ 24)
        ∧ at_ 5 1 = r.full.toNat + 2 * r.ownReading.isSome.toNat + 4 * r.action.code ∧ at_ 6 1 = r.stateAtClose.code
        ∧ (r.edge = none → at_ 7 8 = 0 ∧ at_ 15 1 = 0)
        ∧ (∀ e, r.edge = some e → at_ 7 2 = e.date.day.toNat ∧ at_ 9 5 = e.date.us % 2 ^ 40 ∧ at_ 14 1 = e.quality.code
            ∧ at_ 15 1 = r.edgeSender.val)
        ∧ at_ 16 4 = (BitVec.ofInt 32 (r.ownReading.getD 0)).toNat ∧ at_ 20 1 = r.used % 256 ∧ at_ 21 1 = r.trim % 256
        ∧ at_ 22 4 = (BitVec.ofInt 32 r.midpoint).toNat ∧ at_ 26 4 = (BitVec.ofInt 32 r.correction).toNat
        ∧ at_ 30 1 = r.entries.length % 256 ∧ (roundData r).length = 31 + 13 * r.entries.length
        ∧ (∀ (i : Nat) (e : RoundEntry), r.entries[i]? = some e →
            let p := 31 + 13 * i
            at_ p 1 = e.node.val ∧ at_ (p + 1) 1 = e.status.code.toNat + 128 * e.status.valid.toNat
              ∧ at_ (p + 2) 2 = e.key.day.toNat ∧ at_ (p + 4) 3 = e.key.second % 2 ^ 24
              ∧ at_ (p + 7) 4 = (BitVec.ofInt 32 e.reading).toNat ∧ at_ (p + 11) 1 = e.edgeSender.val
              ∧ at_ (p + 12) 1 = e.disposition.code))

/-- The commands that return and remove: READ EVENT the head record with the number that remain, READ CASCADE the oldest
cascade, READ STATION SHIFT the oldest COMPLETE record; EMPTY, and nothing changed, where there is none. Content: the value at
each place of an event record's 16 bytes (Table 12-5), of a cascade's data (Table 12-8) and of a station shift record's (Table
12-11). (The place that a pass of the store check keeps when the head record goes is the model's choice of log 25; the own
number as the sending post of a LOCAL result is log 39; a result that is not there and the amounts of an ABSENT entry sent as 0
are log 36.) -/
def Obligations.ReadsThatRemove : Prop :=
  (∀ (w : Nat) (s : State),
    let a := s.after w
    a.portOpen = true →
      (∀ r rest, a.evq.records = r :: rest →
        exec (.readEvent w) s = .next ({ a with
          evq := { a.evq with records := rest }
          chk := { a.chk with pass := a.chk.pass.map Cursor.afterRemoval }
          lpt := { a.lpt with response := some ([0x01#8, 0x07#8] ++ recordBytes r ++ beBytes 1 rest.length) } }).finish)
        ∧ (a.evq.records = [] →
            exec (.readEvent w) s = .next ({ a with lpt := { a.lpt with response := some [0x03#8, 0x07#8] } }).finish)
        ∧ (∀ c rest, a.csu.list = c :: rest →
            exec (.readCascade w) s = .next ({ a with
              csu := { a.csu with list := rest }
              lpt := { a.lpt with response := some ([0x01#8, 0x08#8] ++ cascadeData c rest.length) } }).finish)
        ∧ (a.csu.list = [] →
            exec (.readCascade w) s = .next ({ a with lpt := { a.lpt with response := some [0x03#8, 0x08#8] } }).finish)
        ∧ (∀ before x rest, a.shu.records = before ++ x :: rest → (∀ y ∈ before, y.status ≠ .complete) → x.status = .complete →
            exec (.readStationShift w) s = .next ({ a with
              shu := { a.shu with records := before ++ rest }
              lpt := { a.lpt with response := some (
                [0x01#8, 0x0C#8] ++ stationData a.lif.nodeNumber x (before ++ rest).length) } }).finish)
        ∧ ((∀ y ∈ a.shu.records, y.status ≠ .complete) →
            exec (.readStationShift w) s = .next ({ a with lpt := { a.lpt with response := some [0x03#8, 0x0C#8] } }).finish))
    ∧ (∀ r : Record,
      let at_ := fieldAt (recordBytes r)
      [RecordKind.inputChange, .chatterLock, .chatterRelease, .clockStep, .clockState, .runChange, .stopClassified, .speedSilent,
        .unitShiftClosed, .handover, .unpairedKey, .sendFailed, .powerLoss, .powerRestore, .reset, .opened, .cascadeClosed,
        .overflow].map RecordKind.code = [1, 2, 3, 4, 5, 6, 7, 8, 9, 10, 11, 12, 13, 14, 15, 16, 17, 18]
        ∧ (recordBytes r).length = 16 ∧ at_ 0 2 = r.seq.toNat ∧ at_ 2 1 = r.kind.code + 32 * r.stamp.quality.code
        ∧ at_ 3 2 = r.stamp.date.day.toNat ∧ at_ 5 5 = r.stamp.date.us % 2 ^ 37 + 2 ^ 39 * r.corrupt.toNat
        ∧ at_ 10 1 = r.detailA.toNat ∧ at_ 11 4 = r.detailB.toNat ∧ at_ 15 1 = r.check.toNat)
    ∧ (∀ (c : Cascade) (remaining : Nat),
      let at_ := fieldAt (cascadeData c remaining)
      (at_ 0 2 = c.opening.date.day.toNat ∧ at_ 2 5 = c.opening.date.us % 2 ^ 40 ∧ at_ 7 1 = c.opening.quality.code)
        ∧ at_ 8 1 = c.opener.val ∧ at_ 9 1 = c.doubtful.toNat + 2 * c.full.toNat + 4 * c.late.toNat
        ∧ at_ 10 1 = c.notStored.toNat ∧ at_ 11 1 = c.lateCount.toNat ∧ at_ 12 1 = c.members.length % 256
        ∧ (∀ m rest, c.members = m :: rest → at_ 13 1 = 16 * m.node.val + m.input.val)
        ∧ (cascadeData c remaining).length = 15 + 18 * c.members.length
        ∧ (∀ (i : Nat) (m : Member), c.members[i]? = some m →
            let p := 14 + 18 * i
            at_ p 1 = 16 * m.node.val + m.input.val
              ∧ at_ (p + 1) 1 = m.active.toNat + 2 * (!m.stamp.quality.sound).toNat + 4 * m.line.toNat
              ∧ at_ (p + 2) 2 = m.stamp.date.day.toNat ∧ at_ (p + 4) 5 = m.stamp.date.us % 2 ^ 40
              ∧ at_ (p + 9) 1 = m.stamp.quality.code ∧ at_ (p + 10) 2 = m.heard.date.day.toNat
              ∧ at_ (p + 12) 5 = m.heard.date.us % 2 ^ 40 ∧ at_ (p + 17) 1 = m.heard.quality.code)
        ∧ at_ (14 + 18 * c.members.length) 1 = remaining % 256)
    ∧ (∀ (own : NodeNo) (x : StationRecord) (remaining : Nat),
      let at_ := fieldAt (stationData own x remaining)
      (at_ 0 2 = x.key.day.toNat ∧ at_ 2 1 = x.key.index % 256)
        ∧ (x.result = none → at_ 3 12 = 0)
        ∧ (∀ r, x.result = some r →
            at_ 3 1 = r.outcome.code ∧ at_ 4 2 = r.completion.date.day.toNat ∧ at_ 6 5 = r.completion.date.us % 2 ^ 40
              ∧ at_ 11 1 = r.completion.quality.code ∧ at_ 12 2 = r.due.toNat
              ∧ at_ 14 1 = (match r.elsewhere with
                | none => own.val
                | some post => 16 + post.val))
        ∧ at_ 15 1 = x.entries.length % 256
        ∧ (stationData own x remaining).length = 17 + 12 * x.entries.length
        ∧ (∀ (i : Nat) (e : StationEntry), x.entries[i]? = some e →
            let p := 16 + 12 * i
            at_ p 1 = e.node.val + 16 * e.values.isNone.toNat + 32 * e.unexpected.toNat
              ∧ (e.values = none → at_ (p + 1) 11 = 0)
              ∧ (∀ v, e.values = some v →
                  at_ (p + 1) 3 = v.online.toNat ∧ at_ (p + 4) 3 = v.spinning.toNat ∧ at_ (p + 7) 1 = v.starts.toNat
                    ∧ at_ (p + 8) 1 = v.syncs.toNat ∧ at_ (p + 9) 1 = v.trips.toNat ∧ at_ (p + 10) 1 = v.normalStops.toNat
                    ∧ at_ (p + 11) 1 = v.flags.toNat))
        ∧ at_ (16 + 12 * x.entries.length) 1 = remaining % 256)

/-- ACK ATTENTION: marked flags are cleared, but a marked level source whose condition still holds reads set; unmarked flags are
unchanged; a mark on STORE CHECK clears the first store failure and the overflow flag; the answer gives the flags before and
after. -/
def Obligations.AckAttentionClears : Prop :=
  ∀ (w : Nat) (mask : BitVec 16) (s : State),
    let a := s.after w
    a.portOpen = true →
      ∃ flags : BitVec 16,
        (∀ n : Fin 16, flags.getLsbD n.val =
            if mask.getLsbD n.val then a.levelMarks.getLsbD n.val else a.atl.flags.getLsbD n.val)
          ∧ exec (.ackAttention w mask) s = .next ({ a with
              atl := { a.atl with flags := flags }
              sup := if mask.getLsbD 14 then { a.sup with firstFailure := none, failureOverflow := false } else a.sup
              lpt := { a.lpt with response := some (
                [0x01#8, 0x0D#8] ++ beBytes 2 a.atl.flags.toNat ++ beBytes 2 flags.toNat) } }).finish

/-- A command transaction outside the busy conditions: refused with LENGTH if it ended inside a byte or carried other than two
bytes plus the stated number; with UNKNOWN if well framed with a code of no command; with LENGTH if the length is not the
command's; else its command is executed, which does what the row of that command does with the same arguments, laid out as Table
12-7 says. During it 00h goes out. Turned away while busy, it changes nothing but what went out. (LENGTH before UNKNOWN where both hold, and a
command code's answer taken whole in one step, are the model's choices, logs 21 and 22.) -/
def Obligations.CommandTransactionIsExamined : Prop :=
  (∀ (w : Nat) (code : Byte) (rest : List Byte) (inside : Bool) (s : State),
    let a := s.after w
    let out : State := { a with lpt := { a.lpt with lsdo := List.replicate rest.length 0x00#8 } }
    let refused (reason : Byte) : State := { out with lpt := { out.lpt with response := some [0x02#8, code, reason] } }
    a.portPowered = true → code ≠ 0x00#8 →
      (a.portOpen = false → exec (.commandTransaction w (code :: rest) inside false) s = .next out.finish)
        ∧ exec (.commandTransaction w (code :: rest) inside true) s = .next out.finish
        ∧ (a.portOpen = true → wellFramed (code :: rest) inside = false →
            exec (.commandTransaction w (code :: rest) inside false) s = .next (refused 0x07#8).finish)
        ∧ (a.portOpen = true → wellFramed (code :: rest) inside = true → 13 < code.toNat →
            exec (.commandTransaction w (code :: rest) inside false) s = .next (refused 0x08#8).finish)
        ∧ (∀ c : CommandCode, a.portOpen = true → wellFramed (code :: rest) inside = true → code = c.byte →
            (rest.drop 1).length ≠ c.arguments →
            exec (.commandTransaction w (code :: rest) inside false) s = .next (refused 0x07#8).finish)
        ∧ (∀ c : CommandCode, a.portOpen = true → wellFramed (code :: rest) inside = true → code = c.byte →
            (rest.drop 1).length = c.arguments →
            exec (.commandTransaction w (code :: rest) inside false) s = .next (out.runCommand c (rest.drop 1)).finish))
    ∧ (∀ (w : Nat) (args : List Byte) (s : State),
      let a := s.after w
      let runs (c : CommandCode) (row : Instr) : Prop := exec row s = .next (a.runCommand c args).finish
      a.portOpen = true →
        runs .configure (.configure w args) ∧ runs .openNode (.openNode w)
          ∧ runs .setTime (.setTime w (BitVec.ofNat 16 (fieldAt args 0 2)) (BitVec.ofNat 40 (fieldAt args 2 5)))
          ∧ runs .presetTally (.presetTally w ⟨BitVec.ofNat 40 (fieldAt args 0 5), BitVec.ofNat 40 (fieldAt args 5 5),
              BitVec.ofNat 32 (fieldAt args 10 4), BitVec.ofNat 24 (fieldAt args 14 3), BitVec.ofNat 24 (fieldAt args 17 3),
              BitVec.ofNat 24 (fieldAt args 20 3), BitVec.ofNat 24 (fieldAt args 23 3), BitVec.ofNat 32 (fieldAt args 26 4)⟩)
          ∧ runs .acceptTally (.acceptTally ⟨w, false⟩) ∧ runs .readStatus (.readStatus w) ∧ runs .readEvent (.readEvent w)
          ∧ runs .readCascade (.readCascade w) ∧ runs .readRound (.readRound w) ∧ runs .readTally (.readTally w)
          ∧ runs .readShift (.readShift w (BitVec.ofNat 8 (fieldAt args 0 1))) ∧ runs .readStationShift (.readStationShift w)
          ∧ runs .ackAttention (.ackAttention w (BitVec.ofNat 16 (fieldAt args 0 2))))
    ∧ [CommandCode.configure, .openNode, .setTime, .presetTally, .acceptTally, .readStatus, .readEvent, .readCascade, .readRound,
        .readTally, .readShift, .readStationShift, .ackAttention].map (fun c => (c.byte.toNat, c.arguments)) =
      [(1, 129), (2, 0), (3, 7), (4, 30), (5, 0), (6, 0), (7, 0), (8, 0), (9, 0), (10, 0), (11, 1), (12, 0), (13, 2)]

/-- A read transaction shifts out the response buffer, 00h past its end, and leaves the buffer as it is; BUSY while the port is
busy or a command executes; with nothing in the buffer REFUSED with NO COMMAND, whose command byte is a free value (the model's
choice, log 20). While the port is busy (RESTORING, RSTN held, the restore pass), or the node is without main supply, each of the
thirteen commands is turned away and changes nothing. -/
def Obligations.ReadsAndBusyPort : Prop :=
  ∀ (w clocked : Nat) (executing : Bool) (s : State),
    let a := s.after w
    let out (response : List Byte) : State :=
      { a with lpt := { a.lpt with lsdo := (response ++ List.replicate clocked 0x00#8).take clocked } }
    (a.portPowered = true →
      (executing = true ∨ a.portOpen = false → exec (.readTransaction w clocked executing) s = .next (out [0x04#8]).finish)
        ∧ (∀ r, executing = false → a.portOpen = true → a.lpt.response = some r →
            exec (.readTransaction w clocked executing) s = .next (out r).finish)
        ∧ (executing = false → a.portOpen = true → a.lpt.response = none →
            ∃ code : Byte, exec (.readTransaction w clocked executing) s =
              .next ({ out [0x02#8, code, 0x09#8] with free := a.free + 1 }).finish))
      ∧ (a.portOpen = false → ∀ c,
          c ∈ [Instr.openNode w, .readStatus w, .readEvent w, .readCascade w, .readRound w, .readTally w,
            .readStationShift w]
            ∨ (∃ block, c = .configure w block) ∨ (∃ d us, c = .setTime w d us) ∨ (∃ f, c = .presetTally w f)
            ∨ (∃ finding, c = .acceptTally ⟨w, finding⟩) ∨ (∃ n, c = .readShift w n) ∨ (∃ m, c = .ackAttention w m) →
          exec c s = .next a.finish)

/-! ### The Station Line -/

/-- The line view: QUIET to IDLE after 80 µs of high wires, or more where the view entered QUIET with both high already (LINE_IDLE); the own idle gap
runs on through it; IDLE to FRAME at a start condition, which is dated
(START_CONDITION); IDLE and QUIET to QUIET at what is not a start (NOT_A_START); STUCK to QUIET after the own idle gap of four bit
periods of 20, 22, 24 or 26 µs (LINE_STUCK_LEFT); FRAME to QUIET after 80 µs of high wires without a stop, counted as a form error
unless the frame is counted already (FRAME_ABANDONED), its acknowledge bit driven before if its check matched, ACTIVE and
uncounted (the own frame: `FaultyFrameCounted`). Before its time has run out none of the three waits ends. Nothing else changes. (The earliest moment since which both
wires can have been high, from which the waits run, is the model's, log 19; that the row tells whether
the frame's check matched is log 17.) -/
def Obligations.LineViewMoves : Prop :=
  ∀ (w : Nat) (s : State),
    let a := s.after w
    let now := a.time.elapsed
    let gap := 8 * (10 + a.lif.lineSpeed.toNat)
    let quiet (since : Nat) : Lif :=
      { a.lif with view := .quiet, start := none, counted := false, joinable := false, highFrom := since }
    a.working = true →
      (∀ high, a.lif.view = .quiet → 80 ≤ high → a.lif.highFrom + high ≤ now →
        exec (.lineIdle ⟨w, high⟩) s = .next ({ a with lif := { a.lif with view := .idle, highFrom := now - high } }).finish)
        ∧ (∀ high, high < 80 ∨ now < a.lif.highFrom + high → exec (.lineIdle ⟨w, high⟩) s = .next a.finish)
        ∧ (now < a.lif.highFrom + 80 → ∀ matched, exec (.frameAbandoned ⟨w, matched⟩) s = .next a.finish)
        ∧ (a.lif.view = .idle →
            exec (.startCondition w) s = .next ({ a with lif := { a.lif with
              view := .frame
              start := some ⟨a.clock.date, a.clu.state, now⟩
              counted := false
              joinable := true
              highFrom := now
              acked := false } }).finish)
        ∧ (a.lif.view = .idle ∨ a.lif.view = .quiet → exec (.notAStart w) s = .next ({ a with lif := quiet now }).finish)
        ∧ (a.lif.view = .stuck → a.lif.highFrom + gap ≤ now →
            exec (.lineStuckLeft w) s = .next ({ a with lif := quiet (now - gap) }).finish)
        ∧ (now < a.lif.highFrom + gap → exec (.lineStuckLeft w) s = .next a.finish)
        ∧ (∀ st matched, a.lif.view = .frame → a.lif.send = none → a.lif.start = some st → a.lif.highFrom + 80 ≤ now →
            exec (.frameAbandoned ⟨w, matched⟩) s = .next ({ a with lif := { quiet (now - 80) with
              acked := a.lif.acked || (a.active && matched && !a.lif.counted)
              counters := if a.lif.counted then a.lif.counters else a.lif.counters.addForm } }).finish)

/-- LINE STUCK, entered from any other view: the view STUCK, the LINE FAULT flag; a frame in reception counts a form error
unless it is counted already, its acknowledge bit driven before if its check matched, ACTIVE and uncounted; a send in progress is
broken off, both wires released, its frame kept in its place with its attempt count, unless its removal was asked: then it leaves
the list, and a HANDOVER is reported withdrawn; a MARK request that waited for the end of the send is taken. (The withdrawal reported at a broken-off send is deduced, log 35; that
the row tells whether the frame's check matched, and that the wires count as high from this row at the earliest, are the model's
choices of logs 17 and 19.) -/
def Obligations.LineSticks : Prop :=
  ∀ (w : Nat) (matched : Bool) (s : State),
    let a := s.after w
    let stuck (x : State) : State := { x with
      lif := { x.lif with
        view := .stuck
        start := none
        counted := false
        joinable := false
        highFrom := a.time.elapsed }
      atl := { x.atl with flags := x.atl.flags ||| Source.lineFault.mark } }
    let released (l : List QueuedFrame) : State := { a with lif := { a.lif with
      lclkDriven := false
      ldatDriven := false
      send := none
      joinable := false
      sendList := l } }
    a.working = true → a.lif.view ≠ .stuck →
      (a.lif.send = none → a.lif.view = .frame → a.lif.start.isSome = true →
        exec (.lineStuck ⟨w, matched⟩) s = .next (stuck { a with lif := { a.lif with
          acked := a.lif.acked || (a.active && matched && !a.lif.counted)
          counters := if a.lif.counted then a.lif.counters else a.lif.counters.addForm } }).finish)
        ∧ (a.lif.send = none → (a.lif.view ≠ .frame ∨ a.lif.start = none) →
            exec (.lineStuck ⟨w, matched⟩) s = .next (stuck a).finish)
        ∧ (∀ snd f, a.lif.send = some snd → a.lif.frameInSend = some f →
            (f.removalAsked = false →
              exec (.lineStuck ⟨w, matched⟩) s = .next (stuck (released
                (a.lif.sendList.map fun g => if g.inSend then { g with inSend := false } else g)).queueWaiting).finish)
              ∧ (f.removalAsked = true →
                  exec (.lineStuck ⟨w, matched⟩) s = .next (stuck ((released (a.lif.sendList.eraseP QueuedFrame.inSend)).reportEnd
                    f.content .withdrawn).queueWaiting).finish))

/-- A send begins with the head frame: at the own start condition, when the line is IDLE and its wires have been high for the own
idle gap (SEND_BEGIN), and not before; or at a start condition seen, up to the first fall of LCLK after it (CONTENTION_JOIN). The
frame is marked as in a send, the start date is the own or the seen one, and the bytes are header, body and check. A node that
made the start condition itself takes up its clock at that fall, or when its own high half has run out (`TimePasses`). The layout
of a frame: the header byte with the kind's code (TRIP 1, HANDOVER 2, MARK 3, TALLY 4) above the node number, the body, and the
CRC-16 of both, high byte first: generator 1021h, from FFFFh, most significant bit of each byte first; the bodies of a TRIP, a
HANDOVER and a TALLY as they were queued and a MARK's, each value at its place (Tables 1-3 and 12-1 to 12-4). (That the
first fall comes no later than 13 µs after the start condition, the longest high half, is log 47; the own idle gap counted from
the earliest moment since which both wires can have been high, log 19; a frame whose start condition came before OPEN joined with
the start date taken then, log 42.) -/
def Obligations.SendBegins : Prop :=
  (∀ (w : Nat) (s : State) (f : QueuedFrame) (fs : List QueuedFrame),
    let a := s.after w
    let now := a.time.elapsed
    let gap := 8 * (10 + a.lif.lineSpeed.toNat)
    let sent (start : Start) (lclk : Bool) : State := { a with lif := { a.lif with
      lclkDriven := lclk
      ldatDriven := true
      view := .frame
      start := some start
      counted := false
      joinable := false
      highFrom := now
      acked := false
      sendList := { f with inSend := true } :: fs
      send := some ⟨frameBytes f.kind a.lif.nodeNumber (a.bodyAt f.content start), start⟩ } }
    a.active = true → a.lif.sendList = f :: fs →
      (a.lif.send = none → a.lif.view = .idle → a.lif.highFrom + gap ≤ now →
        exec (.sendBegin w) s = .next (sent ⟨a.clock.date, a.clu.state, now⟩ false).finish)
        ∧ (now < a.lif.highFrom + gap → exec (.sendBegin w) s = .next a.finish)
        ∧ (∀ st, a.lif.send = none → a.lif.view = .frame → a.lif.start = some st →
            (a.lif.joinable = true → now ≤ st.osc + 13 → exec (.contentionJoin w) s = .next (sent st true).finish)
              ∧ (a.lif.joinable = false ∨ st.osc + 13 < now → exec (.contentionJoin w) s = .next a.finish))
        ∧ (∀ snd, a.lif.send = some snd →
            exec (.contentionJoin w) s = .next ({ a with lif := { a.lif with lclkDriven := true } }).finish))
    ∧ (∀ (kind : FrameKind) (node : NodeNo) (body : List Byte),
      ∃ header high low : Byte, frameBytes kind node body = header :: body ++ [high, low]
        ∧ header.toNat = 16 * (match kind with
            | .trip => 1
            | .handover => 2
            | .mark => 3
            | .tally => 4) + node.val
        ∧ high.toNat * 256 + low.toNat = (crc16 (header :: body)).toNat)
    ∧ (∀ (bytes : List Byte) (b : Byte),
      let shift (r : BitVec 16) (place : Nat) : BitVec 16 :=
        if r.getLsbD 15 = b.getLsbD place then r <<< 1 else (r <<< 1) ^^^ 0x1021#16
      crc16 [] = 0xFFFF#16 ∧ crc16 (bytes ++ [b]) = [7, 6, 5, 4, 3, 2, 1, 0].foldl shift (crc16 bytes))
    ∧ (∀ (s : State) (start : Start) (change : Stamp) (input : InputNo) (active : Bool),
      let body := s.bodyAt (.trip change input active) start
      let at_ := fieldAt body
      body.length = 9 ∧ at_ 0 2 = change.date.day.toNat ∧ at_ 2 5 = change.date.us % 2 ^ 40 ∧ at_ 7 1 = change.quality.code
        ∧ at_ 8 1 = 16 * input.val + active.toNat)
    ∧ (∀ (s : State) (start : Start) (k : ShiftKey) (outcome : HandoverOutcome) (completion : Date) (due : BitVec 16),
      let body := s.bodyAt (.handover k outcome completion due) start
      let at_ := fieldAt body
      body.length = 13 ∧ at_ 0 2 = k.day.toNat ∧ at_ 2 1 = k.index % 256 ∧ at_ 3 1 = outcome.code
        ∧ at_ 4 2 = completion.day.toNat ∧ at_ 6 5 = completion.us % 2 ^ 40 ∧ at_ 11 2 = due.toNat)
    ∧ (∀ (k : RoundKey) (status : MarkStatus) (reading : Int) (edgeSender : NodeNo),
      let body := markBody k status reading edgeSender
      let at_ := fieldAt body
      body.length = 11 ∧ at_ 0 2 = k.day.toNat ∧ at_ 2 3 = k.second % 2 ^ 24
        ∧ at_ 5 1 = status.code.toNat + 128 * status.valid.toNat ∧ at_ 6 4 = (BitVec.ofInt 32 reading).toNat
        ∧ at_ 10 1 = edgeSender.val)
    ∧ (∀ (s : State) (start : Start) (k : ShiftKey) (v : TallyValues),
      let body := s.bodyAt (.tally k v) start
      let at_ := fieldAt body
      body.length = 14 ∧ at_ 0 2 = k.day.toNat ∧ at_ 2 1 = k.index % 256 ∧ at_ 3 3 = v.online.toNat
        ∧ at_ 6 3 = v.spinning.toNat ∧ at_ 9 1 = v.starts.toNat ∧ at_ 10 1 = v.syncs.toNat ∧ at_ 11 1 = v.trips.toNat
        ∧ at_ 12 1 = v.normalStops.toNat ∧ at_ 13 1 = v.flags.toNat)
    ∧ (∀ (state : ClockState) (valid : Bool),
      (MarkStatus.of state valid).code.toNat = state.code ∧ (MarkStatus.of state valid).valid = valid)
    ∧ [FrameKind.trip, .handover, .mark, .tally].map FrameKind.bodyLength = [9, 13, 11, 14]
    ∧ [HandoverOutcome.early, .onTime, .late, .missed].map HandoverOutcome.code = [1, 2, 3, 4]
    ∧ [ClockState.solo, .joining, .agreed, .holdover, .referenced].map ClockState.code = [0, 1, 2, 3, 4]

/-- The own MARK. Its body at the start condition of its send: its round's day and second, the clock state and time-valid flag,
and the round's reading and edge sender if the open round is its round and has an edge, else the start delay and the own number. Its
place in the send list: an empty MARK place takes it; a MARK of an earlier round there makes way and counts as a late mark, unless
its send has begun, and then the request waits for the end of that send and is taken there. Its drop at the close: removed and
counted late unless it is in a send; a waiting request is dropped and counted late. (The body of a MARK whose round is not open is log 13; a negative start
delay sent as it is, the model's choice of log 43; a MARK of the same round still listed taken as one of an earlier round, the
model's choice of log 40; a waiting request dropped and counted late, the model's choice of log 49.) -/
def Obligations.OwnMarkHandled : Prop :=
  ∀ (s : State) (k : RoundKey) (start : Start),
    let status := MarkStatus.of s.clu.state s.clock.valid
    let fresh : QueuedFrame := ⟨.mark k, s.time.elapsed, 0, false, false⟩
    let listed (l : List QueuedFrame) (c : LineCounters) : State := { s with lif := { s.lif with sendList := l, counters := c } }
    (∀ r reading, s.clu.round = some r → r.key = k → r.ownReading = some reading →
      s.bodyAt (.mark k) start = markBody k status reading r.edgeSender)
      ∧ ((∀ r, s.clu.round = some r → r.key = k → r.ownReading = none) →
          s.bodyAt (.mark k) start = markBody k status (start.date.minus k.boundary) s.lif.nodeNumber)
      ∧ (s.active = false → s.queueMark k = s)
      ∧ (s.active = true → s.lif.sendList.find? QueuedFrame.isMark = none →
          s.queueMark k = listed (insertFrame fresh s.lif.sendList) s.lif.counters)
      ∧ (∀ m, s.active = true → s.lif.sendList.find? QueuedFrame.isMark = some m → m.inSend = false →
          s.queueMark k = listed (insertFrame fresh (s.lif.sendList.eraseP QueuedFrame.isMark)) s.lif.counters.addLateMark)
      ∧ (∀ m, s.active = true → s.lif.sendList.find? QueuedFrame.isMark = some m → m.inSend = true →
          s.queueMark k = { s with lif := { s.lif with waitingMark := some k } })
      ∧ (s.lif.waitingMark = none → s.queueWaiting = s)
      ∧ (s.lif.waitingMark = some k → s.queueWaiting = ({ s with lif := { s.lif with waitingMark := none } }).queueMark k)
      ∧ (s.lif.waitingMark = some k →
          s.dropMark k = { s with lif := { s.lif with waitingMark := none, counters := s.lif.counters.addLateMark } })
      ∧ (∀ m, s.lif.waitingMark ≠ some k → s.lif.sendList.find? (QueuedFrame.isMarkOf k) = some m →
          s.dropMark k = (if m.inSend then s
            else listed (s.lif.sendList.eraseP (QueuedFrame.isMarkOf k)) s.lif.counters.addLateMark))
      ∧ (s.lif.waitingMark ≠ some k → s.lif.sendList.find? (QueuedFrame.isMarkOf k) = none → s.dropMark k = s)

/-- Arbitration lost at a bit the node sent as 1: both wires released, one more arbitration loss, the frame kept in its place
with its attempt count, and the node goes on as a receiver of the frame. A driver fault at a bit sent as 0: both wires released, one
form error unless the frame is counted already, the frame kept. (The bits of a frame: those of each byte, the most significant
first.) A frame whose removal was asked leaves the list instead, a HANDOVER
being reported withdrawn; and a MARK request that waited for the end of the send is taken. (The view left in FRAME and the frame
counted after a driver fault is log 18; WITHDRAWN for a frame removed at its send's end is log 35.) -/
def Obligations.SendBreaksOff : Prop :=
  (∀ (w bit : Nat) (s : State) (snd : Send) (f : QueuedFrame),
    let a := s.after w
    let released (counters : LineCounters) (counted : Bool) (l : List QueuedFrame) : State := { a with lif := { a.lif with
      lclkDriven := false
      ldatDriven := false
      send := none
      joinable := false
      counters := counters
      counted := counted
      sendList := l } }
    let broken (counters : LineCounters) (counted : Bool) : State :=
      if f.removalAsked
        then (released counters counted (a.lif.sendList.eraseP QueuedFrame.inSend)).reportEnd f.content .withdrawn
        else released counters counted (a.lif.sendList.map fun g => if g.inSend then { g with inSend := false } else g)
    a.working = true → a.lif.send = some snd → a.lif.frameInSend = some f →
      ((frameBits snd.bytes)[bit]? = some true →
        exec (.arbitrationLoss w bit) s = .next (broken
          { a.lif.counters with arbitration := satInc a.lif.counters.arbitration } a.lif.counted).queueWaiting.finish)
        ∧ ((frameBits snd.bytes)[bit]? = some false →
            exec (.driverFault w bit) s = .next (broken
              (if a.lif.counted then a.lif.counters else a.lif.counters.addForm) true).queueWaiting.finish))
    ∧ (∀ (bytes : List Byte) (i place : Nat), place < 8 →
      (frameBits bytes)[8 * i + place]? = bytes[i]?.map fun b => b.getLsbD (7 - place))

/-- An attempt of a TRIP, HANDOVER or TALLY frame ends: heard, it leaves the list, and a HANDOVER is reported heard; unheard below
three attempts, it stays with one attempt more; unheard at the third, it leaves the list, counts one unheard send, a SEND FAILED
record is written and a HANDOVER is reported not sent; unheard with its removal asked it leaves the list with no record and no
count, and a HANDOVER is reported withdrawn (log 35). In each case the view is QUIET and both wires are released, and a MARK
request that waited for the end of the send is taken. The report: of a HANDOVER's key whose result has the own frame state PENDING,
it gives that state, HEARD and NOT SENT settling the result, where the result is kept, in its station shift record or as the held
result; a record AWAITING ACCEPTANCE becomes COMPLETE with a settled result and sets the flag. Of another frame, or a result that is
not PENDING, it changes nothing. The SEND FAILED record of an unheard frame: dated now, detail A the kind code without the DISPLACED
bit, detail B a TRIP's input and level, else the shift key. -/
def Obligations.AttemptEnds : Prop :=
  (∀ (w : Nat) (s : State) (snd : Send) (f : QueuedFrame),
    let a := s.after w
    let ended (l : List QueuedFrame) : State := { a with lif := { a.lif with
      lclkDriven := false
      ldatDriven := false
      send := none
      joinable := false
      view := .quiet
      start := none
      counted := false
      highFrom := a.time.elapsed
      sendList := l } }
    let gone := a.lif.sendList.eraseP QueuedFrame.inSend
    let again := a.lif.sendList.map fun g => if g.inSend then { g with inSend := false, attempts := g.attempts + 1 } else g
    a.working = true → a.lif.send = some snd → a.lif.frameInSend = some f → f.kind ≠ .mark →
      exec (.attemptEnd w true) s = .next ((ended gone).reportEnd f.content .heard).queueWaiting.finish
        ∧ (f.removalAsked = true →
            exec (.attemptEnd w false) s = .next ((ended gone).reportEnd f.content .withdrawn).queueWaiting.finish)
        ∧ (f.removalAsked = false → f.attempts + 1 < 3 → exec (.attemptEnd w false) s = .next (ended again).queueWaiting.finish)
        ∧ (f.removalAsked = false → 3 ≤ f.attempts + 1 →
            exec (.attemptEnd w false) s =
              .next ((((ended gone).count LineCounters.addUnheard).sendFailed f.content false).reportEnd f.content
                .notSent).queueWaiting.finish))
    ∧ (∀ (s : State) (c : FrameContent),
      let now : Stamp := ⟨s.clock.date, s.clu.state⟩
      (∀ change i level, c = .trip change i level →
        s.sendFailed c false = s.request .sendFailed now 1 (BitVec.ofNat 32 (16 * i.val + level.toNat)))
        ∧ (∀ k o d due, c = .handover k o d due → s.sendFailed c false = s.request .sendFailed now 2 (keyDetail k))
        ∧ (∀ k v, c = .tally k v → s.sendFailed c false = s.request .sendFailed now 4 (keyDetail k)))
    ∧ (∀ k : ShiftKey, (keyDetail k).toNat = k.day.toNat * 256 + k.index % 256)
    ∧ (∀ (s : State) (c : FrameContent) (own : OwnFrame),
      (c.kind ≠ .handover → s.reportEnd c own = s)
        ∧ (∀ k o d due, c = .handover k o d due →
            (s.shu.resultOf k = none → s.reportEnd c own = s)
              ∧ (∀ r, s.shu.resultOf k = some r → r.own ≠ some .pending → s.reportEnd c own = s)
              ∧ (∀ r, s.shu.resultOf k = some r → r.own = some .pending →
                  s.reportEnd c own = s.giveResult k { r with
                    own := some own
                    settled := r.settled || decide (own = .heard ∨ own = .notSent) })))
    ∧ (∀ (s : State) (k : ShiftKey) (r : Result),
      (s.shu.recordOf k = none → s.giveResult k r = { s with shu := { s.shu with heldResult := some (k, r) } })
        ∧ (∀ x, s.shu.recordOf k = some x →
            let completes := x.status = .awaitingAcceptance ∧ r.settled = true
            (s.giveResult k r).shu = { s.shu with records := (s.giveResult k r).shu.records }
              ∧ (s.giveResult k r).shu.recordOf k = some { x with
                  result := some r
                  status := if completes then .complete else x.status }
              ∧ (∀ k', k' ≠ k → (s.giveResult k r).shu.recordOf k' = s.shu.recordOf k')
              ∧ s.giveResult k r = { s with
                  shu := (s.giveResult k r).shu
                  atl := { s.atl with
                    flags := if completes then s.atl.flags ||| Source.stationShiftComplete.mark else s.atl.flags } }))

/-- The attempt of a MARK ends: its start date is handed back into the own place of the start list, and gives the edge of its round
if that is open and has none; it leaves the list, heard or not; unheard it counts one unheard send; a MARK request that waited for
the end of the send is taken. (The own place set also for a round that has closed is log 14.) -/
def Obligations.MarkAttemptEnds : Prop :=
  ∀ (w : Nat) (heard : Bool) (s : State) (snd : Send) (f : QueuedFrame) (k : RoundKey),
    let a := s.after w
    a.working = true → a.lif.send = some snd → a.lif.frameInSend = some f → f.content = .mark k →
      exec (.attemptEnd w heard) s = .next ({ a with
        lif := { a.lif with
          lclkDriven := false
          ldatDriven := false
          send := none
          joinable := false
          view := .quiet
          start := none
          counted := false
          highFrom := a.time.elapsed
          sendList := a.lif.sendList.eraseP QueuedFrame.inSend
          counters := if heard then a.lif.counters else a.lif.counters.addUnheard }
        clu := { a.clu with
          startList := a.clu.startList.set a.lif.nodeNumber.val (some snd.start)
          round := a.clu.round.map fun (r : Round) => if r.key = k ∧ r.edge = none then { r with
              edge := some ⟨snd.start.date, snd.start.quality⟩
              edgeSender := a.lif.nodeNumber
              ownReading := some (snd.start.date.minus k.boundary) } else r } }).queueWaiting.finish

/-- A frame received intact: one more intact frame and the L1 flash of 100 ms, in every node state; acknowledged in ACTIVE; with
the own node number it sets DUPLICATE ID and is discarded; else in ACTIVE it is delivered with its start date to the owners the
node's roles give; outside ACTIVE to none. (A frame whose start came before OPEN goes out with the start date taken then: the
model's choice, log 42.) Delivery: a TRIP notice is a member with source LINE, or a stray if its date or quality is out of range.
A HANDOVER goes to the Run Unit of a unit node, where the first record of its key that awaits an outcome takes it, or it is
counted unused, and to the Shift Unit of a post (`HandoverReceivedAtPost`). A TALLY goes to the Shift Unit of a post: creating
its key's record if that is later than the last created one, entered while that gathers, in place of one of the same node which
counts as repeated, or else counted unmatched. A MARK sets its sender's place of the start list; opens its round within the 200 ms
before its boundary, if none is open and it is not the last; sets the edge of an open round without one that it is of; a second
one of a sender sets DUPLICATE ID and is discarded then (log 15); else it enters, with the first disposition that holds, in
node-number order; then, and also with no round open, the time test: a sound sender's implied time against the named edge, at
most 1 s old, which is foreign with the time invalid or beyond 200 ms: in JOINING a coarse set, in AGREED the sender listed for
the split test. Each field is read at its place (Tables 12-1 to 12-4); a HANDOVER with an outcome, an index or a time of day out of
range is unusable. (A key later where there is no last created one is the model's choice, log
54. The 200 ms with both ends is log 38, the Run Unit before the Shift Unit log 32, status codes 5 to 7 not
sound log 33: all deduced.) -/
def Obligations.IntactFrameReceived : Prop :=
  (∀ (w : Nat) (header : Byte) (body : List Byte) (check : BitVec 16) (s : State) (st : Start) (kind : FrameKind),
    let a := s.after w
    let heard : State := { a with
      lif := { a.lif with
        view := .quiet
        start := none
        counted := false
        joinable := false
        highFrom := a.time.elapsed
        acked := a.active
        counters := { a.lif.counters with intact := satInc a.lif.counters.intact } }
      atl := { a.atl with flashUntil := some (a.time.elapsed + 100000) } }
    a.working = true → a.lif.view = .frame → a.lif.send = none → a.lif.start = some st → a.lif.counted = false →
      headerKind header = some kind → body.length = kind.bodyLength → crc16 (header :: body) = check →
      (headerNode header = a.lif.nodeNumber →
        exec (.frameReceivedIntact w header body check) s =
          .next ({ heard with atl := { heard.atl with flags := heard.atl.flags ||| Source.duplicateId.mark } }).finish)
        ∧ (headerNode header ≠ a.lif.nodeNumber → a.active = false →
            exec (.frameReceivedIntact w header body check) s = .next heard.finish)
        ∧ (headerNode header ≠ a.lif.nodeNumber → a.active = true →
            exec (.frameReceivedIntact w header body check) s =
              .next (heard.deliver kind (headerNode header) st body).finish))
    ∧ (∀ (s : State) (sender : NodeNo) (st : Start) (body : List Byte),
      let quality := fieldAt body 7 1
      (4 < quality ∨ 86400000000 ≤ fieldAt body 2 5 →
        s.deliver .trip sender st body = { s with csu := { s.csu with stray := satInc s.csu.stray } })
        ∧ (∀ q, q.code = quality → fieldAt body 2 5 < 86400000000 →
            s.deliver .trip sender st body = s.placeMember
              ⟨sender, Fin.ofNat 16 (fieldAt body 8 1 / 16), decide (fieldAt body 8 1 % 2 = 1),
                ⟨⟨BitVec.ofNat 16 (fieldAt body 0 2), fieldAt body 2 5⟩, q⟩, true, ⟨st.date, st.quality⟩⟩))
    ∧ (∀ (s : State) (sender : NodeNo) (st : Start) (body : List Byte),
      let unused : State := { s with run := { s.run with unusedHandovers := satInc s.run.unusedHandovers } }
      let taken := if s.cfg.unitRole then s.unitHandover sender st.quality body else s
      s.deliver .handover sender st body = (if s.cfg.postRole then taken.postHandover sender st.quality body else taken)
        ∧ (readHandover s.cfg.boundaries.length body = none → s.unitHandover sender st.quality body = unused)
        ∧ (∀ k o c d, readHandover s.cfg.boundaries.length body = some (k, o, c, d) →
            ((∀ u ∈ s.tallies.unitShifts, u.key = k → u.acceptance.isSome = true) →
              s.unitHandover sender st.quality body = unused)
              ∧ (∀ before u after, s.tallies.unitShifts = before ++ u :: after →
                  (∀ x ∈ before, x.key = k → x.acceptance.isSome = true) → u.key = k → u.acceptance = none →
                  ∃ v : UnitShift, v.check = unitShiftCheck v
                    ∧ v = { u with acceptance := some ⟨o, ⟨c, st.quality⟩, d, sender⟩, check := v.check }
                    ∧ s.unitHandover sender st.quality body =
                      { s with tallies := { s.tallies with unitShifts := before ++ v :: after } })))
    ∧ (∀ (s : State) (sender : NodeNo) (st : Start) (body : List Byte),
      let x := readTallyBody body
      let k := x.1
      let unmatched : State := { s with shu := { s.shu with unmatched := satInc s.shu.unmatched } }
      let delivered := s.deliver .tally sender st body
      let entered (t : State) (r : StationRecord) : State := { t with shu := { t.shu with
        records := t.shu.records.map fun y => if y.key = k then
          { y with entries := putEntry ⟨sender, some x.2, !s.cfg.expectedUnits.getLsbD sender.val⟩ y.entries } else y
        repeated := if r.entries.any (fun e => decide (e.node = sender)) then satInc t.shu.repeated else t.shu.repeated } }
      (s.cfg.postRole = false → delivered = s)
        ∧ (s.cfg.postRole = true → s.cfg.boundaries.length ≤ k.index → delivered = unmatched)
        ∧ (s.cfg.postRole = true → k.index < s.cfg.boundaries.length →
            (k.laterThan s.shu.lastCreated = true →
              ∀ r, (s.createRecord k).shu.recordOf k = some r → delivered = entered (s.createRecord k) r)
              ∧ (k.laterThan s.shu.lastCreated = false →
                  (∀ r, s.shu.recordOf k = some r → r.status = .gathering → delivered = entered s r)
                    ∧ ((∀ r, s.shu.recordOf k = some r → r.status ≠ .gathering) → delivered = unmatched))))
    ∧ (∀ (s : State) (sender : NodeNo) (st : Start) (body : List Byte),
      let m := readMark body
      let delivered := s.deliver .mark sender st body
      let listed : State := { s with clu := { s.clu with startList := s.clu.startList.set sender.val (some st) } }
      let ahead := m.key.boundary.minus s.clock.date
      let early := m.key.second ≤ 86399 ∧ 0 ≤ ahead ∧ ahead ≤ 200000
      let fresh : Round := ⟨m.key, none, s.lif.nodeNumber, none, []⟩
      let edged (r : Round) : Round :=
        if m.key = r.key ∧ r.edge = none then { r with
          edge := some ⟨st.date, st.quality⟩
          edgeSender := sender
          ownReading := some (st.date.minus r.key.boundary) } else r
      let disposition (r : Round) : Disposition :=
        if m.status.sound = false then .notSound else if m.key ≠ r.key then .foreign
        else if m.edgeSender ≠ r.edgeSender then .edge
        else if m.reading < -200000 ∨ 400000 < m.reading then .outOfSpan else .eligible
      let entered (r : Round) : State := { listed with clu := { listed.clu with round := some { r with
        entries := putRoundEntry ⟨sender, m.status, m.key, m.reading, m.edgeSender, disposition r⟩ r.entries } } }
      (s.clu.round = none → (early ∧ s.clu.lastKey ≠ some m.key) → delivered = (entered (edged fresh)).timeTest sender m)
        ∧ (s.clu.round = none → ¬ (early ∧ s.clu.lastKey ≠ some m.key) → delivered = listed.timeTest sender m)
        ∧ (∀ r, s.clu.round = some r →
            ((∀ e ∈ r.entries, e.node ≠ sender) → delivered = (entered (edged r)).timeTest sender m)
              ∧ ((∃ e ∈ r.entries, e.node = sender) →
                  delivered = { listed with
                    clu := { listed.clu with round := some (edged r) }
                    atl := { s.atl with flags := s.atl.flags ||| Source.duplicateId.mark } })))
    ∧ (∀ (s : State) (sender : NodeNo) (m : MarkBody),
      let implied := m.key.boundary.plus m.reading
      let foreign (e : Start) : Prop := m.status.sound = true ∧ m.key.second ≤ 86399
        ∧ s.clu.startList[m.edgeSender.val] = some e ∧ s.time.elapsed - e.osc ≤ 1000000
        ∧ (s.clock.valid = false ∨ 200000 < (implied.minus e.date).natAbs)
      ((∀ e, ¬ foreign e) → s.timeTest sender m = s)
        ∧ (∀ e, foreign e →
            (s.clu.state = .joining →
              let set := s.abandonRound.stepClock (implied.plus ((s.time.elapsed - e.osc : Nat) : Int)) .coarse
              s.timeTest sender m = ({ set with clu := { set.clu with formation := 0 } }).lockReference)
              ∧ (s.clu.state = .agreed →
                  s.timeTest sender m = { s with clu := { s.clu with
                    foreignSenders := if sender ∈ s.clu.foreignSenders then s.clu.foreignSenders
                      else sender :: s.clu.foreignSenders
                    latestForeign := some ⟨implied, e.osc⟩ } })
              ∧ (s.clu.state ≠ .joining → s.clu.state ≠ .agreed → s.timeTest sender m = s)))
    ∧ (∀ header : Byte, (headerNode header).val = header.toNat % 16
      ∧ headerKind header = (match header.toNat / 16 with
        | 1 => some .trip
        | 2 => some .handover
        | 3 => some .mark
        | 4 => some .tally
        | _ => none))
    ∧ (∀ (n : Nat) (body : List Byte),
      let at_ := fieldAt body
      (at_ 3 1 = 0 ∨ 4 < at_ 3 1 ∨ n ≤ at_ 2 1 ∨ 86400000000 ≤ at_ 6 5 → readHandover n body = none)
        ∧ (∀ o : HandoverOutcome, o.code = at_ 3 1 → at_ 2 1 < n → at_ 6 5 < 86400000000 →
            readHandover n body = some (⟨BitVec.ofNat 16 (at_ 0 2), at_ 2 1⟩, o, ⟨BitVec.ofNat 16 (at_ 4 2), at_ 6 5⟩,
              BitVec.ofNat 16 (at_ 11 2))))
    ∧ (∀ body : List Byte,
      let at_ := fieldAt body
      let m := readMark body
      m.key = ⟨BitVec.ofNat 16 (at_ 0 2), at_ 2 3⟩ ∧ m.status.code.toNat = at_ 5 1 % 8
        ∧ m.status.valid = decide (128 ≤ at_ 5 1) ∧ (m.status.sound = true ↔ at_ 5 1 % 8 = 2 ∨ at_ 5 1 % 8 = 4)
        ∧ m.reading = (if at_ 6 4 < 2147483648 then (at_ 6 4 : Int) else (at_ 6 4 : Int) - 4294967296)
        ∧ m.edgeSender.val = at_ 10 1 % 16)
    ∧ (∀ body : List Byte,
      let at_ := fieldAt body
      readTallyBody body = (⟨BitVec.ofNat 16 (at_ 0 2), at_ 2 1⟩,
        { online := BitVec.ofNat 24 (at_ 3 3), spinning := BitVec.ofNat 24 (at_ 6 3), starts := BitVec.ofNat 8 (at_ 9 1)
          syncs := BitVec.ofNat 8 (at_ 10 1), trips := BitVec.ofNat 8 (at_ 11 1), normalStops := BitVec.ofNat 8 (at_ 12 1)
          flags := BitVec.ofNat 8 (at_ 13 1) }))

/-- A frame whose check differs counts one check error, is not acknowledged, and its stop condition brings the view to QUIET; a form
error counts one form error; each frame counts at most once, so a further error of a counted frame changes no counter. An early stop
or a fall of LDAT ends the frame, while an invalid kind or a clock pulse after the acknowledge bit leaves the view in FRAME; the
contention can no longer be joined. The acknowledge bit has been driven before a clock pulse in place of the stop, and before a
fall of LDAT that follows a matched check, in ACTIVE and for a frame not counted before, or in an earlier row of the same frame. In a node that is itself sending, an early stop, a fall of LDAT and 80 µs of high wires end the frame too: a form error unless it is
counted already, the view QUIET, the send broken off with its frame kept in its place or, its removal asked, withdrawn, and a MARK
request that waited taken; the other causes change nothing there. (Which causes end the frame at once
and which leave the view in FRAME is the model's choice of log 17; what becomes of the send, of log 41.) -/
def Obligations.FaultyFrameCounted : Prop :=
  (∀ (w : Nat) (s : State) (st : Start),
    let a := s.after w
    let after (c : LineCounters) (quiet : Bool) (acked : Bool) : State :=
      { a with lif := { a.lif with
          view := if quiet then .quiet else .frame
          start := if quiet then none else a.lif.start
          joinable := false
          counted := !quiet
          highFrom := if quiet then a.time.elapsed else a.lif.highFrom
          acked := acked
          counters := c } }
    let form := if a.lif.counted then a.lif.counters else a.lif.counters.addForm
    a.working = true → a.lif.view = .frame → a.lif.send = none → a.lif.start = some st →
      (∀ header body check stopped, checkDiffers header body check = true →
        (a.lif.counted = false → exec (.checkError w header body check stopped) s =
          .next (after { a.lif.counters with checkErrors := satInc a.lif.counters.checkErrors } stopped a.lif.acked).finish)
          ∧ (a.lif.counted = true → exec (.checkError w header body check stopped) s = .next a.finish))
        ∧ (∀ header, headerKind header = none →
            exec (.formError w (.invalidKind header)) s = .next (after form false a.lif.acked).finish)
        ∧ exec (.formError w .earlyStop) s = .next (after form true a.lif.acked).finish
        ∧ (∀ matched, exec (.formError w (.ldatFall matched)) s =
            .next (after form true (a.lif.acked || (a.active && matched && !a.lif.counted))).finish)
        ∧ exec (.formError w .clockAfterAck) s = .next (after form false (a.lif.acked || (a.active && !a.lif.counted))).finish)
    ∧ (∀ (w : Nat) (s : State) (snd : Send) (f : QueuedFrame),
      let a := s.after w
      let released (l : List QueuedFrame) : State := { a with lif := { a.lif with
        lclkDriven := false
        ldatDriven := false
        send := none
        joinable := false
        counted := true
        counters := if a.lif.counted then a.lif.counters else a.lif.counters.addForm
        sendList := l } }
      let broken : State :=
        if f.removalAsked then (released (a.lif.sendList.eraseP QueuedFrame.inSend)).reportEnd f.content .withdrawn
        else released (a.lif.sendList.map fun g => if g.inSend then { g with inSend := false } else g)
      let quiet (x : State) (since : Nat) : State := { x with lif := { x.lif with
        view := .quiet
        start := none
        counted := false
        joinable := false
        highFrom := since } }
      a.working = true → a.lif.view = .frame → a.lif.send = some snd → a.lif.frameInSend = some f →
        exec (.formError w .earlyStop) s = .next (quiet broken.queueWaiting a.time.elapsed).finish
          ∧ (∀ matched, exec (.formError w (.ldatFall matched)) s = .next (quiet broken.queueWaiting a.time.elapsed).finish)
          ∧ (∀ matched, a.lif.highFrom + 80 ≤ a.time.elapsed →
              exec (.frameAbandoned ⟨w, matched⟩) s = .next (quiet broken.queueWaiting (a.time.elapsed - 80)).finish)
          ∧ (∀ header, exec (.formError w (.invalidKind header)) s = .next a.finish)
          ∧ exec (.formError w .clockAfterAck) s = .next a.finish)

/-- A TRIP, HANDOVER or TALLY queue request: refused outside ACTIVE, and for a HANDOVER whose key is listed; with fewer than seven
non-MARK frames in the list it takes its place by kind and age; with seven, the last frame of higher kind code that is neither a MARK
nor in a send gives way, or else the new frame is dropped, and the displaced-frames counter rises by one. Of the frame that is
displaced or dropped, a TRIP or HANDOVER asks for a SEND FAILED record with cause DISPLACED, dated now, and a HANDOVER is reported
not sent to the Shift Unit; a TALLY leaves no trace. Nothing else changes. -/
def Obligations.QueueRequestTaken : Prop :=
  ∀ (s : State) (c : FrameContent), c.kind ≠ .mark →
    let fresh : QueuedFrame := ⟨c, s.time.elapsed, 0, false, false⟩
    let others := (s.lif.sendList.filter fun f => !f.isMark).length
    let displaced (l : List QueuedFrame) : State :=
      { s with lif := { s.lif with sendList := l, counters := s.lif.counters.addDisplaced } }
    let recorded (x : State) (code : Nat) (b : BitVec 32) : State :=
      x.request .sendFailed ⟨s.clock.date, s.clu.state⟩ (code + 16) b
    (s.active = false ∨ s.alreadyListed c = true → s.queueFrame c = (s, .refused))
      ∧ (s.active = true → s.alreadyListed c = false → others < 7 →
          s.queueFrame c = ({ s with lif := { s.lif with sendList := insertFrame fresh s.lif.sendList } }, .queued))
      ∧ (∀ before g after, s.active = true → s.alreadyListed c = false → 7 ≤ others →
          s.lif.sendList = before ++ g :: after → displaceable c.kind g = true → (∀ f ∈ after, displaceable c.kind f = false) →
          let swapped := displaced (insertFrame fresh (before ++ after))
          (∀ k v, g.content = .tally k v → s.queueFrame c = (swapped, .queued))
            ∧ (∀ k o d due, g.content = .handover k o d due →
                s.queueFrame c = ((recorded swapped 2 (keyDetail k)).reportEnd g.content .notSent, .queued))
            ∧ (g.kind = .tally ∨ g.kind = .handover))
      ∧ (s.active = true → s.alreadyListed c = false → 7 ≤ others → (∀ f ∈ s.lif.sendList, displaceable c.kind f = false) →
          let dropped := displaced s.lif.sendList
          (∀ change i level, c = .trip change i level → s.queueFrame c =
            (recorded dropped 1 (BitVec.ofNat 32 (16 * i.val + (if level then 1 else 0))), .dropped))
            ∧ (∀ k o d due, c = .handover k o d due →
                s.queueFrame c = ((recorded dropped 2 (keyDetail k)).reportEnd c .notSent, .dropped))
            ∧ (∀ k v, c = .tally k v → s.queueFrame c = (dropped, .dropped)))

/-! ### The clock -/

/-- A step of the clock: the new date, the time valid, P and the spread 0, a CLOCK STEP record request dated with the date after
the step in the clock state in force (log 11), its amount in µs, ms or minutes by its range, truncated toward zero (log 37), and the report to the Shift Unit; a
shift boundary come to before and still to be taken stays unless the step leaves the clock before it (log 48). A change of clock
state: the four counters and the latest foreign sound MARK cleared, a CLOCK STATE record request with the old state, the new state
and the cause, dated now with the new state as its quality, and the CLOCK STATE flag. The report: nothing out of ACTIVE; with no
last reached key (the time was invalid), the latest key at the new date becomes it; else, if the step goes forward, the keys it
crosses, later than the last reached one with boundaries after the old and not after the new date, are handled in ascending order:
the last becomes the last reached one; on a unit node the last four are closed STEPPED, the first of them MERGED if there were more;
on a post records for the last four are created and the machine takes them: a DUE or OVERDUE target is missed; of the crossed keys
later than the last accepted one (those alone counted, R151) up to three before the last are missed without a frame and the last becomes the target, DUE or OVERDUE
by the time since its boundary, or with none it is ON WATCH; a press held stays if it was held for the new target, else it goes
with its UNPAIRED KEY record. Then a post tests R145. (Logs 11, 48 and 51, a round boundary still to be taken dropped, are the model's choices; 31, a press held without a target
dropped after the HANDOVER records of the keys, and 37 are deduced.) -/
def Obligations.StepsAndStateChanges : Prop :=
  (∀ (s : State) (new : Date) (cause : StepCause),
    let stepped : State := { s with
      time := { s.time with spread := 0, spreadDone := 0, boundaryDue := boundaryLanded new }
      shu := { s.shu with keyDue := s.shu.keyDue.filter fun k => !new.earlier (boundaryTime s.cfg.boundaries k) }
      clock := ⟨new, true⟩
      clu := { s.clu with p := 0 } }
    let d := stepAmount (new.minus s.clock.date)
    let t := s.stepClock new cause
    t = (stepped.request .clockStep ⟨new, s.clu.state⟩ (cause.code + d.1 * 4) (BitVec.ofInt 32 d.2)).reportStep s.clock.date new
      ∧ t = { stepped with
          evq := t.evq
          atl := t.atl
          lif := t.lif
          tallies := t.tallies
          shu := t.shu
          lastAccepted := t.lastAccepted })
    ∧ (∀ (s : State) (new : ClockState) (cause : StateCause),
      let changed : State := { s with clu := { s.clu with
        state := new
        formation := 0
        short := 0
        outlier := 0
        split := 0
        latestForeign := none } }
      s.changeState new cause =
        (changed.request .clockState ⟨s.clock.date, new⟩ (s.clu.state.code + new.code * 16) (BitVec.ofNat 32 cause.code)).setFlag
          .clockState)
    ∧ (∀ (s : State) (old new : Date),
      let t := s.reportStep old new
      let post (x : State) : State := if s.cfg.postRole then x.testEarly else x
      let reached (k : ShiftKey) : State := { s with shu := { s.shu with
        lastReached := some k
        keyDue := s.shu.keyDue.filter fun c => c.later k } }
      (s.active = false → t = s)
        ∧ (s.active = true → s.shu.lastReached = none → t = post (reached (latestKeyAt s.cfg.boundaries new)))
        ∧ (∀ last, s.active = true → s.shu.lastReached = some last →
            let crossed := s.crossedKeys last old new
            (new.later old = false → crossed = [])
              ∧ (crossed = [] → t = post s)
              ∧ (∀ front k, crossed = front ++ [k] →
                  let closed := if s.cfg.unitRole then (reached k).closeOrder (closeKeys true false crossed) else reached k
                  (s.cfg.postRole = false → t = closed)
                    ∧ (s.cfg.postRole = true →
                        t = (((lastFour crossed).foldl State.createRecord closed).stepAtPost last old new).testEarly))))
    ∧ (∀ (s : State) (last : ShiftKey) (old new : Date), new.later old = true →
      let plan := s.cfg.boundaries
      let l := s.crossedKeys last old new
      let crosses (x : ShiftKey) : Prop := x.later last = true ∧ (boundaryTime plan x).later old = true
        ∧ (boundaryTime plan x).later new = false
      (∀ x ∈ l, crosses x)
        ∧ (plan ≠ [] → plan.Pairwise (· < ·) → (∀ m ∈ plan, m < 1440) → old.us < 86400000000 → new.us < 86400000000 →
            last.index < plan.length →
            l.Pairwise (fun x y => y.later x = true) ∧ l.length ≤ 5
              ∧ ∀ x, x.index < plan.length → crosses x → x ∈ l ∨ (l.length = 5 ∧ ∀ y ∈ l, y.later x = true)))
    ∧ (∀ (stepped catchUp : Bool) (keys : List ShiftKey),
      let plain (k : ShiftKey) : CloseKey := ⟨k, stepped, catchUp, false⟩
      (keys.length ≤ 4 → closeKeys stepped catchUp keys = keys.map plain)
        ∧ (∀ before k rest, keys = before ++ k :: rest → before ≠ [] → rest.length = 3 →
            closeKeys stepped catchUp keys = ⟨k, stepped, catchUp, true⟩ :: rest.map plain))
    ∧ (∀ (s : State) (keys : List CloseKey),
      s.closeOrder keys = (keys.filter fun c => c.key.laterThan s.tallies.lastClosed).foldl State.closeUnitShift s)
    ∧ (∀ (s : State) (last : ShiftKey) (old new : Date) (accepted : Option ShiftKey), new.later old = true →
      let plan := s.cfg.boundaries
      let l := s.crossedAfter last old new accepted
      let counts (x : ShiftKey) : Prop := x.later last = true ∧ (boundaryTime plan x).later old = true
        ∧ (boundaryTime plan x).later new = false ∧ ∀ k, accepted = some k → x.later k = true
      (∀ x ∈ l, counts x)
        ∧ (plan ≠ [] → plan.Pairwise (· < ·) → (∀ m ∈ plan, m < 1440) → old.us < 86400000000 → new.us < 86400000000 →
            last.index < plan.length →
            l.Pairwise (fun x y => y.later x = true) ∧ l.length ≤ 5
              ∧ ∀ x, x.index < plan.length → counts x → x ∈ l ∨ (l.length = 5 ∧ ∀ y ∈ l, y.later x = true)))
    ∧ (∀ d : Int,
      (d.natAbs ≤ 2147483647 → stepAmount d = (0, d))
        ∧ (2147483647 < d.natAbs → d.natAbs ≤ 2147483647000 → stepAmount d = (1, d.tdiv 1000))
        ∧ (2147483647000 < d.natAbs → stepAmount d = (2, d.tdiv 60000000)))
    ∧ [StepCause.timeSet, .coarse, .round, .reference].map StepCause.code = [0, 1, 2, 3]
    ∧ (∀ (s : State) (last : ShiftKey) (old new : Date),
      let missed := s.missIfDue
      let handled := missed.handleKeys (missed.crossedAfter last old new missed.lastAccepted)
      let t := s.stepAtPost last old new
      (missed.shu.held = none → t = handled)
        ∧ (∀ p, missed.shu.held = some p →
            (handled.target = some p.target → t = { handled with shu := { handled.shu with held := some p } })
              ∧ (handled.target ≠ some p.target → t = { handled.request .unpairedKey p.stamp
                  (match p.key with
                    | .hand => 0
                    | .take => 1)
                  (keyDetail p.target) with shu := { handled.shu with held := none } })))
    ∧ (∀ (s : State) (k : ShiftKey) (front : List ShiftKey),
      let due := dueSeconds s.clock.date (boundaryTime s.cfg.boundaries k)
      let since := s.clock.date.minus (boundaryTime s.cfg.boundaries k)
      let grace : Int := ((s.cfg.graceMin * 60000000 : Nat) : Int)
      let timed (mode : PostState) : State := { s with shu := { s.shu with
        mode := mode
        target := some k
        grace := some ⟨since, s.time.elapsed⟩ } }
      s.handleKeys [] = s.toOnWatch
        ∧ s.handleKeys (front ++ [k]) =
            ((front.drop (front.length - 3)).foldl State.closeWithoutFrame s).targetLast k
        ∧ s.closeWithoutFrame k =
            ({ s.request .handover ⟨s.clock.date, s.clu.state⟩ 4 (keyDetail k) with lastAccepted := some k }).giveResult k
              ⟨.missed, ⟨s.clock.date, s.clu.state⟩, due, none, none, true⟩
        ∧ (since < grace → s.targetLast k = (timed .due).setFlag .handoverDue)
        ∧ (grace ≤ since → s.targetLast k = (timed .overdue).setFlag .handoverOverdue))

/-- OSCILLATOR_SECOND: the smaller of |P| and S, with the sign of P, is taken from P and spread over the second; in ACTIVE the
pulse count is latched and restarts. -/
def Obligations.OscillatorSecondBegins : Prop :=
  ∀ (w : Nat) (s : State),
    let a := s.after w
    a.working = true → a.time.secondStart + 1000000 ≤ a.time.elapsed →
      ∃ amount : Int,
        amount.natAbs = min a.clu.p.natAbs a.cfg.slewUs ∧ (0 ≤ a.clu.p → 0 ≤ amount) ∧ (a.clu.p ≤ 0 → amount ≤ 0)
          ∧ exec (.oscillatorSecond w) s = .next ({ a with
              time := { a.time with secondStart := a.time.secondStart + 1000000, spread := amount, spreadDone := 0 }
              clu := { a.clu with p := a.clu.p - amount }
              spu := if a.active then { a.spu with pulsesLast := a.spu.pulsesNow, pulsesNow := 0 } else a.spu }).finish

/-- ROUND_BOUNDARY: at the own boundary the round opens, unless one is open or its key is that of the last round closed or
abandoned; its MARK is queued if that round is then open, and not otherwise. -/
def Obligations.RoundBoundaryTaken : Prop :=
  ∀ (w : Nat) (s : State) (k : RoundKey),
    let a := s.after w
    let taken : State := { a with time := { a.time with boundaryDue := none } }
    a.active = true → a.clu.state ≠ .solo → a.time.boundaryDue = some k →
      (a.clu.round = none → a.clu.lastKey ≠ some k →
        exec (.roundBoundary w) s = .next (({ taken with clu := { a.clu with
          round := some ⟨k, none, a.lif.nodeNumber, none, []⟩ } }).queueMark k).finish)
        ∧ (∀ r, a.clu.round = some r → r.key = k → exec (.roundBoundary w) s = .next (taken.queueMark k).finish)
        ∧ (∀ r, a.clu.round = some r → r.key ≠ k → exec (.roundBoundary w) s = .next taken.finish)
        ∧ (a.clu.round = none → a.clu.lastKey = some k → exec (.roundBoundary w) s = .next taken.finish)

/-- ROUND_CLOSE: 400 ms after its boundary the open round closes. Its table, edge, edge sender and own reading are kept as the
last closed round with what the close found; it is full exactly when the eligible entries, own entry included, are at least the
quorum; of the used ones, the REFERENCED alone if there is one, the trim is removed from both ends and the midpoint is half the sum
of the lowest and highest left, truncated toward zero; C is the own reading minus it. The transition by the clock state gives
the action kept, P, the state and the clock; then the round's MARK is dropped, and the foreign senders are counted afresh. In
REFERENCED neither P, nor a counter, nor the state changes, and the clock stays (R46); so too out of ACTIVE's states in SOLO. In
AGREED, R43 first: with more foreign senders than the own group the split counter rises, else it is 0; with as many the SPLIT flag
is set; at 3 SPLIT is set, the state becomes JOINING, and the clock is set from the latest foreign sound MARK (action STEP, or NONE
without one: log 16). Below 3, R44: a short round raises the short counter, at the limit HOLDOVER; a full round clears it, within
the bound P becomes −C and the outlier counter 0, beyond it the outlier counter rises, at 2 JOINING. -/
def Obligations.RoundCloses : Prop :=
  (∀ (w : Nat) (s : State) (r : Round),
    let a := s.after w
    let table := a.tableAtClose r
    let full := decide (a.cfg.quorum ≤ (table.filter RoundEntry.eligible).length)
    let readings := sortReadings ((usedEntries table).map RoundEntry.reading)
    let trim := min a.cfg.trim ((readings.length - 1) / 2)
    let mid := (readings.getD trim 0 + readings.getD (readings.length - 1 - trim) 0).tdiv 2
    let v : CloseValues :=
      if full then ⟨table, true, readings.length, trim, mid, r.ownReading.getD 0 - mid⟩ else ⟨table, false, 0, 0, 0, 0⟩
    let x := ({ a with clu := { a.clu with round := none, lastKey := some r.key } }).closeTransition r v
    let dropped := x.1.dropMark r.key
    a.active = true → a.clu.round = some r → 400000 ≤ a.clock.date.minus r.key.boundary →
      exec (.roundClose w) s = .next ({ dropped with clu := { dropped.clu with
          lastClosed := some ⟨r.key, full, a.clu.state, r.edge, r.edgeSender, r.ownReading, v.used, v.trim, v.midpoint,
            v.correction, x.2, table⟩
          foreignSenders := [] } }).finish
        ∧ Goes (exec (.roundClose w) s) fun t =>
          t.clu.round = none ∧ t.clu.lastKey = some r.key ∧ t.clu.foreignSenders = []
            ∧ t.clu.startList = a.clu.startList ∧ t.clu.monitor = a.clu.monitor
            ∧ (t.clu.p = x.1.clu.p ∧ t.clu.state = x.1.clu.state ∧ t.clock = x.1.clock)
            ∧ (a.clu.state = .referenced ∨ a.clu.state = .solo → ∃ c, t.clu = { a.clu with
                round := none, lastKey := some r.key, lastClosed := some c, foreignSenders := [] } ∧ c.action = .none
                  ∧ t.clock = a.clock)
            ∧ t = { a with
                time := t.time
                clock := t.clock
                clu := t.clu
                lif := t.lif
                evq := t.evq
                tallies := t.tallies
                shu := t.shu
                lastAccepted := t.lastAccepted
                atl := t.atl }
            ∧ t.tallies.tally = a.tallies.tally ∧ t.time.elapsed = a.time.elapsed)
    ∧ (∀ l : List Int, (sortReadings l).Perm l ∧ (sortReadings l).Pairwise (· ≤ ·))
    ∧ (∀ table : List RoundEntry,
      let eligible := table.filter RoundEntry.eligible
      let referenced := eligible.filter fun e => decide (e.status.code.toNat = 4)
      usedEntries table = if referenced = [] then eligible else referenced)
    ∧ (∀ (s : State) (r : Round) (v : CloseValues), s.clu.state = .agreed →
      let foreign := s.clu.foreignSenders.length
      let group := (r.entries.filter RoundEntry.eligible).length + 1
      let split := if group < foreign then s.clu.split + 1 else 0
      let tested : State := { s with
        clu := { s.clu with split := split }
        atl := { s.atl with flags := if foreign = group then s.atl.flags ||| Source.split.mark else s.atl.flags } }
      let short := s.clu.short + 1
      let outlier := s.clu.outlier + 1
      (3 ≤ split →
        let left := (tested.setFlag .split).changeState .joining .split
        (s.clu.latestForeign = none → s.closeTransition r v = (left, .none))
          ∧ (∀ f, s.clu.latestForeign = some f → s.closeTransition r v = (left.coarseSet f, .step)))
        ∧ (split < 3 → v.full = false →
            let counted : State := { tested with clu := { tested.clu with short := short } }
            s.closeTransition r v =
              (if s.cfg.shortLimit ≤ short then counted.changeState .holdover .shortRounds else counted, .none))
        ∧ (split < 3 → v.full = true → v.correction.natAbs ≤ s.cfg.boundUs →
            s.closeTransition r v = ({ tested with
              time := { s.time with spread := 0, spreadDone := 0 }
              clu := { tested.clu with short := 0, outlier := 0, p := -v.correction } }, .slew))
        ∧ (split < 3 → v.full = true → s.cfg.boundUs < v.correction.natAbs →
            let counted : State := { tested with clu := { tested.clu with short := 0, outlier := outlier } }
            s.closeTransition r v =
              (if 2 ≤ outlier then counted.changeState .joining .outliers else counted, .none)))
    ∧ (∀ (s : State) (r : Round) (v : CloseValues), s.clu.state = .referenced ∨ s.clu.state = .solo →
      s.closeTransition r v = (s, .none))

/-- R45: at a round close in HOLDOVER. A short round changes nothing. A full round within the bound makes P −C and the state
AGREED with cause FULL ROUND. A full round beyond it neither slews nor steps, and the state becomes JOINING with cause LARGE
CORRECTION, in which the next full round steps or slews as R41 says. In HOLDOVER no MARK causes a coarse set (the time test
changes nothing), and the split test is not made (the split counter and the SPLIT flag take no part). -/
def Obligations.HoldoverRoundClose : Prop :=
  ∀ (s : State) (r : Round) (v : CloseValues), s.clu.state = .holdover →
    (v.full = false → s.closeTransition r v = (s, .none))
      ∧ (v.full = true → v.correction.natAbs ≤ s.cfg.boundUs →
          s.closeTransition r v = ((s.replaceP (-v.correction)).changeState .agreed .fullRound, .slew)
            ∧ (s.closeTransition r v).1.clu.p = -v.correction ∧ (s.closeTransition r v).1.clu.state = .agreed)
      ∧ (v.full = true → s.cfg.boundUs < v.correction.natAbs →
          s.closeTransition r v = (s.changeState .joining .largeCorrection, .none)
            ∧ (s.closeTransition r v).1.clock = s.clock ∧ (s.closeTransition r v).1.clu.p = s.clu.p
            ∧ (s.closeTransition r v).1.clu.state = .joining
            ∧ ∀ r' v', v'.full = true →
                (s.closeTransition r v).1.closeTransition r' v' = (s.closeTransition r v).1.joiningFull v'.correction)
      ∧ (∀ sender m, s.timeTest sender m = s)
      ∧ ((s.closeTransition r v).1.atl.flags.getLsbD 6 = s.atl.flags.getLsbD 6)

/-- At a round close in JOINING: a full round beyond the bound steps the clock to its date minus C with cause ROUND, one within it
makes P −C; the state becomes AGREED with cause FULL ROUND (unless the step made the time valid with the monitor LOCKED, which makes
it REFERENCED: the model's choice, log 34); a short round keeps the clock and P, sets the formation counter to 0 if the table holds a sound entry, else adds one to it up to the
formation wait, and founds (AGREED) only with the time valid and a
number below that of every JOINING sender with valid time, at a close that leaves the formation counter at the formation wait and
whose table holds no sound entry. -/
def Obligations.JoiningRoundClose : Prop :=
  ∀ (s : State) (r : Round) (v : CloseValues), s.clu.state = .joining →
    (v.full = true → s.cfg.boundUs < v.correction.natAbs → (s.clock.valid = true ∨ s.clu.monitor.isLocked = false) →
      s.closeTransition r v =
        ((s.stepClock (s.clock.date.plus (-v.correction)) .round).changeState .agreed .fullRound, .step))
      ∧ (v.full = true → s.cfg.boundUs < v.correction.natAbs → s.clock.valid = false → s.clu.monitor.isLocked = true →
          s.closeTransition r v =
            ((s.stepClock (s.clock.date.plus (-v.correction)) .round).changeState .referenced .referenceLock, .step))
      ∧ (v.full = true → v.correction.natAbs ≤ s.cfg.boundUs →
          s.closeTransition r v = ((s.replaceP (-v.correction)).changeState .agreed .fullRound, .slew))
      ∧ (v.full = false → s.closeTransition r v = (s.formationClose r, .none)
          ∧ (s.formationClose r).clock = s.clock ∧ (s.formationClose r).clu.p = s.clu.p
          ∧ ((s.formationClose r).clu.state = .agreed ↔
              (∀ e ∈ r.entries, e.status.sound = false) ∧ s.cfg.formationWait ≤ s.clu.formation + 1 ∧ s.clock.valid = true
                ∧ ∀ e ∈ r.entries, e.status.code.toNat = 1 → e.status.valid = true → s.lif.nodeNumber < e.node)
          ∧ ((∃ e ∈ r.entries, e.status.sound = true) →
              s.formationClose r = { s with clu := { s.clu with formation := 0 } })
          ∧ ((∀ e ∈ r.entries, e.status.sound = false) →
              let counted : State := { s with clu := { s.clu with formation := min (s.clu.formation + 1) s.cfg.formationWait } }
              s.formationClose r = if (s.formationClose r).clu.state = .agreed then counted.changeState .agreed .founded
                else counted))

/-- REFSEC_EDGE: the first edge starts timing; an interval within 1 s ± 100 µs is good and any other bad. In SEARCHING three good
ones raise the count, the fourth locks and takes JOINING, AGREED or HOLDOVER with the time valid to REFERENCED. In LOCKED a good one
clears the bad count; the second bad one in a row returns the monitor to SEARCHING, which is the reference loss. A good edge in
REFERENCED disciplines the clock: with the offset, the microsecond of day modulo 1,000,000 folded to −500,000 … +499,999, within the
bound P becomes minus the offset; beyond it the clock is stepped by minus the offset, and a round that was open and whose boundary plus 400 ms the step reached or
passed is closed at once (`RoundCloses`). -/
def Obligations.ReferenceEdgeTaken : Prop :=
  (∀ (w : Nat) (s : State),
    let a := s.after w
    let now := a.time.elapsed
    let timed (m : Monitor) : State := { a with clu := { a.clu with refEdge := some now, refMark := now, monitor := m } }
    a.working = true →
      (a.clu.refEdge = none → exec (.refsecEdge w) s = .next (timed a.clu.monitor).finish)
        ∧ (∀ e n, a.clu.refEdge = some e → 999900 ≤ now - e → now - e ≤ 1000100 → a.clu.state ≠ .referenced →
            (a.clu.monitor = .searching n → n < 3 → exec (.refsecEdge w) s = .next (timed (.searching (n + 1))).finish)
              ∧ (a.clu.monitor = .locked n → exec (.refsecEdge w) s = .next (timed (.locked 0)).finish)
              ∧ (a.clu.monitor = .searching 3 → (a.clock.valid = false ∨ a.clu.state = .solo) →
                  exec (.refsecEdge w) s = .next (timed (.locked 0)).finish)
              ∧ (a.clu.monitor = .searching 3 → a.clock.valid = true → a.clu.state ≠ .solo →
                  exec (.refsecEdge w) s =
                    .next (((timed (.locked 0)).changeState .referenced .referenceLock).discipline).finish))
        ∧ (∀ e n, a.clu.refEdge = some e → 999900 ≤ now - e → now - e ≤ 1000100 → a.clu.state = .referenced →
            a.clu.monitor = .locked n → exec (.refsecEdge w) s = .next (timed (.locked 0)).discipline.finish)
        ∧ (∀ e n, a.clu.refEdge = some e → (now - e < 999900 ∨ 1000100 < now - e) →
            (a.clu.monitor = .searching n → exec (.refsecEdge w) s = .next (timed (.searching 0)).finish)
              ∧ (a.clu.monitor = .locked 0 → exec (.refsecEdge w) s = .next (timed (.locked 1)).finish)
              ∧ (a.clu.monitor = .locked 1 → exec (.refsecEdge w) s = .next (timed (.searching 0)).loseReference.finish)))
    ∧ (∀ s : State,
      let off := offsetOf s.clock.date.us
      off ≤ 499999 ∧ -500000 ≤ off ∧ (1000000 : Int) ∣ (s.clock.date.us : Int) - off
        ∧ (off.natAbs ≤ s.cfg.boundUs → s.discipline = s.replaceP (-off))
        ∧ (s.cfg.boundUs < off.natAbs →
            let stepped := s.stepClock (s.clock.date.plus (-off)) .reference
            (s.clu.round = none → s.discipline = stepped)
              ∧ (∀ r, s.clu.round = some r →
                  (s.active = true → 400000 ≤ (s.clock.date.plus (-off)).minus r.key.boundary → s.discipline = stepped.closeRound r)
                    ∧ (s.active = false ∨ (s.clock.date.plus (-off)).minus r.key.boundary < 400000 → s.discipline = stepped))))

/-- REFSEC_SILENCE: 1.5 s without an edge is one bad interval, and the next edge starts timing afresh. The reference loss makes
REFERENCED HOLDOVER with cause REFERENCE LOST and sets REFERENCE LOST, P as it stands; in any other clock state it changes
nothing. -/
def Obligations.ReferenceSilenceTaken : Prop :=
  (∀ (w : Nat) (s : State),
    let a := s.after w
    let silent (m : Monitor) : State := { a with clu := { a.clu with
      refEdge := none
      refMark := a.clu.refMark + 1500000
      monitor := m } }
    a.working = true → a.clu.refMark + 1500000 ≤ a.time.elapsed →
      (∀ n, a.clu.monitor = .searching n → exec (.refsecSilence w) s = .next (silent (.searching 0)).finish)
        ∧ (a.clu.monitor = .locked 0 → exec (.refsecSilence w) s = .next (silent (.locked 1)).finish)
        ∧ (a.clu.monitor = .locked 1 → exec (.refsecSilence w) s = .next (silent (.searching 0)).loseReference.finish))
    ∧ (∀ s : State,
      (s.clu.state ≠ .referenced → s.loseReference = s)
        ∧ (s.clu.state = .referenced → s.loseReference.clu.state = .holdover ∧ s.loseReference.clu.p = s.clu.p
            ∧ s.loseReference = (s.changeState .holdover .referenceLost).setFlag .referenceLost))

/-! ### Contact inputs -/

/-- SAMPLE_SLOT: a slot samples its inputs, in the plain sweep (no input fast) the group of four that its place in the cycle of
four names, in the emphasis sweep (a cycle of eight) the fast inputs in the even places and a group without them in the odd ones;
the next slot is 125 µs after this one's own moment. A sample that equals the qualified level ends the run; one that differs and
does not complete it adds one, the first keeping its date, quality and elapsed time; a first sample and a completing one are owed
to FIRST_SAMPLE and QUALIFIED_CHANGE (the model's division, log 28); inputs of other slots, and those owed one, are left as they
are. FIRST_SAMPLE: the first sample sets the qualified level, with run count 0, writing no record for the input; the BREAKER
input's level goes to the Run Unit as a breaker level dated with its sample. -/
def Obligations.SamplesTaken : Prop :=
  (∀ (w : Nat) (levels : BitVec 16) (s : State),
    let a := s.after w
    a.active = true → a.isc.nextSlotAt ≤ a.time.elapsed →
      Goes (exec (.sampleSlot w levels) s) fun t =>
        t.isc.nextSlotAt = a.isc.nextSlotAt + 125 ∧ t.isc.slot = (a.isc.slot + 1) % a.cfg.cycle
          ∧ t = { a with isc := t.isc, pins := { a.pins with inputs := levels }, atl := t.atl }
          ∧ ∀ n : InputNo,
            let active := levelOf (a.inputCfg n) (levels.getLsbD n.val)
            let i := a.input n
            let now : Start := ⟨a.clock.date, a.clu.state, a.time.elapsed⟩
            let began := if i.run = 0 then now else i.first.getD now
            (a.cfg.samples a.isc.slot n = false → t.input n = i)
              ∧ (i.owed ≠ .none → t.input n = i)
              ∧ (a.cfg.samples a.isc.slot n = true → i.owed = .none →
                  (i.level = none → t.input n = { i with owed := .first active ⟨a.clock.date, a.clu.state⟩ })
                    ∧ (i.level = some active → t.input n = { i with run := 0, first := none })
                    ∧ (i.level = some (!active) → i.run + 1 < a.qualCount n →
                        t.input n = { i with run := i.run + 1, first := some began })
                    ∧ (i.level = some (!active) → a.qualCount n ≤ i.run + 1 → t.input n = { i with owed := .change began })))
    ∧ (∀ c : NodeConfig,
      ((∀ n : InputNo, c.inputs[n.val].fast = false) →
        c.cycle = 4 ∧ ∀ (slot : Nat) (n : InputNo), c.samples slot n = true ↔ n.val / 4 = slot)
        ∧ ((∃ n : InputNo, c.inputs[n.val].fast = true) →
            c.cycle = 8 ∧ ∀ (slot : Nat) (n : InputNo), c.samples slot n = true ↔
              (slot % 2 = 0 ∧ c.inputs[n.val].fast = true)
                ∨ (slot % 2 = 1 ∧ n.val / 4 = slot / 2 ∧ c.inputs[n.val].fast = false)))
    ∧ (∀ (w : Nat) (n : InputNo) (high : Bool) (stamp : Stamp) (s : State),
      let a := s.after w
      let level := levelOf (a.inputCfg n) high
      let set := a.setInput n { a.input n with level := some level, run := 0, first := none, owed := .none }
      a.active = true → (a.input n).owed = .first level stamp →
        ((a.inputCfg n).role ≠ .breaker → exec (.firstSample w n high) s = .next set.finish)
          ∧ ((a.inputCfg n).role = .breaker → exec (.firstSample w n high) s = .next (set.breakerLevel level stamp).finish))

/-- QUALIFIED_CHANGE of an input that is not LOCKED: the level becomes the opposite one, the run ends, the window's expiry is the
first sample's elapsed time plus Tc and its count one higher; a change whose direction is selected asks for an INPUT CHANGE record
dated with the first sample; then the change is handed on by cascade flag and role; and at Nc the input locks. Content: the count after a change is 1 from
QUIET and one more in COUNTING; a lock sets the input LOCKED with nothing suppressed, asks for a CHATTER LOCK record dated with the
change and sets the flag; a cascade input's change is placed as a local member, heard now, and its TRIP notice queued; by role the
BREAKER input's level goes to the Run Unit and a key's change to ACTIVE to the Shift Unit as a press; nothing else is handed on. -/
def Obligations.ChangeQualifies : Prop :=
  (∀ (w : Nat) (n : InputNo) (s : State) (level : Bool) (first : Start),
    let a := s.after w
    let change : Stamp := ⟨first.date, first.quality⟩
    let expiry := first.osc + a.cfg.chatterMs * 1000
    let count := (a.input n).chatter.countAfter
    let moved := a.setInput n ⟨some (!level), 0, none, .counting expiry count, .none⟩
    let recorded := moved.request .inputChange change (n.val + bitAt 4 (!level) + bitAt 5 (!level)) 0
    let handed :=
      if (a.inputCfg n).edges.selects (!level) then
        if (a.inputCfg n).cascade then (recorded.localMember n (!level) change).handByRole n (!level) change
        else recorded.handByRole n (!level) change
      else moved.handByRole n (!level) change
    a.active = true → (a.input n).level = some level → (a.input n).owed = .change first →
      (a.input n).locked = false →
      exec (.qualifiedChange w n) s =
        .next (if a.cfg.chatterCount ≤ count then handed.lockInput n (!level) change expiry else handed).finish)
    ∧ (Chatter.quiet.countAfter = 1 ∧ ∀ expiry count, (Chatter.counting expiry count).countAfter = count + 1)
    ∧ (∀ (s : State) (n : InputNo) (level : Bool) (change : Stamp) (expiry : Nat),
      let i := s.input n
      s.lockInput n level change expiry =
        (({ s with isc := { s.isc with inputs := s.isc.inputs.set n.val { i with chatter := .locked expiry 0 none } } }).request
          .chatterLock change (n.val + (if level then 16 else 0)) 0).setFlag .chatterLock)
    ∧ (∀ (s : State) (n : InputNo) (level : Bool) (change : Stamp),
      s.localMember n level change =
          ((s.placeMember ⟨s.lif.nodeNumber, n, level, change, false, ⟨s.clock.date, s.clu.state⟩⟩).queueFrame
            (.trip change n level)).1
        ∧ ((s.inputCfg n).role = .none → s.handByRole n level change = s)
        ∧ ((s.inputCfg n).role = .breaker → s.handByRole n level change = s.breakerLevel level change)
        ∧ ((s.inputCfg n).role = .handKey → s.handByRole n level change = if level then s.press .hand change else s)
        ∧ ((s.inputCfg n).role = .takeKey → s.handByRole n level change = if level then s.press .take change else s))

/-- QUALIFIED_CHANGE of a LOCKED input: the level and the window move, the suppressed count rises by one and stops at 65,535, the
date is kept as the last suppressed date, and nothing is handed on. CHATTER_WINDOW_EXPIRY: a COUNTING input becomes QUIET and nothing
is written; a LOCKED one is released with its CHATTER RELEASE record, and the BREAKER input's level goes to the Run Unit, dated
with the last suppressed date, if it differs from the one last handed on. -/
def Obligations.ChatterSuppressesAndReleases : Prop :=
  ∀ (w : Nat) (n : InputNo) (s : State),
    let a := s.after w
    a.active = true →
      (∀ level first expiry suppressed last, (a.input n).level = some level → (a.input n).owed = .change first →
        (a.input n).chatter = .locked expiry suppressed last →
        exec (.qualifiedChange w n) s = .next (a.setInput n ⟨some (!level), 0, none,
          .locked (first.osc + a.cfg.chatterMs * 1000) (satInc suppressed) (some ⟨first.date, first.quality⟩), .none⟩).finish)
        ∧ (∀ expiry count, (a.input n).chatter = .counting expiry count → expiry ≤ a.time.elapsed →
            exec (.chatterWindowExpiry w n) s = .next (a.setInput n { a.input n with chatter := .quiet }).finish)
        ∧ (∀ level expiry suppressed last, (a.input n).level = some level →
            (a.input n).chatter = .locked expiry suppressed last → expiry ≤ a.time.elapsed →
            let released := (a.setInput n { a.input n with chatter := .quiet }).request .chatterRelease
              ⟨a.clock.date, a.clu.state⟩ (n.val + bitAt 4 level) (suppressed.zeroExtend 32)
            ((a.inputCfg n).role ≠ .breaker ∨ last = none ∨ level = a.run.breakerClosed →
              exec (.chatterWindowExpiry w n) s = .next released.finish)
              ∧ (∀ date, (a.inputCfg n).role = .breaker → last = some date → level ≠ a.run.breakerClosed →
                  exec (.chatterWindowExpiry w n) s = .next (released.breakerLevel level date).finish))

/-! ### Cascades and stops -/

/-- A member is placed by the first test its date meets: with no cascade open, late to the newest listed cascade that covers it, else
it opens one; with one open, inserted if that covers it, else late to a listed one, else after the span to the pending opener
slot, else a stray. Content: a cascade covers a date at most W before or after its opening date. A member inserted is discarded if
one with its node, input and date is stored; with 24 stored it sets FULL and is counted not stored; else it is stored in member
order (date, node, input), and one of no sound quality sets DOUBTFUL. A member late to a cascade is discarded if it is stored there,
else sets LATE and is counted. In the slot of the pending opener the same member is discarded, the earlier dated of two stays, the
occupant on equal dates, and the other is a stray. -/
def Obligations.MemberIsPlaced : Prop :=
  (∀ (s : State) (m : Member),
    let w := s.cfg.spanMs
    let covers := fun c : Cascade => c.covers w m.stamp.date
    let late : State := { s with csu := { s.csu with list := changeLast covers (fun c => c.addLate m) s.csu.list } }
    (s.csu.current = none → s.csu.list.any covers = true → s.placeMember m = late)
      ∧ (s.csu.current = none → s.csu.list.any covers = false →
          s.placeMember m = { s with csu := { s.csu with current := some ⟨
            ⟨m.stamp, m.node, [m], !m.stamp.quality.sound, false, false, 0, 0⟩,
            s.time.elapsed + (s.cfg.spanMs + s.cfg.settleMs) * 1000⟩ } })
      ∧ (∀ o, s.csu.current = some o → covers o.cascade = true →
          s.placeMember m = { s with csu := { s.csu with current := some { o with cascade := o.cascade.insert m } } })
      ∧ (∀ o, s.csu.current = some o → covers o.cascade = false → s.csu.list.any covers = true → s.placeMember m = late)
      ∧ (∀ o, s.csu.current = some o → covers o.cascade = false → s.csu.list.any covers = false →
          m.stamp.date.later (o.cascade.spanEnd w) = true → s.placeMember m = s.toSlot m)
      ∧ (∀ o, s.csu.current = some o → covers o.cascade = false → s.csu.list.any covers = false →
          m.stamp.date.later (o.cascade.spanEnd w) = false →
          s.placeMember m = { s with csu := { s.csu with stray := satInc s.csu.stray } }))
    ∧ (∀ (c : Cascade) (spanMs : Nat) (d : Date),
      let us : Int := ((spanMs * 1000 : Nat) : Int)
      c.spanEnd spanMs = c.opening.date.plus us
        ∧ (c.covers spanMs d = true ↔ d.earlier (c.opening.date.plus (-us)) = false ∧ d.later (c.opening.date.plus us) = false))
    ∧ (∀ (p : Cascade → Bool) (f : Cascade → Cascade) (before : List Cascade) (c : Cascade) (newer : List Cascade),
      p c = true → (∀ x ∈ newer, p x = false) → changeLast p f (before ++ c :: newer) = before ++ f c :: newer)
    ∧ (∀ (c : Cascade) (m : Member),
      let stored := ∃ x ∈ c.members, m.node = x.node ∧ m.input = x.input ∧ m.stamp.date = x.stamp.date
      let precedes (x : Member) : Prop := m.stamp.date.earlier x.stamp.date = true
        ∨ (m.stamp.date = x.stamp.date ∧ (m.node < x.node ∨ (m.node = x.node ∧ m.input < x.input)))
      (stored → c.insert m = c ∧ c.addLate m = c)
        ∧ (¬ stored → c.addLate m = { c with late := true, lateCount := satInc c.lateCount })
        ∧ (¬ stored → 24 ≤ c.members.length → c.insert m = { c with full := true, notStored := satInc c.notStored })
        ∧ (¬ stored → c.members.length < 24 → ∃ before rest, c.members = before ++ rest
            ∧ c.insert m = { c with members := before ++ m :: rest, doubtful := c.doubtful || !m.stamp.quality.sound }
            ∧ (∀ x ∈ before, ¬ precedes x) ∧ (∀ x after, rest = x :: after → precedes x)))
    ∧ (∀ (s : State) (m : Member),
      (s.csu.slot = none → s.toSlot m = { s with csu := { s.csu with slot := some m } })
        ∧ (∀ o, s.csu.slot = some o →
            let same := m.node = o.node ∧ m.input = o.input ∧ m.stamp.date = o.stamp.date
            (same → s.toSlot m = s)
              ∧ (¬ same → m.stamp.date.earlier o.stamp.date = true →
                  s.toSlot m = { s with csu := { s.csu with slot := some m, stray := satInc s.csu.stray } })
              ∧ (¬ same → m.stamp.date.earlier o.stamp.date = false →
                  s.toSlot m = { s with csu := { s.csu with stray := satInc s.csu.stray } })))

/-- CASCADE_CLOSE: the close timer has expired. The cascade goes to the list, from which the oldest of four is lost; its CASCADE
CLOSED record and flag; on a unit node the Run Unit takes the close notice (`CloseNoticeDecides`); then the pending opener leaves its slot and opens the next cascade. -/
def Obligations.CascadeCloses : Prop :=
  ∀ (w : Nat) (s : State) (o : OpenCascade),
    let a := s.after w
    let c := o.cascade
    let t := a.closeCascade c
    let flags := c.members.length + (if c.doubtful then 32 else 0) + (if c.full then 64 else 0)
    let noted := (({ a with csu := a.csu.addClosed c }).request .cascadeClosed c.opening flags (cascadeDetail c)).setFlag .cascadeClosed
    a.active = true → a.csu.current = some o → o.closeAt ≤ a.time.elapsed →
      exec (.cascadeClose w) s = .next t.finish
        ∧ (a.cfg.unitRole = false → t = noted.openPending)
        ∧ (a.cfg.unitRole = true → t = (noted.closeNotice c).openPending)
        ∧ (a.csu.list.length < 4 → t.csu.list = a.csu.list ++ [c] ∧ t.csu.lost = a.csu.lost)
        ∧ (4 ≤ a.csu.list.length → t.csu.list = a.csu.list.drop 1 ++ [c] ∧ t.csu.lost = satInc a.csu.lost)
        ∧ t.csu.slot = none ∧ t.csu.stray = a.csu.stray
        ∧ (a.csu.slot = none → t.csu.current = none)
        ∧ (∀ m, a.csu.slot = some m → t.csu.current = some ⟨
            ⟨m.stamp, m.node, [m], !m.stamp.quality.sound, false, false, 0, 0⟩,
            a.time.elapsed + (a.cfg.spanMs + a.cfg.settleMs) * 1000⟩)
        ∧ t.atl.flags.getLsbD 2 = true
        ∧ t = { a with csu := t.csu, evq := t.evq, run := t.run, tallies := t.tallies, atl := t.atl }
        ∧ (a.run.stop = none ∨ a.cfg.unitRole = false → t.run = a.run ∧ t.tallies = a.tallies)
        ∧ (a.evq.records.length < 255 → ∃ r rest, t.evq.records = a.evq.records ++ r :: rest ∧ r.kind = .cascadeClosed
            ∧ r.stamp = c.opening)

/-- R101, R103: a close notice at the Run Unit. While a stop is WAITING, it makes the stop TRIP if the closed cascade covers its
date and qualifies, that cascade deciding; a cascade that does not qualify or does not cover leaves the stop WAITING with its
deadline. A stop AWAITING CLOSE is decided by the notice for the cascade whose key it holds, TRIP if that qualifies and NORMAL if
not, and by no other notice and no deadline. With no stop awaiting classification it changes nothing. -/
def Obligations.CloseNoticeDecides : Prop :=
  ∀ (s : State) (c : Cascade),
    let noFlag : StopFlags := ⟨false, false, false⟩
    (s.run.stop = none → s.closeNotice c = s)
      ∧ (∀ x deadline, s.run.stop = some x → x.phase = .waiting deadline →
          (c.covers s.cfg.spanMs x.stamp.date = true → s.qualifies c = true →
            s.closeNotice c = s.classify x c.firstOut noFlag ∧ c.firstOut.isSome = true)
            ∧ (c.covers s.cfg.spanMs x.stamp.date = false ∨ s.qualifies c = false → s.closeNotice c = s))
      ∧ (∀ x opening opener, s.run.stop = some x → x.phase = .awaitingClose opening opener →
          (c.opening.date = opening → c.opener = opener →
            (s.qualifies c = true → s.closeNotice c = s.classify x c.firstOut noFlag ∧ c.firstOut.isSome = true)
              ∧ (s.qualifies c = false → s.closeNotice c = s.classify x none noFlag))
            ∧ (c.opening.date ≠ opening ∨ c.opener ≠ opener → s.closeNotice c = s)
            ∧ ∀ w, exec (.stopDeadline w) s = .next (s.after w).finish)

/-- STOP_DEADLINE: a WAITING stop's deadline has come. The open cascade that covers its date is awaited; else the oldest
qualifying cascade of the list that covers it makes it TRIP; else it is NORMAL. And a stop classified writes one STOP CLASSIFIED
record with its date (detail A the bits TRIP, SUPERSEDED, OUTAGE and RESET, detail B for TRIP the first-out's node and input, and the
milliseconds since the stop was taken, truncated, at most 16,777,215), adds one to exactly one of the trip count and the normal stop count, which hold at their highest value, and no
longer waits; nothing else changes. Every increase of the tally: a start, sync, trip, normal stop or tenth adds one to its field
and leaves it at its highest value, where an increase held back sets SATURATED; the revolutions return to 0 without a flag; an
outage adds its tenths up to the highest value; the other fields and flags stay. (An outage that carries the field past its highest
value sets SATURATED at once: the model's choice, log 44.) -/
def Obligations.StopDeadlineDecides : Prop :=
  (∀ (w : Nat) (s : State) (x : Stop) (deadline : Nat),
    let a := s.after w
    let span := a.cfg.spanMs
    a.active = true → a.run.stop = some x → x.phase = .waiting deadline → deadline ≤ a.time.elapsed →
      (∀ o, a.csu.current = some o → o.cascade.covers span x.stamp.date = true →
        exec (.stopDeadline w) s = .next ({ a with run := { a.run with
          stop := some { x with phase := .awaitingClose o.cascade.opening.date o.cascade.opener } } }).finish)
        ∧ ((∀ o, a.csu.current = some o → o.cascade.covers span x.stamp.date = false) →
            (∀ before c rest, a.csu.list = before ++ c :: rest → (c.covers span x.stamp.date && a.qualifies c) = true →
              (∀ d ∈ before, (d.covers span x.stamp.date && a.qualifies d) = false) →
              exec (.stopDeadline w) s = .next (a.classify x c.firstOut ⟨false, false, false⟩).finish)
              ∧ ((∀ d ∈ a.csu.list, (d.covers span x.stamp.date && a.qualifies d) = false) →
                  exec (.stopDeadline w) s = .next (a.classify x none ⟨false, false, false⟩).finish)))
    ∧ (∀ (s : State) (x : Stop) (trip : Option (NodeNo × InputNo)) (f : StopFlags),
      let t := s.classify x trip f
      t = { s with run := { s.run with stop := none }, evq := t.evq, atl := t.atl, tallies := { s.tallies with tally := t.tallies.tally } }
        ∧ t.evq.nextSeq = s.evq.nextSeq + 1
        ∧ (s.evq.records.length < 255 →
            ∃ r, t.evq.records = s.evq.records ++ [r] ∧ r.kind = .stopClassified ∧ r.stamp = x.stamp
              ∧ r.detailA = BitVec.ofNat 8 (trip.isSome.toNat + 2 * f.superseded.toNat + 4 * f.outage.toNat + 8 * f.reset.toNat)
              ∧ r.detailB = BitVec.ofNat 32 ((match trip with
                  | some (node, input) => node.val * 2 ^ 28 + input.val * 2 ^ 24
                  | none => 0) + min ((s.time.elapsed - x.takenAt) / 1000) 16777215))
        ∧ t.tallies.tally.fields = (if trip.isSome
            then { s.tallies.tally.fields with trips := satInc s.tallies.tally.fields.trips }
            else { s.tallies.tally.fields with normalStops := satInc s.tallies.tally.fields.normalStops })
        ∧ t.tallies.tally.saturated = (s.tallies.tally.saturated || decide ((if trip.isSome then s.tallies.tally.fields.trips
            else s.tallies.tally.fields.normalStops) = 0xFFFFFF))
        ∧ t.tallies.tally.check = tallyCheck t.tallies.tally)
    ∧ (∀ (t : Tally) (tenths : BitVec 32),
      let f := t.fields
      let credited (g : TallyFields) (held : Bool) : Tally :=
        { t with fields := g, saturated := t.saturated || held }
      t.addStart = credited { f with starts := satInc f.starts } (decide (f.starts = 0xFFFFFF))
        ∧ t.addSync = credited { f with syncs := satInc f.syncs } (decide (f.syncs = 0xFFFFFF))
        ∧ t.addTrip = credited { f with trips := satInc f.trips } (decide (f.trips = 0xFFFFFF))
        ∧ t.addNormalStop = credited { f with normalStops := satInc f.normalStops } (decide (f.normalStops = 0xFFFFFF))
        ∧ t.addTenth .online = credited { f with online := satInc f.online } (decide (f.online = 0xFFFFFFFFFF))
        ∧ t.addTenth .spinning = credited { f with spinning := satInc f.spinning } (decide (f.spinning = 0xFFFFFFFFFF))
        ∧ t.addTenth .standstill = t
        ∧ t.addRevolution = { t with fields := { f with revolutions := f.revolutions + 1 } }
        ∧ t.addOutage tenths = credited { f with outage := BitVec.ofNat 32 (min (f.outage.toNat + tenths.toNat) 4294967295) }
            (decide (4294967295 < f.outage.toNat + tenths.toNat)))

/-! ### Speed, run state, tally -/

/-- SPD_EDGE: an edge less than 20 µs after the last accepted edge is ignored. An accepted one counts a pulse and a revolution
pulse (the whole revolution returning it to 0 and, on a unit node, adding one revolution to the tally), clears the silent mark,
ends the SPEED SILENT condition and its timing, and restarts the silence timer; in NO EDGE it leads to FIRST PERIOD, there to
MEASURING, and in MEASURING it ends a period T that gives the speed 600,000,000 ÷ (T × pulses), which a unit node's Run Unit is
handed (`RunStateMoves`). -/
def Obligations.SpeedEdgeTaken : Prop :=
  ∀ (w : Nat) (s : State),
    let a := s.after w
    let now := a.time.elapsed
    let rev := a.spu.revPulses + 1
    let whole := a.cfg.pulsesPerRev ≤ rev
    a.active = true →
      (∀ e, a.spu.phase.edge = some e → now < e + 20 → exec (.spdEdge w) s = .next a.finish)
        ∧ ((∀ e, a.spu.phase.edge = some e → e + 20 ≤ now) →
            Goes (exec (.spdEdge w) s) fun t =>
              t.spu.pulsesNow = a.spu.pulsesNow + 1
                ∧ t.spu.revPulses = (if whole then 0 else rev)
                ∧ t.spu.silent = false ∧ t.spu.silenceSince = now ∧ t.spu.pulsesLast = a.spu.pulsesLast
                ∧ t.run.silentSince = none ∧ t.run.speedSilent = false
                ∧ (a.spu.phase = .noEdge → t.spu.phase = .firstPeriod now ∧ t.spu.speed = a.spu.speed
                    ∧ t.spu.lastPeriod = a.spu.lastPeriod)
                ∧ (∀ e, a.spu.phase = .firstPeriod e → t.spu.phase = .measuring now ∧ t.spu.speed = a.spu.speed
                    ∧ t.spu.lastPeriod = a.spu.lastPeriod)
                ∧ (∀ e, a.spu.phase = .measuring e → t.spu.phase = .measuring now ∧ t.spu.lastPeriod = some (now - e)
                    ∧ t.spu.speed = 600000000 / ((now - e) * a.cfg.pulsesPerRev))
                ∧ t = { a with
                    spu := t.spu
                    run := t.run
                    tallies := { a.tallies with tally := t.tallies.tally }
                    evq := t.evq
                    atl := t.atl }
                ∧ (a.cfg.unitRole = false → t.run.state = a.run.state ∧ t.run.turning = a.run.turning
                    ∧ t.tallies = a.tallies ∧ t.evq = a.evq)
                ∧ (a.cfg.unitRole = true → whole →
                    t.tallies.tally.fields.revolutions = a.tallies.tally.fields.revolutions + 1)
                ∧ (∀ e, a.cfg.unitRole = true → a.spu.phase = .measuring e →
                    let turned : Tally := { a.tallies.tally with fields := { a.tallies.tally.fields with
                      revolutions := a.tallies.tally.fields.revolutions + 1 } }
                    let measured : State := { a with
                      spu := { a.spu with
                        pulsesNow := a.spu.pulsesNow + 1
                        revPulses := if whole then 0 else rev
                        phase := .measuring now
                        lastPeriod := some (now - e)
                        speed := 600000000 / ((now - e) * a.cfg.pulsesPerRev) }
                      tallies := { a.tallies with
                        tally := if whole then { turned with check := tallyCheck turned } else a.tallies.tally } }
                    let handed := measured.speedHanded
                    t = ({ handed with
                      spu := { measured.spu with silent := false, silenceSince := now }
                      run := { handed.run with silentSince := none, speedSilent := false } }).finish)
                ∧ ((∀ e, a.spu.phase ≠ .measuring e) → t.run.state = a.run.state ∧ t.evq = a.evq))

/-- The run state machine. The speed condition: at the spin threshold and above turning, below the standstill threshold still,
unchanged between; by a change of it STANDSTILL with the breaker open becomes SPINNING with one start more, SPINNING becomes
STANDSTILL, and an ONLINE unit changes nothing. The breaker level: closing leads to ONLINE with one sync more from STANDSTILL and
SPINNING, ending a waiting stop as a normal stop first; opening from ONLINE takes a stop in WAITING dated with the level, its deadline
W plus the settle time plus 100 ms on, and leads to SPINNING if turning, else STANDSTILL; the other cells change nothing but the
level. Each transition writes one RUN CHANGE record with the old and the new state, the speed, SPEED DOUBT for a closing from
STANDSTILL and FOUND RUNNING in the initial phase, dated with the level or, by the speed condition, now; it ends the initial phase,
as a speed without a transition does. The SPEED SILENT timing starts with a closing that leads to ONLINE while the silent mark is
set, and runs on if it runs; every other transition ends it with its condition. -/
def Obligations.RunStateMoves : Prop :=
  (∀ s : State,
    let cond := if s.cfg.spin ≤ s.spu.speed then true else if s.spu.speed < s.cfg.standstill then false else s.run.turning
    let t := s.speedHanded
    let change (new : RunState) (r : Record) : Prop :=
      r.kind = .runChange ∧ r.stamp = ⟨s.clock.date, s.clu.state⟩
        ∧ r.detailA = BitVec.ofNat 8 (s.run.state.code + 4 * new.code + (if s.run.initialPhase then 32 else 0))
        ∧ r.detailB = BitVec.ofNat 32 s.spu.speed
    t.run.turning = cond ∧ t.run.initialPhase = false
      ∧ (cond = s.run.turning → t = { s with run := { s.run with initialPhase := false } })
      ∧ (s.run.state = .standstill → s.run.turning = false → cond = true → s.run.breakerClosed = false →
          t.run.state = .spinning ∧ t.run.silentSince = none ∧ t.run.speedSilent = false ∧ t.tallies.tally.fields =
            { s.tallies.tally.fields with starts := satInc s.tallies.tally.fields.starts }
            ∧ (s.evq.records.length < 255 → ∃ r, t.evq.records = s.evq.records ++ [r] ∧ change .spinning r))
      ∧ (s.run.state = .standstill → s.run.breakerClosed = true →
          t = { s with run := { s.run with turning := cond, initialPhase := false } })
      ∧ (s.run.state = .spinning → s.run.turning = true → cond = false →
          t.run.state = .standstill ∧ t.run.silentSince = none ∧ t.run.speedSilent = false ∧ t.tallies = s.tallies
            ∧ (s.evq.records.length < 255 → ∃ r, t.evq.records = s.evq.records ++ [r] ∧ change .standstill r))
      ∧ (s.run.state = .online → t = { s with run := { s.run with turning := cond, initialPhase := false } })
      ∧ t = { s with run := t.run, evq := t.evq, atl := t.atl, tallies := { s.tallies with tally := t.tallies.tally } }
      ∧ t.run.stop = s.run.stop ∧ t.run.breakerClosed = s.run.breakerClosed)
    ∧ (∀ (s : State) (date : Stamp),
      let closed := s.breakerLevel true date
      let opened := s.breakerLevel false date
      let f := s.tallies.tally.fields
      let change (new : RunState) (doubt : Bool) (r : Record) : Prop :=
        r.kind = .runChange ∧ r.stamp = date
          ∧ r.detailA = BitVec.ofNat 8 (s.run.state.code + 4 * new.code + (if doubt then 16 else 0)
              + (if s.run.initialPhase then 32 else 0))
          ∧ r.detailB = BitVec.ofNat 32 s.spu.speed
      (closed.run.breakerClosed = true ∧ opened.run.breakerClosed = false ∧ closed.run.state = .online)
        ∧ (s.run.state ≠ .online → s.run.stop = none → closed.tallies.tally.fields = { f with syncs := satInc f.syncs }
            ∧ closed.run.stop = none ∧ closed.run.initialPhase = false
            ∧ (s.evq.records.length < 255 → ∃ r, closed.evq.records = s.evq.records ++ [r]
              ∧ change .online (decide (s.run.state = .standstill)) r))
        ∧ (∀ x, s.run.state ≠ .online → s.run.stop = some x →
            closed.tallies.tally.fields = { f with syncs := satInc f.syncs, normalStops := satInc f.normalStops }
              ∧ closed.run.stop = none ∧ closed.run.initialPhase = false
              ∧ (s.evq.records.length < 254 → ∃ c r, closed.evq.records = s.evq.records ++ [c, r]
                ∧ c.kind = .stopClassified ∧ c.stamp = x.stamp ∧ c.detailA = 0x02#8
                ∧ change .online (decide (s.run.state = .standstill)) r))
        ∧ (s.run.state ≠ .online →
            (s.spu.silent = true → closed.run.speedSilent = s.run.speedSilent
              ∧ (s.run.silentSince = none → closed.run.silentSince = some s.time.elapsed)
              ∧ ∀ x, s.run.silentSince = some x → closed.run.silentSince = some x)
              ∧ (s.spu.silent = false → closed.run.silentSince = none ∧ closed.run.speedSilent = false))
        ∧ (s.run.state = .online → closed = { s with run := { s.run with breakerClosed := true } })
        ∧ closed = { s with
            run := closed.run
            evq := closed.evq
            atl := closed.atl
            tallies := { s.tallies with tally := closed.tallies.tally } }
        ∧ (s.run.state = .online →
            let new := if s.run.turning then RunState.spinning else .standstill
            opened.run.state = new ∧ opened.run.initialPhase = false ∧ opened.run.silentSince = none
              ∧ opened.run.speedSilent = false
              ∧ opened = { s with run := opened.run, evq := opened.evq, atl := opened.atl }
              ∧ opened.run.stop = some ⟨date, s.time.elapsed,
                  .waiting (s.time.elapsed + (s.cfg.spanMs + s.cfg.settleMs + 100) * 1000)⟩
              ∧ (s.evq.records.length < 255 → ∃ r, opened.evq.records = s.evq.records ++ [r] ∧ change new false r))
        ∧ (s.run.state ≠ .online → opened = { s with run := { s.run with breakerClosed := false } }))

/-- SPEED_SILENCE: 2 s without an accepted edge make the speed 0, the phase NO EDGE and the silent mark set, and keep the revolution
pulse count; a unit node's Run Unit takes the speed 0 as `RunStateMoves` says, and the SPEED SILENT timing runs on or starts where
it is then ONLINE, else ends with its condition. SPEED_SILENT: ONLINE and the mark held together for 2 s begin the condition with its one record.
OSCILLATOR_TENTH: a tenth is credited to the run state in force, STANDSTILL adding nothing. -/
def Obligations.SilenceAndTenths : Prop :=
  ∀ (w : Nat) (s : State),
    let a := s.after w
    let now := a.time.elapsed
    let f := a.tallies.tally.fields
    a.active = true →
      (a.spu.silent = false → a.spu.silenceSince + 2000000 ≤ now →
        Goes (exec (.speedSilence w) s) fun t =>
          t = { a with
            spu := { a.spu with phase := .noEdge, speed := 0, silent := true }
            run := t.run
            evq := t.evq
            atl := t.atl
            tallies := { a.tallies with tally := t.tallies.tally } }
            ∧ (a.cfg.unitRole = false → t.run = a.run ∧ t.tallies = a.tallies ∧ t.evq = a.evq)
            ∧ (a.cfg.unitRole = true →
                let handed := ({ a with spu := { a.spu with phase := .noEdge, speed := 0, silent := true } }).speedHanded
                t = ({ handed with run := if handed.run.state = RunState.online
                  then { handed.run with silentSince := (match handed.run.silentSince with
                    | some x => some x
                    | none => some now) }
                  else { handed.run with silentSince := none, speedSilent := false } }).finish)
            ∧ (a.cfg.unitRole = true → a.run.state = .online → t.tallies = a.tallies ∧ t.run.state = .online
                ∧ t.run.silentSince = (match a.run.silentSince with
                  | some x => some x
                  | none => some now)))
        ∧ (∀ since, a.cfg.unitRole = true → a.run.silentSince = some since → a.run.speedSilent = false → since + 2000000 ≤ now →
            exec (.speedSilent w) s = .next ({ a.request .speedSilent ⟨a.clock.date, a.clu.state⟩ 0 0 with
              run := { a.run with speedSilent := true } }).finish)
        ∧ (a.cfg.unitRole = true → a.run.tenthStart + 100000 ≤ now →
            Goes (exec (.oscillatorTenth w) s) fun t =>
              t.run = { a.run with tenthStart := a.run.tenthStart + 100000 }
                ∧ t.tallies.tally.fields = (match a.run.state with
                  | .online => { f with online := satInc f.online }
                  | .spinning => { f with spinning := satInc f.spinning }
                  | .standstill => f)
                ∧ t = { a with run := t.run, atl := t.atl, tallies := { a.tallies with tally := t.tallies.tally } })

/-- A unit shift close takes each amount as the tally minus the baseline (0 where the tally is below it, with SUSPECT, as also
when the tally is SUSPECT), brings the baseline up to the tally, puts the record at the head of the list of at most four, keeps the
key as the last closed one and leaves the tally. Then the UNIT SHIFT CLOSED record with the record's flags and key, dated now; the
flag; and in ACTIVE the TALLY frame with the amounts held at the frame's limits (CAPPED when one was) and the flags of record and
tally. On a node with the post role its content goes to the Shift Unit as from the own node, whatever becomes of the frame; on
another the Shift Unit is as it was. Nothing else changes. -/
def Obligations.UnitShiftCloses : Prop :=
  ∀ (s : State) (c : CloseKey),
    let t := s.closeUnitShift c
    let total := sixOf s.tallies.tally.fields
    let base := s.tallies.baseline.fields
    let below := total.online.toNat < base.online.toNat ∨ total.spinning.toNat < base.spinning.toNat
      ∨ total.starts.toNat < base.starts.toNat ∨ total.syncs.toNat < base.syncs.toNat
      ∨ total.trips.toNat < base.trips.toNat ∨ total.normalStops.toNat < base.normalStops.toNat
    t.tallies.tally = s.tallies.tally ∧ t.tallies.lastClosed = some c.key ∧ t.tallies.baseline = Baseline.of total
      ∧ (∃ (u : UnitShift) (v : TallyValues), t.tallies.unitShifts = (u :: s.tallies.unitShifts).take 4 ∧ u.key = c.key
          ∧ (u.amounts.online.toNat = total.online.toNat - base.online.toNat
            ∧ u.amounts.spinning.toNat = total.spinning.toNat - base.spinning.toNat
            ∧ u.amounts.starts.toNat = total.starts.toNat - base.starts.toNat
            ∧ u.amounts.syncs.toNat = total.syncs.toNat - base.syncs.toNat
            ∧ u.amounts.trips.toNat = total.trips.toNat - base.trips.toNat
            ∧ u.amounts.normalStops.toNat = total.normalStops.toNat - base.normalStops.toNat)
          ∧ u.acceptance = none ∧ u.corrupt = false ∧ u.check = unitShiftCheck u
          ∧ u.stepped = c.stepped ∧ u.catchUp = c.catchUp ∧ u.merged = c.merged ∧ u.notSound = !s.clu.state.sound
          ∧ (u.suspect = true ↔ s.tallies.tally.suspect = true ∨ below)
          ∧ (s.evq.records.length < 255 → ∃ r, t.evq.records = s.evq.records ++ [r] ∧ r.kind = .unitShiftClosed
              ∧ r.stamp = ⟨s.clock.date, s.clu.state⟩ ∧ r.detailB = keyDetail c.key
              ∧ r.detailA = BitVec.ofNat 8 (u.stepped.toNat + 2 * u.catchUp.toNat + 4 * u.merged.toNat + 8 * u.notSound.toNat))
          ∧ (v.online.toNat = min u.amounts.online.toNat 16777215 ∧ v.spinning.toNat = min u.amounts.spinning.toNat 16777215
            ∧ v.starts.toNat = min u.amounts.starts.toNat 255 ∧ v.syncs.toNat = min u.amounts.syncs.toNat 255
            ∧ v.trips.toNat = min u.amounts.trips.toNat 255 ∧ v.normalStops.toNat = min u.amounts.normalStops.toNat 255)
          ∧ (v.flags.getLsbD 0 = u.stepped ∧ v.flags.getLsbD 1 = u.catchUp ∧ v.flags.getLsbD 2 = u.merged
            ∧ v.flags.getLsbD 3 = u.notSound ∧ v.flags.getLsbD 4 = u.suspect ∧ v.flags.getLsbD 5 = s.tallies.tally.blank
            ∧ v.flags.getLsbD 6 = s.tallies.tally.saturated
            ∧ (v.flags.getLsbD 7 = true ↔ 16777215 < u.amounts.online.toNat ∨ 16777215 < u.amounts.spinning.toNat
                ∨ 255 < u.amounts.starts.toNat ∨ 255 < u.amounts.syncs.toNat ∨ 255 < u.amounts.trips.toNat
                ∨ 255 < u.amounts.normalStops.toNat))
          ∧ t.lif = (s.queueFrame (.tally c.key v)).1.lif
          ∧ (s.cfg.postRole = true → t.shu = (s.tallyReceived s.lif.nodeNumber c.key v).shu))
      ∧ t.atl.flags.getLsbD 10 = true
      ∧ t = { s with tallies := t.tallies, evq := t.evq, atl := t.atl, lif := t.lif, shu := t.shu }
      ∧ (s.cfg.postRole = false → t.shu = s.shu)
      ∧ (s.active = false → t.lif = s.lif)

/-! ### Shift handover -/

/-- SHIFT_BOUNDARY_REACHED: the clock has come to the boundary time of the next key after the last reached key. That key becomes the
last reached key; on a unit node it is closed; on a post its record is created and the machine takes it. A DUE or OVERDUE target is
missed first: a held press dropped with its UNPAIRED KEY record; the target's HANDOVER frame with outcome MISSED queued, completion
now; its HANDOVER record; it becomes the last accepted key; its result LOCAL, PENDING, or NOT SENT and settled where no frame was
queued. Then, if the key is later than the last accepted one, DUE for it with the grace timer from 0 and the flag; if not, ON WATCH
with nothing held and the test of R145. EARLY_MARK leads from ON WATCH into EARLY in the early window of a target later than the last
accepted key (with no such key: the model's choice, log 45); GRACE_EXPIRY from DUE into OVERDUE with its flag, the grace timer and a
held press running on; PAIRING_TIMEOUT drops the held press with its UNPAIRED KEY record. The record of a key not later than the last created one is not created; a new
one is GATHERING, without entries, its gather timer from 0, with the held result if that is its key's, at the end of the list, whose
oldest of eight is lost and counted. (That with no last created key every key counts as later
than it is the model's choice, log 54. A boundary kept until its row is taken,
and several taken one after another, are the model's choice, log 48.) -/
def Obligations.ShiftMomentsTaken : Prop :=
  (∀ (w : Nat) (s : State),
    let a := s.after w
    a.active = true →
      (∀ last come,
        let k := nextKey a.cfg.boundaries last
        let reached : State := { a with shu := { a.shu with
          lastReached := some k
          keyDue := if come.later k then some come else none } }
        let closed := if a.cfg.unitRole then reached.closeOrder [⟨k, false, false, false⟩] else reached
        a.clock.valid = true → a.shu.lastReached = some last → a.shu.keyDue = some come → come.later last = true →
        (a.cfg.postRole = false → exec (.shiftBoundaryReached w) s = .next closed.finish)
          ∧ (a.cfg.postRole = true →
              exec (.shiftBoundaryReached w) s = .next (((closed.createRecord k).missIfDue).takeReached k).finish))
        ∧ (∀ k, a.cfg.postRole = true → a.clock.valid = true → a.shu.mode = .onWatch → a.target = some k →
            k.laterThan a.lastAccepted = true →
            a.clock.date.earlier ((boundaryTime a.cfg.boundaries k).plus (-((a.cfg.earlyMin * 60000000 : Nat) : Int))) = false →
            a.clock.date.earlier (boundaryTime a.cfg.boundaries k) = true →
            exec (.earlyMark w) s = .next ({ a with shu := { a.shu with mode := .early } }).finish)
        ∧ (∀ timer, a.cfg.postRole = true → a.shu.mode = .due → a.shu.grace = some timer →
            ((a.cfg.graceMin * 60000000 : Nat) : Int) ≤ timer.base + ((a.time.elapsed - timer.since : Nat) : Int) →
            exec (.graceExpiry w) s = .next ({ a with
              shu := { a.shu with mode := .overdue }
              atl := { a.atl with flags := a.atl.flags ||| Source.handoverOverdue.mark } }).finish)
        ∧ (∀ p, a.cfg.postRole = true → a.shu.held = some p → p.since + a.cfg.pairingS * 1000000 ≤ a.time.elapsed →
            exec (.pairingTimeout w) s = .next ({ a.request .unpairedKey p.stamp
              (match p.key with
                | .hand => 0
                | .take => 1)
              (keyDetail p.target) with shu := { a.shu with held := none } }).finish))
    ∧ (∀ s : State,
      (s.shu.mode = .onWatch ∨ s.shu.mode = .early → s.missIfDue = s)
        ∧ (∀ k, s.shu.mode = .due ∨ s.shu.mode = .overdue → s.shu.target = some k →
            let dropped : State := match s.shu.held with
              | none => s
              | some p => { s.request .unpairedKey p.stamp
                  (match p.key with
                    | .hand => 0
                    | .take => 1)
                  (keyDetail p.target) with shu := { s.shu with held := none } }
            let due := dueSeconds s.clock.date (boundaryTime s.cfg.boundaries k)
            let q := dropped.queueFrame (.handover k .missed s.clock.date due)
            let own : OwnFrame := if q.2 = .queued then .pending else .notSent
            let now : Stamp := ⟨s.clock.date, s.clu.state⟩
            s.missIfDue = ({ q.1.request .handover now 4 (keyDetail k) with lastAccepted := some k }).giveResult k
              ⟨.missed, now, due, none, some own, decide (own = OwnFrame.notSent)⟩))
    ∧ (∀ (s : State) (k : ShiftKey),
      (k.laterThan s.lastAccepted = true →
        s.takeReached k = { s with
          shu := { s.shu with mode := .due, target := some k, grace := some ⟨0, s.time.elapsed⟩ }
          atl := { s.atl with flags := s.atl.flags ||| Source.handoverDue.mark } })
        ∧ (k.laterThan s.lastAccepted = false → s.takeReached k = s.toOnWatch)
        ∧ s.toOnWatch =
            ({ s with shu := { s.shu with mode := .onWatch, target := none, grace := none, held := none } }).testEarly)
    ∧ (∀ s : State,
      let target := s.shu.lastReached.map (nextKey s.cfg.boundaries)
      let early (k : ShiftKey) : Prop := k.laterThan s.lastAccepted = true
        ∧ s.clock.date.earlier ((boundaryTime s.cfg.boundaries k).plus (-((s.cfg.earlyMin * 60000000 : Nat) : Int))) = false
        ∧ s.clock.date.earlier (boundaryTime s.cfg.boundaries k) = true
      (s.shu.mode ≠ .onWatch → s.testEarly = s)
        ∧ (s.shu.mode = .onWatch → (∀ k, target = some k → ¬ early k) → s.testEarly = s)
        ∧ (∀ k, s.shu.mode = .onWatch → target = some k → early k →
            s.testEarly = { s with shu := { s.shu with mode := .early } }))
    ∧ (∀ (s : State) (k : ShiftKey),
      let held : Option Result × Option (ShiftKey × Result) := match s.shu.heldResult with
        | none => (none, none)
        | some (k', r) => if k' = k then (some r, none) else (none, some (k', r))
      let made (kept : List StationRecord) (lost : BitVec 16) : State := { s with shu := { s.shu with
        records := kept ++ [⟨k, [], held.1, s.time.elapsed, .gathering⟩]
        heldResult := held.2
        lastCreated := some k
        lostRecords := lost } }
      (k.laterThan s.shu.lastCreated = false → s.createRecord k = s)
        ∧ (k.laterThan s.shu.lastCreated = true →
            (s.shu.records.length < 8 → s.createRecord k = made s.shu.records s.shu.lostRecords)
              ∧ (8 ≤ s.shu.records.length →
                  s.createRecord k = made (s.shu.records.drop 1) (satInc s.shu.lostRecords))))

/-- GATHER_EXPIRY: gathering of a key's record ends. Each expected unit without an entry gets an ABSENT one, without values; nothing
else gets one, so no second entry for a unit that has reported; no entry is lost or changed; entries that stand in node-number
order, one for a node (`ListsStayBounded`), stand so afterwards. The record is COMPLETE with a settled result, with the flag, else
AWAITING ACCEPTANCE; records of other keys, and all else, are unchanged. -/
def Obligations.GatheringEnds : Prop :=
  ∀ (w : Nat) (s : State) (k : ShiftKey) (r : StationRecord),
    let a := s.after w
    a.postActive = true → a.shu.recordOf k = some r → r.status = .gathering →
      r.gatherSince + a.cfg.gatherS * 1000000 ≤ a.time.elapsed →
      ∃ e : StationRecord,
        let ended : State := { a with
          shu := { a.shu with records := a.shu.records.map fun x => if x.key = k then e else x }
          atl := { a.atl with flags := if e.status = .complete then a.atl.flags ||| 0x0200#16 else a.atl.flags } }
        exec (.gatherExpiry w k) s = .next ended.finish
          ∧ e.key = r.key ∧ e.result = r.result ∧ e.gatherSince = r.gatherSince
          ∧ e.status = (if r.result.any Result.settled then .complete else .awaitingAcceptance)
          ∧ (∀ x : StationEntry, x ∈ e.entries ↔ x ∈ r.entries
              ∨ (x.values = none ∧ x.unexpected = false ∧ a.cfg.expectedUnits.getLsbD x.node.val = true
                ∧ ∀ y ∈ r.entries, y.node ≠ x.node))
          ∧ (r.ordered → e.ordered)

/-- A press: not used in ON WATCH or without a target; held, its pairing timer from 0, if none is held; replacing a held press of the
same key; and with the other key held, the handover is accepted with outcome EARLY, ON TIME or LATE by the machine's state: the held
press cleared, the HANDOVER frame queued, the HANDOVER record dated with this press, the target the last accepted key, its result
LOCAL with this completion, and ON WATCH. -/
def Obligations.PressIsTaken : Prop :=
  ∀ (s : State) (key : PressKey) (stamp : Stamp),
    (s.shu.mode = .onWatch → s.press key stamp = s)
      ∧ (s.target = none → s.press key stamp = s)
      ∧ (∀ t, s.shu.mode ≠ .onWatch → s.target = some t →
          (∀ p, s.shu.held = some p → p.key = key) →
          s.press key stamp = { s with shu := { s.shu with held := some ⟨key, stamp, s.time.elapsed, t⟩ } })
      ∧ (∀ t p, s.shu.mode ≠ .onWatch → s.target = some t → s.shu.held = some p → p.key ≠ key →
          let outcome : HandoverOutcome := if s.shu.mode = .early then .early else if s.shu.mode = .due then .onTime else .late
          let due := dueSeconds stamp.date (boundaryTime s.cfg.boundaries t)
          let cleared : State := { s with shu := { s.shu with held := none } }
          let q := cleared.queueFrame (.handover t outcome stamp.date due)
          let own : OwnFrame := if q.2 = .queued then .pending else .notSent
          let result : Result := ⟨outcome, stamp, due, none, some own, decide (own = .notSent)⟩
          s.press key stamp =
            (({ q.1.request .handover stamp outcome.code (keyDetail t) with lastAccepted := some t }).giveResult t result).toOnWatch)

/-- A HANDOVER frame delivered to a post: an unusable one, and one later than the last accepted key that is not the target, is
counted as unused; the target's is accepted elsewhere: the press dropped, a HANDOVER record with source ELSEWHERE, the key the last
accepted one, a settled result of the sender, and ON WATCH. One for a key already closed here changes neither the machine nor the
last accepted key; by the key's result (Table 8-4): none, or source ELSEWHERE, counted as unused; own frame HEARD, a HANDOVER record
CONCURRENT and the result kept; PENDING, the removal of the own frame asked, the record CONCURRENT, and the result replaced by the
received one, settled, with WITHDRAWN if the frame was removed (also when none was listed any more) and PENDING until its send ends
where it was too late (log 35); NOT SENT, WITHDRAWN or no frame, the record CONCURRENT and the result replaced. -/
def Obligations.HandoverReceivedAtPost : Prop :=
  (∀ (s : State) (sender : NodeNo) (q : ClockState) (body : List Byte),
    let unused : State := { s with shu := { s.shu with unused := satInc s.shu.unused } }
    let t := s.postHandover sender q body
    (readHandover s.cfg.boundaries.length body = none → t = unused)
      ∧ (∀ k o c d, readHandover s.cfg.boundaries.length body = some (k, o, c, d) →
          (k.laterThan s.lastAccepted = true → s.target ≠ some k → t = unused)
            ∧ (k.laterThan s.lastAccepted = true → s.target = some k →
                t = (({ ({ s with shu := { s.shu with held := none } }).request .handover ⟨c, q⟩ (o.code + 8) (keyDetail k) with
                  lastAccepted := some k }).giveResult k ⟨o, ⟨c, q⟩, d, some sender, none, true⟩).toOnWatch)
            ∧ (k.laterThan s.lastAccepted = false →
                let recorded (x : State) : State := x.request .handover ⟨c, q⟩ (o.code + 24) (keyDetail k)
                let received (own : Option OwnFrame) : Result := ⟨o, ⟨c, q⟩, d, some sender, own, true⟩
                t.lastAccepted = s.lastAccepted ∧ t.shu.mode = s.shu.mode ∧ t.shu.target = s.shu.target
                  ∧ t.shu.held = s.shu.held ∧ t.shu.grace = s.shu.grace
                  ∧ t = { s with shu := t.shu, evq := t.evq, atl := t.atl, lif := t.lif }
                  ∧ (s.shu.resultOf k = none → t = unused)
                  ∧ (∀ r, s.shu.resultOf k = some r →
                      (r.elsewhere.isSome = true → t = unused)
                        ∧ (r.elsewhere = none → r.own = some .heard → t = recorded s)
                        ∧ (r.elsewhere = none → r.own = some .pending →
                            let asked := s.removeHandover k
                            t = (recorded asked.1).giveResult k (received (some (if asked.2 then .withdrawn else .pending))))
                        ∧ (r.elsewhere = none → (r.own = none ∨ r.own = some .notSent ∨ r.own = some .withdrawn) →
                            t = (recorded s).giveResult k (received none))))))
    ∧ (∀ (s : State) (k : ShiftKey),
      (s.lif.sendList.find? (QueuedFrame.isHandoverOf k) = none → s.removeHandover k = (s, true))
        ∧ (∀ f, s.lif.sendList.find? (QueuedFrame.isHandoverOf k) = some f →
            (f.inSend = false → s.removeHandover k = ({ s with lif := { s.lif with
                sendList := s.lif.sendList.eraseP (QueuedFrame.isHandoverOf k) } }, true))
              ∧ (f.inSend = true → s.removeHandover k = ({ s with lif := { s.lif with
                  sendList := s.lif.sendList.map fun g =>
                    if g.isHandoverOf k then { g with removalAsked := true } else g } }, false))))

/-! ### Supplies and resets -/

/-- MAIN_SUPPLY_LOSS in RUN with VBK present: POWER LOSS is the first record of the treatment, a waiting stop or ONLINE run is
counted once as a normal stop, with one STOP CLASSIFIED record next (class NORMAL with OUTAGE; of a stop its date and the
milliseconds since it was taken, of an ONLINE run dated now with 0), the outage timer starts at 0, the credit mark is set exactly on an ACTIVE unit node; the state is
KEEP-ALIVE, the main domain at its initial values; the clock, the last accepted key, the baseline and the unit shift records are
kept. Where the loss comes while OPEN executes, the treatment finds the steps of OPEN that were reached (operand `midOpen`): the
first n of the eight in their order. (That the oscillator second starts anew there and the backup oscillator's run of 32,768 cycles
at 0 are the model's choices, logs 8 and 10; the moment within OPEN as an operand, log 22.) -/
def Obligations.MainSupplyLost : Prop :=
  (∀ (w : Nat) (midOpen : Option Nat) (s : State),
    let a := (s.after w).midOpen midOpen
    let f := a.tallies.tally.fields
    (s.after w).sup.state = .run → (s.after w).sup.vbkPresent = true →
      Goes (exec (.mainSupplyLoss ⟨w, midOpen⟩) s) fun t =>
        t.sup = { a.sup with
          state := .keepAlive
          outageUs := 0
          creditMark := a.active && a.cfg.unitRole
          rstnHeld := false
          backupPhase := 0
          restoreCycles := 0 }
          ∧ t.tallies = { a.tallies with tally := t.tallies.tally }
          ∧ t.tallies.tally.fields = (if a.run.state = .online ∨ a.run.stop.isSome = true
              then { f with normalStops := satInc f.normalStops } else f)
          ∧ (a.evq.records.length < 254 → ∃ r rest, t.evq.records = a.evq.records ++ r :: rest ∧ r.kind = .powerLoss
              ∧ r.stamp = ⟨a.clock.date, a.clu.state⟩ ∧ r.detailA = BitVec.ofNat 8 a.lpt.nodeState.code
              ∧ (a.run.stop = none → a.run.state ≠ .online → rest = [])
              ∧ (a.run.stop = none → a.run.state = .online → ∃ c, rest = [c] ∧ c.kind = .stopClassified
                ∧ c.stamp = ⟨a.clock.date, a.clu.state⟩ ∧ c.detailA = 0x04#8 ∧ c.detailB = 0)
              ∧ (∀ x, a.run.stop = some x → ∃ c, rest = [c] ∧ c.kind = .stopClassified ∧ c.stamp = x.stamp
                ∧ c.detailA = 0x04#8
                ∧ c.detailB = BitVec.ofNat 32 (min ((a.time.elapsed - x.takenAt) / 1000) 16777215)))
          ∧ t = { a with
              time := { a.time with secondStart := a.time.elapsed, spread := 0, spreadDone := 0, boundaryDue := none }
              lif := Lif.initial a.lif.nodeNumber a.lif.lineSpeed a.time.elapsed
              clu := Clu.initial a.time.elapsed
              isc := Isc.initial a.time.elapsed
              csu := Csu.initial
              spu := Spu.initial a.time.elapsed
              run := Run.initial a.time.elapsed
              shu := Shu.initial
              chk := Chk.initial a.time.elapsed
              lpt := Lpt.initial
              atl := Atl.initial a.time.elapsed
              sup := t.sup
              tallies := t.tallies
              evq := t.evq })
    ∧ (∀ s : State,
      let steps : List (State → State) := [State.openNodeState, State.openClock, State.recordOpened, State.lockReference,
        State.startSweep, State.startRun, State.openShift, State.startChecks]
      s.midOpen none = s
        ∧ (∀ m, s.portOpen = false ∨ s.lpt.nodeState ≠ .configured → s.midOpen m = s)
        ∧ (∀ n, s.portOpen = true → s.lpt.nodeState = .configured →
            s.midOpen (some n) = (steps.take n).foldl (fun t f => f t) s)
        ∧ s.openSteps = steps.foldl (fun t f => f t) s)

/-- The other moves of the supply states: VDD lost in RUN or RESTORING without VBK, and VBK lost in KEEP-ALIVE, lead to OFF; VDD lost
in RESTORING with VBK leads back to KEEP-ALIVE, the outage timer running on and the credit mark kept; VBK lost in RUN or RESTORING
changes no supply state; VDD good in KEEP-ALIVE begins RESTORING; VBK's return is noted. COLD_START leaves OFF with the backup domain
at its initial values and the fresh mark set: VBK alone leads to KEEP-ALIVE, VDD alone or with it to RESTORING. (OFF when VDD is lost
in RESTORING without VBK, and the backup domain lost at that moment, are the model's choices, logs 23 and 29; the backup oscillator's run of
32,768 cycles begun at 0 where OFF is left is log 8.) -/
def Obligations.SupplyStatesMove : Prop :=
  ∀ (w : Nat) (midOpen : Option Nat) (s : State),
    let a := s.after w
    let lost (t : State) : Prop := t.clock = ⟨⟨0, 0⟩, false⟩ ∧ t.evq = ⟨[], 0⟩ ∧ t.tallies = Tallies.initial ∧ t.lastAccepted = none
    ((a.sup.state = .run ∨ a.sup.state = .restoring) → a.sup.vbkPresent = false →
      Goes (exec (.mainSupplyLoss ⟨w, midOpen⟩) s) fun t => t.sup.state = .off ∧ lost t)
      ∧ (a.sup.state = .restoring → a.sup.vbkPresent = true →
          exec (.mainSupplyLoss ⟨w, midOpen⟩) s =
            .next ({ a with sup := { a.sup with state := .keepAlive, restoreCycles := 0 } }).finish)
      ∧ (a.sup.state = .keepAlive → Goes (exec (.backupSupplyLoss w) s) fun t => t.sup.state = .off ∧ lost t)
      ∧ ((a.sup.state = .run ∨ a.sup.state = .restoring) →
          exec (.backupSupplyLoss w) s = .next ({ a with sup := { a.sup with vbkPresent := false } }).finish)
      ∧ (a.sup.state ≠ .off →
          exec (.backupSupplyReturn w) s = .next ({ a with sup := { a.sup with vbkPresent := true } }).finish)
      ∧ (a.sup.state = .keepAlive →
          exec (.mainSupplyReturn w) s =
            .next ({ a with sup := { a.sup with state := .restoring, restoreCycles := 0 } }).finish)
      ∧ (∀ returned, a.sup.state = .off →
          Goes (exec (.coldStart w returned) s) fun t =>
            lost t ∧ t.sup = { Sup.initial with
              freshMark := true
              vbkPresent := (match returned with
                | .vdd => false
                | .vbk | .both => true)
              state := (match returned with
                | .vbk => .keepAlive
                | .vdd | .both => .restoring) })

/-- RESTORE_WAIT_END after 65,536 main-oscillator cycles (counted as 125 for each backup cycle, the model's choice, log 9): RUN,
UNCONFIGURED, the straps read. With the fresh mark clear the
outage is credited if the credit mark is set, which is then clear, a POWER RESTORE record is requested, the restore pass begins and
the Local Port is busy until it ends; RSTN low then waits for the end of the pass (`StoreCheckRuns`). With the mark set it is a cold
start's end: the mark cleared, no record, no credit, no pass; RSTN low is taken as its assertion at once (the model's choice, log 50). -/
def Obligations.RestoreEnds : Prop :=
  ∀ (w : Nat) (id : NodeNo) (sp : BitVec 2) (s : State),
    let a := s.after w
    a.sup.state = .restoring → 65536 ≤ 125 * a.sup.restoreCycles →
      Goes (exec (.restoreWaitEnd w id sp) s) fun t =>
        t.sup.state = .run ∧ t.lpt = Lpt.initial ∧ t.lif = Lif.initial id sp a.time.elapsed ∧ t.clock = a.clock
          ∧ t.lastAccepted = a.lastAccepted ∧ t.clu = Clu.initial a.time.elapsed ∧ t.run = Run.initial a.time.elapsed
          ∧ t.shu = Shu.initial ∧ t.csu = Csu.initial ∧ t.isc = Isc.initial a.time.elapsed ∧ t.spu = Spu.initial a.time.elapsed
          ∧ t.pins = { a.pins with id := id, sp := sp }
          ∧ (a.sup.freshMark = true → t.evq = a.evq ∧ t.tallies = a.tallies ∧ t.chk.pass = none
              ∧ t.sup = (if a.pins.rstnLow
                then { a.sup with
                  state := .run, freshMark := false, restoreCycles := 0, nodeStateAtReset := .unconfigured, rstnHeld := true }
                else { a.sup with state := .run, freshMark := false, restoreCycles := 0 }))
          ∧ (a.sup.freshMark = false → t.sup = { a.sup with state := .run, creditMark := false, restoreCycles := 0 }
              ∧ t.chk.pass = some .tally ∧ t.chk.restorePass = true ∧ t.portOpen = false
              ∧ t.evq.nextSeq = a.evq.nextSeq + 1
              ∧ (a.evq.records.length < 255 → ∃ r, t.evq.records = a.evq.records ++ [r] ∧ r.kind = .powerRestore
                  ∧ r.stamp = ⟨a.clock.date, .solo⟩ ∧ r.detailB = a.sup.outageTenths)
              ∧ t.tallies = { a.tallies with tally := t.tallies.tally }
              ∧ t.tallies.tally.fields = (if a.sup.creditMark
                  then { a.tallies.tally.fields with
                    outage := capped 32 (a.tallies.tally.fields.outage.toNat + a.sup.outageTenths.toNat) }
                  else a.tallies.tally.fields))

/-- RSTN_ASSERT in RUN: the run is closed out as at a loss of main supply, but with RESET in its record, the node state is kept as the node state at reset, the main domain is at its
initial values and held there, no POWER LOSS record is written and the outage timer and credit mark are as they were; while OPEN
executes it finds the steps that were reached (operand `midOpen`, as `MainSupplyLost`). Out of RUN, while RSTN is low already,
and at the very moment at which the restore wait has ended, only the pin's level is noted (log 50).
RSTN_RELEASE while the reset is held: the straps are read, a RESET record is requested, dated now with quality SOLO, and the node is
UNCONFIGURED; else only the level is noted. (That the oscillator second starts anew at the reset is the model's choice, log 10; the
moment of the restore wait's end and a release before the deferred assertion is taken, log 50; `midOpen`, log 22.) -/
def Obligations.ResetPin : Prop :=
  ∀ (w : Nat) (midOpen : Option Nat) (id : NodeNo) (sp : BitVec 2) (s : State),
    let b := s.after w
    let a := b.midOpen midOpen
    let f := a.tallies.tally.fields
    let atWaitEnd := b.chk.restorePass = true ∧ b.chk.passStart = b.time.elapsed
    (b.sup.state = .run → b.sup.rstnHeld = false → b.pins.rstnLow = false → ¬ atWaitEnd →
      Goes (exec (.rstnAssert ⟨w, midOpen⟩) s) fun t =>
        t = { a with
          time := { a.time with secondStart := a.time.elapsed, spread := 0, spreadDone := 0, boundaryDue := none }
          lif := Lif.initial a.lif.nodeNumber a.lif.lineSpeed a.time.elapsed
          clu := Clu.initial a.time.elapsed
          isc := Isc.initial a.time.elapsed
          csu := Csu.initial
          spu := Spu.initial a.time.elapsed
          run := Run.initial a.time.elapsed
          shu := Shu.initial
          chk := Chk.initial a.time.elapsed
          lpt := Lpt.initial
          atl := Atl.initial a.time.elapsed
          sup := { a.sup with nodeStateAtReset := a.lpt.nodeState, rstnHeld := true }
          pins := { a.pins with rstnLow := true }
          tallies := { a.tallies with tally := t.tallies.tally }
          evq := t.evq }
          ∧ (a.run.state ≠ .online → a.run.stop = none → t.evq = a.evq ∧ t.tallies = a.tallies)
          ∧ (a.run.state = .online ∨ a.run.stop.isSome = true → t.evq.nextSeq = a.evq.nextSeq + 1
              ∧ t.tallies.tally.fields = { f with normalStops := satInc f.normalStops }
              ∧ (a.evq.records.length < 255 → ∃ c, t.evq.records = a.evq.records ++ [c] ∧ c.kind = .stopClassified
                ∧ c.detailA = 0x08#8
                ∧ (a.run.stop = none → c.stamp = ⟨a.clock.date, a.clu.state⟩ ∧ c.detailB = 0)
                ∧ (∀ x, a.run.stop = some x → c.stamp = x.stamp
                  ∧ c.detailB = BitVec.ofNat 32 (min ((a.time.elapsed - x.takenAt) / 1000) 16777215)))))
      ∧ (b.sup.state ≠ .run ∨ b.sup.rstnHeld = true ∨ b.pins.rstnLow = true ∨ atWaitEnd →
          exec (.rstnAssert ⟨w, midOpen⟩) s = .next ({ b with pins := { b.pins with rstnLow := true } }).finish)
      ∧ (b.sup.state = .run → b.sup.rstnHeld = true →
          Goes (exec (.rstnRelease w id sp) s) fun t =>
            t.sup = { b.sup with rstnHeld := false } ∧ t.lif = Lif.initial id sp b.time.elapsed ∧ t.lpt = Lpt.initial
              ∧ t.pins = { b.pins with id := id, sp := sp, rstnLow := false }
              ∧ t.evq.nextSeq = b.evq.nextSeq + 1
              ∧ (b.evq.records.length < 255 → ∃ r, t.evq.records = b.evq.records ++ [r] ∧ r.kind = .reset
                  ∧ r.stamp = ⟨b.clock.date, .solo⟩ ∧ r.detailA = BitVec.ofNat 8 b.sup.nodeStateAtReset.code)
              ∧ t.tallies = b.tallies ∧ t.clock = b.clock ∧ t.lastAccepted = b.lastAccepted
              ∧ t.clu = Clu.initial b.time.elapsed ∧ t.run = Run.initial b.time.elapsed)
      ∧ (b.sup.state ≠ .run ∨ b.sup.rstnHeld = false →
          exec (.rstnRelease w id sp) s = .next ({ b with pins := { b.pins with rstnLow := false } }).finish)

/-! ### Store check, lamps -/

/-- The store check: a pass begins 10 s after the last one began, in ACTIVE; it tests the tally, the baseline, the unit shift
records and the event records, one after another, going on from the last unit shift record to the first event record; it ends,
counted, when every record has been tested; at the end of a restore pass an assertion of RSTN that waited for it is taken. A failing
tally or baseline makes the tally SUSPECT, its check recomputed; a failing unit shift or event record is marked CORRUPT; the first
failure is kept and STORE CHECK set, but a baseline that fails while the tally is SUSPECT is not reported; a sound record is left as
it is. (One test for each step, the place that a pass keeps and its start 10 s after the last start are the model's choices of log
25; the assertion taken at the end of the restore pass, log 50.) -/
def Obligations.StoreCheckRuns : Prop :=
  ∀ (w : Nat) (s : State),
    let a := s.after w
    let failed (t : State) (area : StoreArea) (p : Nat) : Prop :=
      t.atl.flags.getLsbD 14 = true ∧ t.sup = (if a.sup.firstFailure = none
        then { a.sup with firstFailure := some (area, p) } else { a.sup with failureOverflow := true })
    let passed (c : Cursor) : Prop :=
      exec (.storeCheckTest w) s = .next ({ a with chk := { a.chk with pass := some c } }).finish
    let tested (p : Nat) : Prop := a.chk.pass = some (.event p)
      ∨ (p = 0 ∧ ∃ q, a.chk.pass = some (.unitShift q) ∧ a.tallies.unitShifts.length ≤ q)
    let allTested : Prop := (∃ p, a.chk.pass = some (.event p) ∧ a.evq.records.length ≤ p)
      ∨ (a.evq.records = [] ∧ ∃ q, a.chk.pass = some (.unitShift q) ∧ a.tallies.unitShifts.length ≤ q)
    let ended : State := { a with chk := { a.chk with pass := none, restorePass := false, passes := satInc a.chk.passes } }
    (a.active = true → a.chk.pass = none → a.chk.passStart + 10000000 ≤ a.time.elapsed →
      exec (.storeCheckPassStart w) s = .next ({ a with chk := { a.chk with
        pass := some .tally
        passStart := a.chk.passStart + 10000000 } }).finish)
      ∧ (a.working = true → a.chk.pass = some .tally → tallyCheck a.tallies.tally = a.tallies.tally.check → passed .baseline)
      ∧ (a.working = true → a.chk.pass = some .baseline →
          baselineCheck a.tallies.baseline.fields = a.tallies.baseline.check → passed (.unitShift 0))
      ∧ (∀ p u, a.working = true → a.chk.pass = some (.unitShift p) → a.tallies.unitShifts[p]? = some u →
          (u.corrupt = true ∨ unitShiftCheck u = u.check) → passed (.unitShift (p + 1)))
      ∧ (∀ p r, a.working = true → tested p → a.evq.records[p]? = some r →
          (r.corrupt = true ∨ recordCheck r = r.check) → passed (.event (p + 1)))
      ∧ (a.working = true → a.chk.pass = some .tally → tallyCheck a.tallies.tally ≠ a.tallies.tally.check →
          Goes (exec (.storeCheckTest w) s) fun t =>
            t.tallies.tally = { a.tallies.tally with suspect := true, check := tallyCheck t.tallies.tally }
              ∧ t.chk = { a.chk with pass := some .baseline } ∧ failed t .tally 0
              ∧ t = { a with
                  tallies := { a.tallies with tally := t.tallies.tally }, atl := t.atl, chk := t.chk, sup := t.sup })
      ∧ (a.working = true → a.chk.pass = some .baseline →
          baselineCheck a.tallies.baseline.fields ≠ a.tallies.baseline.check →
          Goes (exec (.storeCheckTest w) s) fun t =>
            t.tallies.tally = { a.tallies.tally with suspect := true, check := tallyCheck t.tallies.tally }
              ∧ t.chk = { a.chk with pass := some (.unitShift 0) }
              ∧ (a.tallies.tally.suspect = false → failed t .baseline 0)
              ∧ (a.tallies.tally.suspect = true → t.sup = a.sup ∧ t.atl.flags = a.atl.flags ||| a.levelMarks)
              ∧ t = { a with
                  tallies := { a.tallies with tally := t.tallies.tally }, atl := t.atl, chk := t.chk, sup := t.sup })
      ∧ (∀ p u, a.working = true → a.chk.pass = some (.unitShift p) → a.tallies.unitShifts[p]? = some u → u.corrupt = false →
          unitShiftCheck u ≠ u.check →
          Goes (exec (.storeCheckTest w) s) fun t =>
            t = { a with
              tallies := { a.tallies with unitShifts := a.tallies.unitShifts.set p { u with corrupt := true } }
              chk := { a.chk with pass := some (.unitShift (p + 1)) }
              atl := t.atl
              sup := t.sup } ∧ failed t .unitShift p)
      ∧ (∀ p r, a.working = true → tested p → a.evq.records[p]? = some r → r.corrupt = false → recordCheck r ≠ r.check →
          Goes (exec (.storeCheckTest w) s) fun t =>
            t = { a with
              evq := { a.evq with records := a.evq.records.set p { r with corrupt := true } }
              chk := { a.chk with pass := some (.event (p + 1)) }
              atl := t.atl
              sup := t.sup } ∧ failed t .eventQueue p)
      ∧ (a.working = true → allTested →
          (a.chk.restorePass = false ∨ a.pins.rstnLow = false → exec (.storeCheckPassEnd w) s = .next ended.finish)
            ∧ (a.chk.restorePass = true → a.pins.rstnLow = true →
                exec (.storeCheckPassEnd w) s = .next ended.assertReset.finish
                  ∧ Goes (exec (.storeCheckPassEnd w) s) fun t =>
                    t.sup = { a.sup with nodeStateAtReset := a.lpt.nodeState, rstnHeld := true }
                      ∧ t.lpt = Lpt.initial ∧ t.chk = Chk.initial a.time.elapsed))

/-- The lamps: a blinking lamp toggles at each half-period, 500 ms slow and 125 ms fast, and not before; the L1 flash ends 100 ms
after the last intact frame, and not before. Whatever the command, a lamp whose pattern changes starts the new one at that moment: a
blink lit, its half-period from then, STEADY and FLASH lit, OFF unlit; and a blink that goes on is moved by its own half-periods alone.
(That a row whose moment has not come changes nothing is the model's choice of log 2; that a blink goes on where one event leads through
another pattern and back, of log 53.) -/
def Obligations.LampsMove : Prop :=
  (∀ (w : Nat) (lamp : Lamp) (s : State),
    let a := s.after w
    let l := a.atl.lamp lamp
    let now := a.time.elapsed
    let halfOver := (l.pattern = .slowBlink ∧ l.since + 500000 ≤ now) ∨ (l.pattern = .fastBlink ∧ l.since + 125000 ≤ now)
    a.working = true →
      (l.pattern = .slowBlink → l.since + 500000 ≤ now →
        exec (.lampBlinkPhase w lamp) s = .next ({ a with atl := a.atl.setLamp lamp ⟨.slowBlink, !l.lit, l.since + 500000⟩ }).finish)
        ∧ (l.pattern = .fastBlink → l.since + 125000 ≤ now →
            exec (.lampBlinkPhase w lamp) s =
              .next ({ a with atl := a.atl.setLamp lamp ⟨.fastBlink, !l.lit, l.since + 125000⟩ }).finish)
        ∧ (¬ halfOver → exec (.lampBlinkPhase w lamp) s = .next a.finish)
        ∧ (∀ t, a.atl.flashUntil = some t → t ≤ now →
            exec (.lampFlashEnd w) s = .next ({ a with atl := { a.atl with flashUntil := none } }).finish)
        ∧ ((∀ t, a.atl.flashUntil = some t → now < t) → exec (.lampFlashEnd w) s = .next a.finish))
    ∧ (∀ (c : Instr) (lamp : Lamp) (s t : State),
      let before := s.atl.lamp lamp
      let after := t.atl.lamp lamp
      exec c s = .next t →
        (after.pattern ≠ before.pattern → after = ⟨after.pattern, decide (after.pattern ≠ .off), t.time.elapsed⟩)
          ∧ (after.pattern = .slowBlink ∨ after.pattern = .fastBlink → after.pattern = before.pattern →
              (∀ w, c ≠ .lampBlinkPhase w lamp) → after = before))
end

