-- ==== Sys2Proof/Laws/Bytes.lean ====
section
/-! SUPPORT. Byte layouts: the value at a place of a concatenation is the value in the part it falls into, and a value written
high byte first reads back (R184). How long each part of the READ STATUS data is (Table 12-12). The check and the bits of a frame. -/

namespace Sys2Proof.Machine

@[simp] theorem beBytes_length (n v : Nat) : (beBytes n v).length = n := by
  induction n with
  | zero => rfl
  | succ n ih => simp [beBytes, ih]

/-- Reading bytes on from a value. -/
theorem beNat_from (bytes : List Byte) (v : Nat) :
    bytes.foldl (fun v b => v * 256 + b.toNat) v = v * 256 ^ bytes.length + beNat bytes := by
  induction bytes generalizing v with
  | nil => simp [beNat]
  | cons b bs ih =>
    have e : beNat (b :: bs) = b.toNat * 256 ^ bs.length + beNat bs := by
      show List.foldl _ (0 * 256 + b.toNat) bs = _
      rw [ih, Nat.zero_mul, Nat.zero_add]
    rw [List.foldl_cons, ih, e, List.length_cons, Nat.pow_succ]
    ring

theorem beNat_cons (b : Byte) (bs : List Byte) : beNat (b :: bs) = b.toNat * 256 ^ bs.length + beNat bs := by
  show List.foldl _ (0 * 256 + b.toNat) bs = _
  rw [beNat_from, Nat.zero_mul, Nat.zero_add]

/-- A value written in n bytes reads back, modulo what n bytes hold. -/
theorem beNat_beBytes (n v : Nat) : beNat (beBytes n v) = v % 2 ^ (8 * n) := by
  induction n with
  | zero => simp [beBytes, beNat, Nat.mod_one]
  | succ n ih =>
    rw [beBytes, beNat_cons, ih, beBytes_length, BitVec.toNat_ofNat]
    have p : (256 : Nat) ^ n = 2 ^ (8 * n) := by rw [show (256 : Nat) = 2 ^ 8 from rfl, ← Nat.pow_mul]
    have q : 2 ^ (8 * (n + 1)) = 2 ^ (8 * n) * 2 ^ 8 := by rw [Nat.mul_succ, Nat.pow_add]
    rw [p, q, Nat.mod_mul, Nat.mul_comm]
    exact Nat.add_comm _ _

/-- A field that begins past the first part of a concatenation lies in the second. -/
theorem fieldAt_right (a b : List Byte) (p n : Nat) (h : a.length ≤ p) : fieldAt (a ++ b) p n = fieldAt b (p - a.length) n := by
  unfold fieldAt
  rw [List.drop_append, List.drop_eq_nil_of_le h, List.nil_append]

/-- A field that ends within the first part of a concatenation lies in it. -/
theorem fieldAt_left (a b : List Byte) (p n : Nat) (h : p + n ≤ a.length) : fieldAt (a ++ b) p n = fieldAt a p n := by
  unfold fieldAt
  rw [List.drop_append_of_le_length (by omega), List.take_append_of_le_length (by rw [List.length_drop]; omega)]

/-- The field that a whole value fills. -/
@[simp] theorem fieldAt_beBytes (n v : Nat) : fieldAt (beBytes n v) 0 n = v % 2 ^ (8 * n) := by
  rw [fieldAt, List.drop_zero, List.take_of_length_le (by simp), beNat_beBytes]

/-! ### The parts of the READ STATUS data -/

@[simp] theorem dateBytes_length (d : Date) : (dateBytes d).length = 7 := by simp [dateBytes]

@[simp] theorem stampBytes_length (t : Stamp) : (stampBytes t).length = 8 := by simp [stampBytes]

@[simp] theorem optKeyBytes_length (k : Option ShiftKey) : (optKeyBytes k).length = 3 := by cases k <;> simp [optKeyBytes, keyBytes]

@[simp] theorem statusLine_length (s : State) : (statusLine s).length = 14 := by simp [statusLine]

@[simp] theorem statusClock_length (s : State) : (statusClock s).length = 5 := by simp [statusClock, beInt]

@[simp] theorem statusInputs_length (s : State) : (statusInputs s).length = 6 := by simp [statusInputs]

@[simp] theorem statusQueue_length (s : State) : (statusQueue s).length = 10 := by
  unfold statusQueue
  cases s.evq.openOverflow <;> simp

@[simp] theorem statusOpenCascade_length (s : State) : (statusOpenCascade s).length = 12 := by
  unfold statusOpenCascade
  cases s.csu.current <;> simp

@[simp] theorem statusCascades_length (s : State) : (statusCascades s).length = 13 := by
  unfold statusCascades
  cases s.csu.slot <;> simp

@[simp] theorem statusStop_length (s : State) : (statusStop s).length = 10 := by
  unfold statusStop
  cases s.reportedStop <;> simp

@[simp] theorem statusSpeed_length (s : State) : (statusSpeed s).length = 11 := by simp [statusSpeed]

@[simp] theorem reportedOn_length (b : Bool) (bytes : List Byte) : (reportedOn b bytes).length = bytes.length := by
  cases b <;> simp [reportedOn]

@[simp] theorem statusRun_length (s : State) : (statusRun s).length = 1 := by simp [statusRun]

@[simp] theorem statusPost_length (s : State) : (statusPost s).length = 30 := by simp [statusPost]

@[simp] theorem statusSupply_length (s : State) : (statusSupply s).length = 9 := by
  unfold statusSupply
  cases h : s.sup.firstFailure <;> simp [h]

@[simp] theorem statusNode_length (s : State) : (statusNode s).length = 10 := by simp [statusNode]

/-- A field of the READ STATUS data lies in the part it falls into. -/
theorem fieldAt_statusData (s : State) (p n : Nat) :
    (p + n ≤ 14 → fieldAt (statusData s) p n = fieldAt (statusLine s) p n)
      ∧ (p + n ≤ 5 → fieldAt (statusData s) (14 + p) n = fieldAt (statusClock s) p n)
      ∧ (p + n ≤ 6 → fieldAt (statusData s) (19 + p) n = fieldAt (statusInputs s) p n)
      ∧ (p + n ≤ 10 → fieldAt (statusData s) (25 + p) n = fieldAt (statusQueue s) p n)
      ∧ (p + n ≤ 1 → fieldAt (statusData s) (35 + p) n = fieldAt (beBytes 1 (statusCascadeFlags s)) p n)
      ∧ (p + n ≤ 12 → fieldAt (statusData s) (36 + p) n = fieldAt (statusOpenCascade s) p n)
      ∧ (p + n ≤ 13 → fieldAt (statusData s) (48 + p) n = fieldAt (statusCascades s) p n)
      ∧ (p + n ≤ 10 → fieldAt (statusData s) (61 + p) n = fieldAt (statusStop s) p n)
      ∧ (p + n ≤ 11 → fieldAt (statusData s) (71 + p) n = fieldAt (statusSpeed s) p n)
      ∧ (p + n ≤ 1 → fieldAt (statusData s) (82 + p) n = fieldAt (statusRun s) p n)
      ∧ (p + n ≤ 3 → fieldAt (statusData s) (83 + p) n = fieldAt (optKeyBytes s.shu.lastReached) p n)
      ∧ (p + n ≤ 30 → fieldAt (statusData s) (86 + p) n = fieldAt (statusPost s) p n)
      ∧ (p + n ≤ 9 → fieldAt (statusData s) (116 + p) n = fieldAt (statusSupply s) p n)
      ∧ (p + n ≤ 10 → fieldAt (statusData s) (125 + p) n = fieldAt (statusNode s) p n) := by
  unfold statusData
  simp only [List.append_assoc]
  have past (a : List Byte) (m : Nat) (ha : a.length = m) (b : List Byte) (q : Nat) :
      fieldAt (a ++ b) (m + q) n = fieldAt b q n := by
    rw [fieldAt_right _ _ _ _ (by omega), ha, Nat.add_sub_cancel_left]
  have within (a : List Byte) (m : Nat) (ha : a.length = m) (b : List Byte) (h : p + n ≤ m) :
      fieldAt (a ++ b) p n = fieldAt a p n :=
    fieldAt_left _ _ _ _ (by omega)
  have line := past _ 14 (statusLine_length s)
  have clock := past _ 5 (statusClock_length s)
  have inputs := past _ 6 (statusInputs_length s)
  have queue := past _ 10 (statusQueue_length s)
  have flags := past _ 1 (beBytes_length 1 (statusCascadeFlags s))
  have cascade := past _ 12 (statusOpenCascade_length s)
  have cascades := past _ 13 (statusCascades_length s)
  have stop := past _ 10 (statusStop_length s)
  have speed := past _ 11 (statusSpeed_length s)
  have run := past _ 1 (statusRun_length s)
  have reached := past _ 3 (optKeyBytes_length s.shu.lastReached)
  have post := past _ 30 (statusPost_length s)
  have supply := past _ 9 (statusSupply_length s)
  refine ⟨within _ _ (statusLine_length s) _, ?_, ?_, ?_, ?_, ?_, ?_, ?_, ?_, ?_, ?_, ?_, ?_, ?_⟩
  all_goals intro h
  · rw [line, within _ _ (statusClock_length s) _ h]
  · rw [show 19 + p = 14 + (5 + p) by omega, line, clock, within _ _ (statusInputs_length s) _ h]
  · rw [show 25 + p = 14 + (5 + (6 + p)) by omega, line, clock, inputs, within _ _ (statusQueue_length s) _ h]
  · rw [show 35 + p = 14 + (5 + (6 + (10 + p))) by omega, line, clock, inputs, queue, within _ _ (beBytes_length 1 _) _ h]
  · rw [show 36 + p = 14 + (5 + (6 + (10 + (1 + p)))) by omega,
      line, clock, inputs, queue, flags,
      within _ _ (statusOpenCascade_length s) _ h]
  · rw [show 48 + p = 14 + (5 + (6 + (10 + (1 + (12 + p))))) by omega,
      line, clock, inputs, queue, flags, cascade,
      within _ _ (statusCascades_length s) _ h]
  · rw [show 61 + p = 14 + (5 + (6 + (10 + (1 + (12 + (13 + p)))))) by omega,
      line, clock, inputs, queue, flags, cascade, cascades,
      within _ _ (statusStop_length s) _ h]
  · rw [show 71 + p = 14 + (5 + (6 + (10 + (1 + (12 + (13 + (10 + p))))))) by omega,
      line, clock, inputs, queue, flags, cascade, cascades, stop,
      within _ _ (statusSpeed_length s) _ h]
  · rw [show 82 + p = 14 + (5 + (6 + (10 + (1 + (12 + (13 + (10 + (11 + p)))))))) by omega,
      line, clock, inputs, queue, flags, cascade, cascades, stop, speed,
      within _ _ (statusRun_length s) _ h]
  · rw [show 83 + p = 14 + (5 + (6 + (10 + (1 + (12 + (13 + (10 + (11 + (1 + p))))))))) by omega,
      line, clock, inputs, queue, flags, cascade, cascades, stop, speed, run,
      within _ _ (optKeyBytes_length _) _ h]
  · rw [show 86 + p = 14 + (5 + (6 + (10 + (1 + (12 + (13 + (10 + (11 + (1 + (3 + p)))))))))) by omega,
      line, clock, inputs, queue, flags, cascade, cascades, stop, speed, run, reached,
      within _ _ (statusPost_length s) _ h]
  · rw [show 116 + p = 14 + (5 + (6 + (10 + (1 + (12 + (13 + (10 + (11 + (1 + (3 + (30 + p))))))))))) by omega,
      line, clock, inputs, queue, flags, cascade, cascades, stop, speed, run, reached, post,
      within _ _ (statusSupply_length s) _ h]
  · rw [show 125 + p = 14 + (5 + (6 + (10 + (1 + (12 + (13 + (10 + (11 + (1 + (3 + (30 + (9 + p)))))))))))) by omega,
      line, clock, inputs, queue, flags, cascade, cascades, stop, speed, run, reached, post, supply,
      within _ _ (statusNode_length s) _ h]

/-! ### The check and the bits of a frame -/

/-- One bit of a byte shifted into the Station Line check's register (R8). -/
def crcBit (b : Byte) (r : BitVec 16) (place : Nat) : BitVec 16 :=
  if r.getLsbD 15 = b.getLsbD place then r <<< 1 else (r <<< 1) ^^^ 0x1021#16

theorem crcShift16_xor (x y : BitVec 16) :
    crcShift16 (x ^^^ y) = (if x.getLsbD 15 = y.getLsbD 15 then x <<< 1 else (x <<< 1) ^^^ 0x1021#16) ^^^ (y <<< 1) := by
  unfold crcShift16
  have h : (x ^^^ y).msb = (x.getLsbD 15 ^^ y.getLsbD 15) := by simp [BitVec.msb_eq_getLsbD_last]
  rw [h]
  cases x.getLsbD 15 <;> cases y.getLsbD 15 <;> simp [BitVec.shiftLeft_xor_distrib, BitVec.xor_assoc] <;>
    rw [BitVec.xor_comm (y <<< 1)]

/-- A byte goes into the register bit by bit, the most significant first (R8). -/
theorem crcByte16_bits (r : BitVec 16) (b : Byte) : crcByte16 r b = [7, 6, 5, 4, 3, 2, 1, 0].foldl (crcBit b) r := by
  have bit (x : BitVec 16) (p : Nat) (y : BitVec 16) (hy : y.getLsbD 15 = b.getLsbD p) :
      crcShift16 (x ^^^ y) = crcBit b x p ^^^ (y <<< 1) := by
    rw [crcShift16_xor, hy]
    rfl
  unfold crcByte16
  simp only [Nat.repeat, List.foldl]
  rw [bit r 7 _ (by simp), bit _ 6 _ (by simp), bit _ 5 _ (by simp), bit _ 4 _ (by simp), bit _ 3 _ (by simp),
    bit _ 2 _ (by simp), bit _ 1 _ (by simp), bit _ 0 _ (by simp)]
  rw [show (BitVec.zeroExtend 16 b <<< 8) <<< 1 <<< 1 <<< 1 <<< 1 <<< 1 <<< 1 <<< 1 <<< 1 = 0#16 by ext i hi; simp]
  simp

/-- The check of bytes with one more. -/
theorem crc16_append (bytes : List Byte) (b : Byte) :
    crc16 (bytes ++ [b]) = [7, 6, 5, 4, 3, 2, 1, 0].foldl (crcBit b) (crc16 bytes) := by
  unfold crc16
  rw [List.foldl_append]
  exact crcByte16_bits _ _

/-- A bit of a frame (R5). -/
theorem frameBits_getElem (bytes : List Byte) (i place : Nat) (h : place < 8) :
    (frameBits bytes)[8 * i + place]? = bytes[i]?.map fun b => b.getLsbD (7 - place) := by
  induction bytes generalizing i with
  | nil => simp [frameBits]
  | cons b bs ih =>
    have e : frameBits (b :: bs) = [b.getLsbD 7, b.getLsbD 6, b.getLsbD 5, b.getLsbD 4, b.getLsbD 3, b.getLsbD 2, b.getLsbD 1,
        b.getLsbD 0] ++ frameBits bs := rfl
    rw [e]
    cases i with
    | zero =>
      rw [List.getElem?_append_left (by simpa using h)]
      have : place = 0 ∨ place = 1 ∨ place = 2 ∨ place = 3 ∨ place = 4 ∨ place = 5 ∨ place = 6 ∨ place = 7 := by omega
      rcases this with rfl | rfl | rfl | rfl | rfl | rfl | rfl | rfl <;> rfl
    | succ i =>
      rw [List.getElem?_append_right (by simp; omega)]
      simp only [List.length_cons, List.length_nil, List.getElem?_cons_succ]
      rw [← ih]
      congr 1
      omega

end Sys2Proof.Machine
end

