-- ==== Sys2Proof/Laws/State.lean ====
section
/-! SUPPORT. What each named update of the state leaves alone and what it sets, field by field, all true by rfl. -/

namespace Sys2Proof.Machine

/-- `setFlag` changes the flags alone. -/
@[simp] theorem State.setFlag_fields (s : State) (f : Source) :
    (s.setFlag f).time = s.time ∧ (s.setFlag f).clock = s.clock ∧ (s.setFlag f).lif = s.lif ∧
    (s.setFlag f).clu = s.clu ∧ (s.setFlag f).isc = s.isc ∧ (s.setFlag f).evq = s.evq ∧
    (s.setFlag f).csu = s.csu ∧ (s.setFlag f).spu = s.spu ∧ (s.setFlag f).run = s.run ∧
    (s.setFlag f).tallies = s.tallies ∧ (s.setFlag f).shu = s.shu ∧ (s.setFlag f).lastAccepted = s.lastAccepted ∧
    (s.setFlag f).sup = s.sup ∧ (s.setFlag f).chk = s.chk ∧ (s.setFlag f).lpt = s.lpt ∧
    (s.setFlag f).pins = s.pins ∧ (s.setFlag f).free = s.free ∧ (s.setFlag f).pending = s.pending ∧
    (s.setFlag f).atl.flags = s.atl.flags ||| f.mark :=
  ⟨rfl, rfl, rfl, rfl, rfl, rfl, rfl, rfl, rfl, rfl, rfl, rfl, rfl, rfl, rfl, rfl, rfl, rfl, rfl⟩

/-- `setInput` changes one input alone. -/
@[simp] theorem State.setInput_fields (s : State) (n : InputNo) (i : InputState) :
    (s.setInput n i).time = s.time ∧ (s.setInput n i).clock = s.clock ∧ (s.setInput n i).lif = s.lif ∧
    (s.setInput n i).clu = s.clu ∧ (s.setInput n i).evq = s.evq ∧ (s.setInput n i).csu = s.csu ∧
    (s.setInput n i).spu = s.spu ∧ (s.setInput n i).run = s.run ∧ (s.setInput n i).tallies = s.tallies ∧
    (s.setInput n i).shu = s.shu ∧ (s.setInput n i).lastAccepted = s.lastAccepted ∧ (s.setInput n i).sup = s.sup ∧
    (s.setInput n i).chk = s.chk ∧ (s.setInput n i).lpt = s.lpt ∧ (s.setInput n i).atl = s.atl ∧
    (s.setInput n i).pins = s.pins ∧ (s.setInput n i).free = s.free ∧ (s.setInput n i).pending = s.pending ∧
    (s.setInput n i).isc.inputs = s.isc.inputs.set n.val i :=
  ⟨rfl, rfl, rfl, rfl, rfl, rfl, rfl, rfl, rfl, rfl, rfl, rfl, rfl, rfl, rfl, rfl, rfl, rfl, rfl⟩

/-- A record request changes the queue and, at the making of an OVERFLOW record, its flag. -/
@[simp] theorem State.request_fields (s : State) (k : RecordKind) (t : Stamp) (a : Nat) (b : BitVec 32) :
    (s.request k t a b).time = s.time ∧ (s.request k t a b).clock = s.clock ∧ (s.request k t a b).lif = s.lif ∧
    (s.request k t a b).clu = s.clu ∧ (s.request k t a b).isc = s.isc ∧ (s.request k t a b).csu = s.csu ∧
    (s.request k t a b).spu = s.spu ∧ (s.request k t a b).run = s.run ∧ (s.request k t a b).tallies = s.tallies ∧
    (s.request k t a b).shu = s.shu ∧ (s.request k t a b).lastAccepted = s.lastAccepted ∧
    (s.request k t a b).sup = s.sup ∧ (s.request k t a b).chk = s.chk ∧ (s.request k t a b).lpt = s.lpt ∧
    (s.request k t a b).pins = s.pins ∧ (s.request k t a b).free = s.free ∧
    (s.request k t a b).pending = s.pending ∧
    (s.request k t a b).evq.records = s.evq.place (s.evq.recordFor k t (BitVec.ofNat 8 a) b) ∧
    (s.request k t a b).evq.nextSeq = s.evq.nextSeq + 1 ∧
    (s.request k t a b).atl.flags = s.atl.flags ||| Source.eventOverflow.markIf s.evq.overflows :=
  ⟨rfl, rfl, rfl, rfl, rfl, rfl, rfl, rfl, rfl, rfl, rfl, rfl, rfl, rfl, rfl, rfl, rfl, rfl, rfl, rfl⟩

/-- A record request dated now changes the queue and its flag alone. -/
@[simp] theorem State.requestNow_fields (s : State) (k : RecordKind) (a : Nat) (b : BitVec 32) :
    (s.requestNow k a b).time = s.time ∧ (s.requestNow k a b).clock = s.clock ∧ (s.requestNow k a b).lif = s.lif ∧
    (s.requestNow k a b).clu = s.clu ∧ (s.requestNow k a b).isc = s.isc ∧ (s.requestNow k a b).csu = s.csu ∧
    (s.requestNow k a b).spu = s.spu ∧ (s.requestNow k a b).run = s.run ∧
    (s.requestNow k a b).tallies = s.tallies ∧ (s.requestNow k a b).shu = s.shu ∧
    (s.requestNow k a b).lastAccepted = s.lastAccepted ∧ (s.requestNow k a b).sup = s.sup ∧
    (s.requestNow k a b).chk = s.chk ∧ (s.requestNow k a b).lpt = s.lpt ∧ (s.requestNow k a b).pins = s.pins ∧
    (s.requestNow k a b).free = s.free ∧ (s.requestNow k a b).pending = s.pending :=
  ⟨rfl, rfl, rfl, rfl, rfl, rfl, rfl, rfl, rfl, rfl, rfl, rfl, rfl, rfl, rfl, rfl, rfl⟩

/-- A line count changes the counters alone. -/
@[simp] theorem State.count_fields (s : State) (f : LineCounters → LineCounters) :
    (s.count f).time = s.time ∧ (s.count f).clock = s.clock ∧ (s.count f).clu = s.clu ∧ (s.count f).isc = s.isc ∧
    (s.count f).evq = s.evq ∧ (s.count f).csu = s.csu ∧ (s.count f).spu = s.spu ∧ (s.count f).run = s.run ∧
    (s.count f).tallies = s.tallies ∧ (s.count f).shu = s.shu ∧ (s.count f).lastAccepted = s.lastAccepted ∧
    (s.count f).sup = s.sup ∧ (s.count f).chk = s.chk ∧ (s.count f).lpt = s.lpt ∧ (s.count f).atl = s.atl ∧
    (s.count f).pins = s.pins ∧ (s.count f).free = s.free ∧ (s.count f).pending = s.pending ∧
    (s.count f).lif.counters = f s.lif.counters ∧ (s.count f).lif.sendList = s.lif.sendList ∧
    (s.count f).lif.send = s.lif.send :=
  ⟨rfl, rfl, rfl, rfl, rfl, rfl, rfl, rfl, rfl, rfl, rfl, rfl, rfl, rfl, rfl, rfl, rfl, rfl, rfl, rfl, rfl⟩

/-- `setSendList` changes the send list alone. -/
@[simp] theorem State.setSendList_fields (s : State) (l : List QueuedFrame) :
    (s.setSendList l).time = s.time ∧ (s.setSendList l).clock = s.clock ∧ (s.setSendList l).clu = s.clu ∧
    (s.setSendList l).isc = s.isc ∧ (s.setSendList l).evq = s.evq ∧ (s.setSendList l).csu = s.csu ∧
    (s.setSendList l).spu = s.spu ∧ (s.setSendList l).run = s.run ∧ (s.setSendList l).tallies = s.tallies ∧
    (s.setSendList l).shu = s.shu ∧ (s.setSendList l).lastAccepted = s.lastAccepted ∧
    (s.setSendList l).sup = s.sup ∧ (s.setSendList l).chk = s.chk ∧ (s.setSendList l).lpt = s.lpt ∧
    (s.setSendList l).atl = s.atl ∧ (s.setSendList l).pins = s.pins ∧ (s.setSendList l).free = s.free ∧
    (s.setSendList l).pending = s.pending ∧ (s.setSendList l).lif.sendList = l ∧
    (s.setSendList l).lif.counters = s.lif.counters :=
  ⟨rfl, rfl, rfl, rfl, rfl, rfl, rfl, rfl, rfl, rfl, rfl, rfl, rfl, rfl, rfl, rfl, rfl, rfl, rfl, rfl⟩

/-- A SEND FAILED record. -/
@[simp] theorem State.sendFailed_fields (s : State) (c : FrameContent) (d : Bool) :
    (s.sendFailed c d).time = s.time ∧ (s.sendFailed c d).clock = s.clock ∧ (s.sendFailed c d).lif = s.lif ∧
    (s.sendFailed c d).clu = s.clu ∧ (s.sendFailed c d).isc = s.isc ∧ (s.sendFailed c d).csu = s.csu ∧
    (s.sendFailed c d).spu = s.spu ∧ (s.sendFailed c d).run = s.run ∧ (s.sendFailed c d).tallies = s.tallies ∧
    (s.sendFailed c d).shu = s.shu ∧ (s.sendFailed c d).lastAccepted = s.lastAccepted ∧
    (s.sendFailed c d).sup = s.sup ∧ (s.sendFailed c d).chk = s.chk ∧ (s.sendFailed c d).lpt = s.lpt ∧
    (s.sendFailed c d).pins = s.pins ∧ (s.sendFailed c d).free = s.free ∧ (s.sendFailed c d).pending = s.pending :=
  ⟨rfl, rfl, rfl, rfl, rfl, rfl, rfl, rfl, rfl, rfl, rfl, rfl, rfl, rfl, rfl, rfl, rfl⟩

/-- An unmatched TALLY frame. -/
@[simp] theorem State.countUnmatched_fields (s : State) :
    (s.countUnmatched).time = s.time ∧ (s.countUnmatched).clock = s.clock ∧ (s.countUnmatched).lif = s.lif ∧
    (s.countUnmatched).clu = s.clu ∧ (s.countUnmatched).isc = s.isc ∧ (s.countUnmatched).evq = s.evq ∧
    (s.countUnmatched).csu = s.csu ∧ (s.countUnmatched).spu = s.spu ∧ (s.countUnmatched).run = s.run ∧
    (s.countUnmatched).tallies = s.tallies ∧ (s.countUnmatched).lastAccepted = s.lastAccepted ∧
    (s.countUnmatched).sup = s.sup ∧ (s.countUnmatched).chk = s.chk ∧ (s.countUnmatched).lpt = s.lpt ∧
    (s.countUnmatched).atl = s.atl ∧ (s.countUnmatched).pins = s.pins ∧ (s.countUnmatched).free = s.free ∧
    (s.countUnmatched).pending = s.pending :=
  ⟨rfl, rfl, rfl, rfl, rfl, rfl, rfl, rfl, rfl, rfl, rfl, rfl, rfl, rfl, rfl, rfl, rfl, rfl⟩

/-- An unused HANDOVER frame. -/
@[simp] theorem State.countUnused_fields (s : State) :
    (s.countUnused).time = s.time ∧ (s.countUnused).clock = s.clock ∧ (s.countUnused).lif = s.lif ∧
    (s.countUnused).clu = s.clu ∧ (s.countUnused).isc = s.isc ∧ (s.countUnused).evq = s.evq ∧
    (s.countUnused).csu = s.csu ∧ (s.countUnused).spu = s.spu ∧ (s.countUnused).run = s.run ∧
    (s.countUnused).tallies = s.tallies ∧ (s.countUnused).lastAccepted = s.lastAccepted ∧
    (s.countUnused).sup = s.sup ∧ (s.countUnused).chk = s.chk ∧ (s.countUnused).lpt = s.lpt ∧
    (s.countUnused).atl = s.atl ∧ (s.countUnused).pins = s.pins ∧ (s.countUnused).free = s.free ∧
    (s.countUnused).pending = s.pending ∧ s.countUnused.shu.unused = satInc s.shu.unused :=
  ⟨rfl, rfl, rfl, rfl, rfl, rfl, rfl, rfl, rfl, rfl, rfl, rfl, rfl, rfl, rfl, rfl, rfl, rfl, rfl⟩

/-- A change of the tally changes the tally alone. -/
@[simp] theorem State.changeTally_fields (s : State) (f : Tally → Tally) :
    (s.changeTally f).time = s.time ∧ (s.changeTally f).clock = s.clock ∧ (s.changeTally f).lif = s.lif ∧
    (s.changeTally f).clu = s.clu ∧ (s.changeTally f).isc = s.isc ∧ (s.changeTally f).evq = s.evq ∧
    (s.changeTally f).csu = s.csu ∧ (s.changeTally f).spu = s.spu ∧ (s.changeTally f).run = s.run ∧
    (s.changeTally f).shu = s.shu ∧ (s.changeTally f).lastAccepted = s.lastAccepted ∧
    (s.changeTally f).sup = s.sup ∧ (s.changeTally f).chk = s.chk ∧ (s.changeTally f).lpt = s.lpt ∧
    (s.changeTally f).atl = s.atl ∧ (s.changeTally f).pins = s.pins ∧ (s.changeTally f).free = s.free ∧
    (s.changeTally f).pending = s.pending ∧ (s.changeTally f).tallies.tally = (f s.tallies.tally).sealed ∧
    (s.changeTally f).tallies.baseline = s.tallies.baseline ∧
    (s.changeTally f).tallies.unitShifts = s.tallies.unitShifts ∧
    (s.changeTally f).tallies.lastClosed = s.tallies.lastClosed :=
  ⟨rfl, rfl, rfl, rfl, rfl, rfl, rfl, rfl, rfl, rfl, rfl, rfl, rfl, rfl, rfl, rfl, rfl, rfl, rfl, rfl, rfl, rfl⟩

/-- A STOP CLASSIFIED record. -/
@[simp] theorem State.recordStop_fields (s : State) (d : Stamp) (t : Option (NodeNo × InputNo)) (f : StopFlags) (ms : Nat) :
    (s.recordStop d t f ms).time = s.time ∧ (s.recordStop d t f ms).clock = s.clock ∧
    (s.recordStop d t f ms).lif = s.lif ∧ (s.recordStop d t f ms).clu = s.clu ∧
    (s.recordStop d t f ms).isc = s.isc ∧ (s.recordStop d t f ms).csu = s.csu ∧
    (s.recordStop d t f ms).spu = s.spu ∧ (s.recordStop d t f ms).run = s.run ∧
    (s.recordStop d t f ms).tallies = s.tallies ∧ (s.recordStop d t f ms).shu = s.shu ∧
    (s.recordStop d t f ms).lastAccepted = s.lastAccepted ∧ (s.recordStop d t f ms).sup = s.sup ∧
    (s.recordStop d t f ms).chk = s.chk ∧ (s.recordStop d t f ms).lpt = s.lpt ∧
    (s.recordStop d t f ms).pins = s.pins ∧ (s.recordStop d t f ms).free = s.free ∧
    (s.recordStop d t f ms).pending = s.pending :=
  ⟨rfl, rfl, rfl, rfl, rfl, rfl, rfl, rfl, rfl, rfl, rfl, rfl, rfl, rfl, rfl, rfl, rfl⟩

/-- A RUN CHANGE record. -/
@[simp] theorem State.recordRun_fields (s : State) (d : Stamp) (n : RunState) (b : Bool) :
    (s.recordRun d n b).time = s.time ∧ (s.recordRun d n b).clock = s.clock ∧ (s.recordRun d n b).lif = s.lif ∧
    (s.recordRun d n b).clu = s.clu ∧ (s.recordRun d n b).isc = s.isc ∧ (s.recordRun d n b).csu = s.csu ∧
    (s.recordRun d n b).spu = s.spu ∧ (s.recordRun d n b).run = s.run ∧ (s.recordRun d n b).tallies = s.tallies ∧
    (s.recordRun d n b).shu = s.shu ∧ (s.recordRun d n b).lastAccepted = s.lastAccepted ∧
    (s.recordRun d n b).sup = s.sup ∧ (s.recordRun d n b).chk = s.chk ∧ (s.recordRun d n b).lpt = s.lpt ∧
    (s.recordRun d n b).pins = s.pins ∧ (s.recordRun d n b).free = s.free ∧ (s.recordRun d n b).pending = s.pending :=
  ⟨rfl, rfl, rfl, rfl, rfl, rfl, rfl, rfl, rfl, rfl, rfl, rfl, rfl, rfl, rfl, rfl, rfl⟩

/-- `enterRun` changes the run state and ends the initial phase. -/
@[simp] theorem State.enterRun_fields (s : State) (n : RunState) :
    (s.enterRun n).time = s.time ∧ (s.enterRun n).clock = s.clock ∧ (s.enterRun n).lif = s.lif ∧
    (s.enterRun n).clu = s.clu ∧ (s.enterRun n).isc = s.isc ∧ (s.enterRun n).evq = s.evq ∧
    (s.enterRun n).csu = s.csu ∧ (s.enterRun n).spu = s.spu ∧ (s.enterRun n).tallies = s.tallies ∧
    (s.enterRun n).shu = s.shu ∧ (s.enterRun n).lastAccepted = s.lastAccepted ∧ (s.enterRun n).sup = s.sup ∧
    (s.enterRun n).chk = s.chk ∧ (s.enterRun n).lpt = s.lpt ∧ (s.enterRun n).atl = s.atl ∧
    (s.enterRun n).pins = s.pins ∧ (s.enterRun n).free = s.free ∧ (s.enterRun n).pending = s.pending ∧
    (s.enterRun n).run.state = n ∧ (s.enterRun n).run.stop = s.run.stop :=
  ⟨rfl, rfl, rfl, rfl, rfl, rfl, rfl, rfl, rfl, rfl, rfl, rfl, rfl, rfl, rfl, rfl, rfl, rfl, rfl, rfl⟩

/-- A stray. -/
@[simp] theorem State.countStray_fields (s : State) :
    (s.countStray).time = s.time ∧ (s.countStray).clock = s.clock ∧ (s.countStray).lif = s.lif ∧
    (s.countStray).clu = s.clu ∧ (s.countStray).isc = s.isc ∧ (s.countStray).evq = s.evq ∧
    (s.countStray).spu = s.spu ∧ (s.countStray).run = s.run ∧ (s.countStray).tallies = s.tallies ∧
    (s.countStray).shu = s.shu ∧ (s.countStray).lastAccepted = s.lastAccepted ∧ (s.countStray).sup = s.sup ∧
    (s.countStray).chk = s.chk ∧ (s.countStray).lpt = s.lpt ∧ (s.countStray).atl = s.atl ∧
    (s.countStray).pins = s.pins ∧ (s.countStray).free = s.free ∧ (s.countStray).pending = s.pending ∧
    s.countStray.csu.stray = satInc s.csu.stray :=
  ⟨rfl, rfl, rfl, rfl, rfl, rfl, rfl, rfl, rfl, rfl, rfl, rfl, rfl, rfl, rfl, rfl, rfl, rfl, rfl⟩

/-- A cascade opens. -/
@[simp] theorem State.openCascade_fields (s : State) (m : Member) :
    (s.openCascade m).time = s.time ∧ (s.openCascade m).clock = s.clock ∧ (s.openCascade m).lif = s.lif ∧
    (s.openCascade m).clu = s.clu ∧ (s.openCascade m).isc = s.isc ∧ (s.openCascade m).evq = s.evq ∧
    (s.openCascade m).spu = s.spu ∧ (s.openCascade m).run = s.run ∧ (s.openCascade m).tallies = s.tallies ∧
    (s.openCascade m).shu = s.shu ∧ (s.openCascade m).lastAccepted = s.lastAccepted ∧
    (s.openCascade m).sup = s.sup ∧ (s.openCascade m).chk = s.chk ∧ (s.openCascade m).lpt = s.lpt ∧
    (s.openCascade m).atl = s.atl ∧ (s.openCascade m).pins = s.pins ∧ (s.openCascade m).free = s.free ∧
    (s.openCascade m).pending = s.pending ∧ (s.openCascade m).csu.list = s.csu.list :=
  ⟨rfl, rfl, rfl, rfl, rfl, rfl, rfl, rfl, rfl, rfl, rfl, rfl, rfl, rfl, rfl, rfl, rfl, rfl, rfl⟩

/-- `setMode` changes the machine alone. -/
@[simp] theorem State.setMode_fields (s : State) (m : PostState) :
    (s.setMode m).time = s.time ∧ (s.setMode m).clock = s.clock ∧ (s.setMode m).lif = s.lif ∧
    (s.setMode m).clu = s.clu ∧ (s.setMode m).isc = s.isc ∧ (s.setMode m).evq = s.evq ∧
    (s.setMode m).csu = s.csu ∧ (s.setMode m).spu = s.spu ∧ (s.setMode m).run = s.run ∧
    (s.setMode m).tallies = s.tallies ∧ (s.setMode m).lastAccepted = s.lastAccepted ∧ (s.setMode m).sup = s.sup ∧
    (s.setMode m).chk = s.chk ∧ (s.setMode m).lpt = s.lpt ∧ (s.setMode m).atl = s.atl ∧
    (s.setMode m).pins = s.pins ∧ (s.setMode m).free = s.free ∧ (s.setMode m).pending = s.pending ∧
    (s.setMode m).shu.mode = m ∧ (s.setMode m).shu.records = s.shu.records ∧ (s.setMode m).shu.held = s.shu.held ∧
    (s.setMode m).shu.grace = s.shu.grace :=
  ⟨rfl, rfl, rfl, rfl, rfl, rfl, rfl, rfl, rfl, rfl, rfl, rfl, rfl, rfl, rfl, rfl, rfl, rfl, rfl, rfl, rfl, rfl⟩

/-- DUE. -/
@[simp] theorem State.enterDue_fields (s : State) (k : ShiftKey) (g : Int) :
    (s.enterDue k g).time = s.time ∧ (s.enterDue k g).clock = s.clock ∧ (s.enterDue k g).lif = s.lif ∧
    (s.enterDue k g).clu = s.clu ∧ (s.enterDue k g).isc = s.isc ∧ (s.enterDue k g).evq = s.evq ∧
    (s.enterDue k g).csu = s.csu ∧ (s.enterDue k g).spu = s.spu ∧ (s.enterDue k g).run = s.run ∧
    (s.enterDue k g).tallies = s.tallies ∧ (s.enterDue k g).lastAccepted = s.lastAccepted ∧
    (s.enterDue k g).sup = s.sup ∧ (s.enterDue k g).chk = s.chk ∧ (s.enterDue k g).lpt = s.lpt ∧
    (s.enterDue k g).pins = s.pins ∧ (s.enterDue k g).free = s.free ∧ (s.enterDue k g).pending = s.pending ∧
    (s.enterDue k g).shu.mode = .due ∧ (s.enterDue k g).shu.target = some k ∧
    (s.enterDue k g).shu.records = s.shu.records :=
  ⟨rfl, rfl, rfl, rfl, rfl, rfl, rfl, rfl, rfl, rfl, rfl, rfl, rfl, rfl, rfl, rfl, rfl, rfl, rfl, rfl⟩

/-- OVERDUE. -/
@[simp] theorem State.enterOverdue_fields (s : State) (k : ShiftKey) (g : Int) :
    (s.enterOverdue k g).time = s.time ∧ (s.enterOverdue k g).clock = s.clock ∧ (s.enterOverdue k g).lif = s.lif ∧
    (s.enterOverdue k g).clu = s.clu ∧ (s.enterOverdue k g).isc = s.isc ∧ (s.enterOverdue k g).evq = s.evq ∧
    (s.enterOverdue k g).csu = s.csu ∧ (s.enterOverdue k g).spu = s.spu ∧ (s.enterOverdue k g).run = s.run ∧
    (s.enterOverdue k g).tallies = s.tallies ∧ (s.enterOverdue k g).lastAccepted = s.lastAccepted ∧
    (s.enterOverdue k g).sup = s.sup ∧ (s.enterOverdue k g).chk = s.chk ∧ (s.enterOverdue k g).lpt = s.lpt ∧
    (s.enterOverdue k g).pins = s.pins ∧ (s.enterOverdue k g).free = s.free ∧
    (s.enterOverdue k g).pending = s.pending ∧ (s.enterOverdue k g).shu.mode = .overdue ∧
    (s.enterOverdue k g).shu.target = some k ∧ (s.enterOverdue k g).shu.records = s.shu.records :=
  ⟨rfl, rfl, rfl, rfl, rfl, rfl, rfl, rfl, rfl, rfl, rfl, rfl, rfl, rfl, rfl, rfl, rfl, rfl, rfl, rfl⟩

/-- A HANDOVER record. -/
@[simp] theorem State.recordHandover_fields (s : State) (d : Stamp) (o : HandoverOutcome) (e c : Bool) (k : ShiftKey) :
    (s.recordHandover d o e c k).time = s.time ∧ (s.recordHandover d o e c k).clock = s.clock ∧
    (s.recordHandover d o e c k).lif = s.lif ∧ (s.recordHandover d o e c k).clu = s.clu ∧
    (s.recordHandover d o e c k).isc = s.isc ∧ (s.recordHandover d o e c k).csu = s.csu ∧
    (s.recordHandover d o e c k).spu = s.spu ∧ (s.recordHandover d o e c k).run = s.run ∧
    (s.recordHandover d o e c k).tallies = s.tallies ∧ (s.recordHandover d o e c k).shu = s.shu ∧
    (s.recordHandover d o e c k).lastAccepted = s.lastAccepted ∧ (s.recordHandover d o e c k).sup = s.sup ∧
    (s.recordHandover d o e c k).chk = s.chk ∧ (s.recordHandover d o e c k).lpt = s.lpt ∧
    (s.recordHandover d o e c k).pins = s.pins ∧ (s.recordHandover d o e c k).free = s.free ∧
    (s.recordHandover d o e c k).pending = s.pending :=
  ⟨rfl, rfl, rfl, rfl, rfl, rfl, rfl, rfl, rfl, rfl, rfl, rfl, rfl, rfl, rfl, rfl, rfl⟩

/-- `accept` sets the last accepted key alone. -/
@[simp] theorem State.accept_fields (s : State) (k : ShiftKey) :
    (s.accept k).time = s.time ∧ (s.accept k).clock = s.clock ∧ (s.accept k).lif = s.lif ∧
    (s.accept k).clu = s.clu ∧ (s.accept k).isc = s.isc ∧ (s.accept k).evq = s.evq ∧ (s.accept k).csu = s.csu ∧
    (s.accept k).spu = s.spu ∧ (s.accept k).run = s.run ∧ (s.accept k).tallies = s.tallies ∧
    (s.accept k).shu = s.shu ∧ (s.accept k).sup = s.sup ∧ (s.accept k).chk = s.chk ∧ (s.accept k).lpt = s.lpt ∧
    (s.accept k).atl = s.atl ∧ (s.accept k).pins = s.pins ∧ (s.accept k).free = s.free ∧
    (s.accept k).pending = s.pending ∧ (s.accept k).lastAccepted = some k :=
  ⟨rfl, rfl, rfl, rfl, rfl, rfl, rfl, rfl, rfl, rfl, rfl, rfl, rfl, rfl, rfl, rfl, rfl, rfl, rfl⟩

/-- An UNPAIRED KEY record. -/
@[simp] theorem State.recordUnpaired_fields (s : State) (p : HeldPress) :
    (s.recordUnpaired p).time = s.time ∧ (s.recordUnpaired p).clock = s.clock ∧ (s.recordUnpaired p).lif = s.lif ∧
    (s.recordUnpaired p).clu = s.clu ∧ (s.recordUnpaired p).isc = s.isc ∧ (s.recordUnpaired p).csu = s.csu ∧
    (s.recordUnpaired p).spu = s.spu ∧ (s.recordUnpaired p).run = s.run ∧
    (s.recordUnpaired p).tallies = s.tallies ∧ (s.recordUnpaired p).shu = s.shu ∧
    (s.recordUnpaired p).lastAccepted = s.lastAccepted ∧ (s.recordUnpaired p).sup = s.sup ∧
    (s.recordUnpaired p).chk = s.chk ∧ (s.recordUnpaired p).lpt = s.lpt ∧ (s.recordUnpaired p).pins = s.pins ∧
    (s.recordUnpaired p).free = s.free ∧ (s.recordUnpaired p).pending = s.pending :=
  ⟨rfl, rfl, rfl, rfl, rfl, rfl, rfl, rfl, rfl, rfl, rfl, rfl, rfl, rfl, rfl, rfl, rfl⟩

/-- `clearHeld` drops the press alone. -/
@[simp] theorem State.clearHeld_fields (s : State) :
    (s.clearHeld).time = s.time ∧ (s.clearHeld).clock = s.clock ∧ (s.clearHeld).lif = s.lif ∧
    (s.clearHeld).clu = s.clu ∧ (s.clearHeld).isc = s.isc ∧ (s.clearHeld).evq = s.evq ∧
    (s.clearHeld).csu = s.csu ∧ (s.clearHeld).spu = s.spu ∧ (s.clearHeld).run = s.run ∧
    (s.clearHeld).tallies = s.tallies ∧ (s.clearHeld).lastAccepted = s.lastAccepted ∧ (s.clearHeld).sup = s.sup ∧
    (s.clearHeld).chk = s.chk ∧ (s.clearHeld).lpt = s.lpt ∧ (s.clearHeld).atl = s.atl ∧
    (s.clearHeld).pins = s.pins ∧ (s.clearHeld).free = s.free ∧ (s.clearHeld).pending = s.pending ∧
    s.clearHeld.shu.held = none ∧ s.clearHeld.shu.records = s.shu.records ∧ s.clearHeld.shu.mode = s.shu.mode :=
  ⟨rfl, rfl, rfl, rfl, rfl, rfl, rfl, rfl, rfl, rfl, rfl, rfl, rfl, rfl, rfl, rfl, rfl, rfl, rfl, rfl, rfl⟩

/-- `reach` sets the last reached key alone. -/
@[simp] theorem State.reach_fields (s : State) (k : ShiftKey) :
    (s.reach k).time = s.time ∧ (s.reach k).clock = s.clock ∧ (s.reach k).lif = s.lif ∧ (s.reach k).clu = s.clu ∧
    (s.reach k).isc = s.isc ∧ (s.reach k).evq = s.evq ∧ (s.reach k).csu = s.csu ∧ (s.reach k).spu = s.spu ∧
    (s.reach k).run = s.run ∧ (s.reach k).tallies = s.tallies ∧ (s.reach k).lastAccepted = s.lastAccepted ∧
    (s.reach k).sup = s.sup ∧ (s.reach k).chk = s.chk ∧ (s.reach k).lpt = s.lpt ∧ (s.reach k).atl = s.atl ∧
    (s.reach k).pins = s.pins ∧ (s.reach k).free = s.free ∧ (s.reach k).pending = s.pending ∧
    (s.reach k).shu.lastReached = some k ∧ (s.reach k).shu.records = s.shu.records :=
  ⟨rfl, rfl, rfl, rfl, rfl, rfl, rfl, rfl, rfl, rfl, rfl, rfl, rfl, rfl, rfl, rfl, rfl, rfl, rfl, rfl⟩

/-- A press is held. -/
@[simp] theorem State.hold_fields (s : State) (p : PressKey) (t : Stamp) (k : ShiftKey) :
    (s.hold p t k).time = s.time ∧ (s.hold p t k).clock = s.clock ∧ (s.hold p t k).lif = s.lif ∧
    (s.hold p t k).clu = s.clu ∧ (s.hold p t k).isc = s.isc ∧ (s.hold p t k).evq = s.evq ∧
    (s.hold p t k).csu = s.csu ∧ (s.hold p t k).spu = s.spu ∧ (s.hold p t k).run = s.run ∧
    (s.hold p t k).tallies = s.tallies ∧ (s.hold p t k).lastAccepted = s.lastAccepted ∧
    (s.hold p t k).sup = s.sup ∧ (s.hold p t k).chk = s.chk ∧ (s.hold p t k).lpt = s.lpt ∧
    (s.hold p t k).atl = s.atl ∧ (s.hold p t k).pins = s.pins ∧ (s.hold p t k).free = s.free ∧
    (s.hold p t k).pending = s.pending ∧ (s.hold p t k).shu.records = s.shu.records :=
  ⟨rfl, rfl, rfl, rfl, rfl, rfl, rfl, rfl, rfl, rfl, rfl, rfl, rfl, rfl, rfl, rfl, rfl, rfl, rfl⟩

/-- A CLOCK STEP record. -/
@[simp] theorem State.recordStep_fields (s : State) (a b : Date) (c : StepCause) :
    (s.recordStep a b c).time = s.time ∧ (s.recordStep a b c).clock = s.clock ∧ (s.recordStep a b c).lif = s.lif ∧
    (s.recordStep a b c).clu = s.clu ∧ (s.recordStep a b c).isc = s.isc ∧ (s.recordStep a b c).csu = s.csu ∧
    (s.recordStep a b c).spu = s.spu ∧ (s.recordStep a b c).run = s.run ∧
    (s.recordStep a b c).tallies = s.tallies ∧ (s.recordStep a b c).shu = s.shu ∧
    (s.recordStep a b c).lastAccepted = s.lastAccepted ∧ (s.recordStep a b c).sup = s.sup ∧
    (s.recordStep a b c).chk = s.chk ∧ (s.recordStep a b c).lpt = s.lpt ∧ (s.recordStep a b c).pins = s.pins ∧
    (s.recordStep a b c).free = s.free ∧ (s.recordStep a b c).pending = s.pending :=
  ⟨rfl, rfl, rfl, rfl, rfl, rfl, rfl, rfl, rfl, rfl, rfl, rfl, rfl, rfl, rfl, rfl, rfl⟩

/-- The clock after a step. -/
@[simp] theorem State.setClock_fields (s : State) (d : Date) :
    (s.setClock d).lif = s.lif ∧ (s.setClock d).isc = s.isc ∧ (s.setClock d).evq = s.evq ∧
    (s.setClock d).csu = s.csu ∧ (s.setClock d).spu = s.spu ∧ (s.setClock d).run = s.run ∧
    (s.setClock d).tallies = s.tallies ∧ (s.setClock d).shu.lastReached = s.shu.lastReached ∧
    (s.setClock d).lastAccepted = s.lastAccepted ∧ (s.setClock d).sup = s.sup ∧ (s.setClock d).chk = s.chk ∧
    (s.setClock d).lpt = s.lpt ∧ (s.setClock d).atl = s.atl ∧ (s.setClock d).pins = s.pins ∧
    (s.setClock d).free = s.free ∧ (s.setClock d).pending = s.pending ∧ (s.setClock d).clock = ⟨d, true⟩ ∧
    (s.setClock d).clu.state = s.clu.state ∧ (s.setClock d).clu.p = 0 ∧ (s.setClock d).clu.round = s.clu.round ∧
    (s.setClock d).time.elapsed = s.time.elapsed :=
  ⟨rfl, rfl, rfl, rfl, rfl, rfl, rfl, rfl, rfl, rfl, rfl, rfl, rfl, rfl, rfl, rfl, rfl, rfl, rfl, rfl, rfl⟩

/-- `replaceP` changes P and what is being spread. -/
@[simp] theorem State.replaceP_fields (s : State) (p : Int) :
    (s.replaceP p).clock = s.clock ∧ (s.replaceP p).lif = s.lif ∧ (s.replaceP p).isc = s.isc ∧
    (s.replaceP p).evq = s.evq ∧ (s.replaceP p).csu = s.csu ∧ (s.replaceP p).spu = s.spu ∧
    (s.replaceP p).run = s.run ∧ (s.replaceP p).tallies = s.tallies ∧ (s.replaceP p).shu = s.shu ∧
    (s.replaceP p).lastAccepted = s.lastAccepted ∧ (s.replaceP p).sup = s.sup ∧ (s.replaceP p).chk = s.chk ∧
    (s.replaceP p).lpt = s.lpt ∧ (s.replaceP p).atl = s.atl ∧ (s.replaceP p).pins = s.pins ∧
    (s.replaceP p).free = s.free ∧ (s.replaceP p).pending = s.pending ∧ (s.replaceP p).clu.p = p ∧
    (s.replaceP p).clu.state = s.clu.state ∧ (s.replaceP p).time.spread = 0 ∧
    (s.replaceP p).time.elapsed = s.time.elapsed :=
  ⟨rfl, rfl, rfl, rfl, rfl, rfl, rfl, rfl, rfl, rfl, rfl, rfl, rfl, rfl, rfl, rfl, rfl, rfl, rfl, rfl, rfl⟩

/-- A change of clock state. -/
@[simp] theorem State.changeState_fields (s : State) (n : ClockState) (c : StateCause) :
    (s.changeState n c).time = s.time ∧ (s.changeState n c).clock = s.clock ∧ (s.changeState n c).lif = s.lif ∧
    (s.changeState n c).isc = s.isc ∧ (s.changeState n c).csu = s.csu ∧ (s.changeState n c).spu = s.spu ∧
    (s.changeState n c).run = s.run ∧ (s.changeState n c).tallies = s.tallies ∧ (s.changeState n c).shu = s.shu ∧
    (s.changeState n c).lastAccepted = s.lastAccepted ∧ (s.changeState n c).sup = s.sup ∧
    (s.changeState n c).chk = s.chk ∧ (s.changeState n c).lpt = s.lpt ∧ (s.changeState n c).pins = s.pins ∧
    (s.changeState n c).free = s.free ∧ (s.changeState n c).pending = s.pending ∧
    (s.changeState n c).clu.state = n ∧ (s.changeState n c).clu.p = s.clu.p ∧
    (s.changeState n c).clu.round = s.clu.round ∧ (s.changeState n c).clu.monitor = s.clu.monitor :=
  ⟨rfl, rfl, rfl, rfl, rfl, rfl, rfl, rfl, rfl, rfl, rfl, rfl, rfl, rfl, rfl, rfl, rfl, rfl, rfl, rfl⟩

/-- `setRound` changes the open round alone. -/
@[simp] theorem State.setRound_fields (s : State) (r : Option Round) :
    (s.setRound r).time = s.time ∧ (s.setRound r).clock = s.clock ∧ (s.setRound r).lif = s.lif ∧
    (s.setRound r).isc = s.isc ∧ (s.setRound r).evq = s.evq ∧ (s.setRound r).csu = s.csu ∧
    (s.setRound r).spu = s.spu ∧ (s.setRound r).run = s.run ∧ (s.setRound r).tallies = s.tallies ∧
    (s.setRound r).shu = s.shu ∧ (s.setRound r).lastAccepted = s.lastAccepted ∧ (s.setRound r).sup = s.sup ∧
    (s.setRound r).chk = s.chk ∧ (s.setRound r).lpt = s.lpt ∧ (s.setRound r).atl = s.atl ∧
    (s.setRound r).pins = s.pins ∧ (s.setRound r).free = s.free ∧ (s.setRound r).pending = s.pending ∧
    (s.setRound r).clu.round = r ∧ (s.setRound r).clu.state = s.clu.state :=
  ⟨rfl, rfl, rfl, rfl, rfl, rfl, rfl, rfl, rfl, rfl, rfl, rfl, rfl, rfl, rfl, rfl, rfl, rfl, rfl, rfl⟩

/-- `setStart` changes one place of the start list. -/
@[simp] theorem State.setStart_fields (s : State) (n : NodeNo) (t : Start) :
    (s.setStart n t).time = s.time ∧ (s.setStart n t).clock = s.clock ∧ (s.setStart n t).lif = s.lif ∧
    (s.setStart n t).isc = s.isc ∧ (s.setStart n t).evq = s.evq ∧ (s.setStart n t).csu = s.csu ∧
    (s.setStart n t).spu = s.spu ∧ (s.setStart n t).run = s.run ∧ (s.setStart n t).tallies = s.tallies ∧
    (s.setStart n t).shu = s.shu ∧ (s.setStart n t).lastAccepted = s.lastAccepted ∧ (s.setStart n t).sup = s.sup ∧
    (s.setStart n t).chk = s.chk ∧ (s.setStart n t).lpt = s.lpt ∧ (s.setStart n t).atl = s.atl ∧
    (s.setStart n t).pins = s.pins ∧ (s.setStart n t).free = s.free ∧ (s.setStart n t).pending = s.pending ∧
    (s.setStart n t).clu.round = s.clu.round ∧ (s.setStart n t).clu.state = s.clu.state :=
  ⟨rfl, rfl, rfl, rfl, rfl, rfl, rfl, rfl, rfl, rfl, rfl, rfl, rfl, rfl, rfl, rfl, rfl, rfl, rfl, rfl⟩

/-- `setMonitor` changes the monitor alone. -/
@[simp] theorem State.setMonitor_fields (s : State) (m : Monitor) :
    (s.setMonitor m).time = s.time ∧ (s.setMonitor m).clock = s.clock ∧ (s.setMonitor m).lif = s.lif ∧
    (s.setMonitor m).isc = s.isc ∧ (s.setMonitor m).evq = s.evq ∧ (s.setMonitor m).csu = s.csu ∧
    (s.setMonitor m).spu = s.spu ∧ (s.setMonitor m).run = s.run ∧ (s.setMonitor m).tallies = s.tallies ∧
    (s.setMonitor m).shu = s.shu ∧ (s.setMonitor m).lastAccepted = s.lastAccepted ∧ (s.setMonitor m).sup = s.sup ∧
    (s.setMonitor m).chk = s.chk ∧ (s.setMonitor m).lpt = s.lpt ∧ (s.setMonitor m).atl = s.atl ∧
    (s.setMonitor m).pins = s.pins ∧ (s.setMonitor m).free = s.free ∧ (s.setMonitor m).pending = s.pending ∧
    (s.setMonitor m).clu.monitor = m ∧ (s.setMonitor m).clu.state = s.clu.state ∧
    (s.setMonitor m).clu.round = s.clu.round :=
  ⟨rfl, rfl, rfl, rfl, rfl, rfl, rfl, rfl, rfl, rfl, rfl, rfl, rfl, rfl, rfl, rfl, rfl, rfl, rfl, rfl, rfl⟩

/-- The view back at QUIET after a time of high wires changes the Line Interface alone. -/
@[simp] theorem State.lineQuietAfter_fields (s : State) (us : Nat) :
    (s.lineQuietAfter us).time = s.time ∧ (s.lineQuietAfter us).clock = s.clock ∧
    (s.lineQuietAfter us).clu = s.clu ∧ (s.lineQuietAfter us).isc = s.isc ∧ (s.lineQuietAfter us).evq = s.evq ∧
    (s.lineQuietAfter us).csu = s.csu ∧ (s.lineQuietAfter us).spu = s.spu ∧ (s.lineQuietAfter us).run = s.run ∧
    (s.lineQuietAfter us).tallies = s.tallies ∧ (s.lineQuietAfter us).shu = s.shu ∧
    (s.lineQuietAfter us).lastAccepted = s.lastAccepted ∧ (s.lineQuietAfter us).sup = s.sup ∧
    (s.lineQuietAfter us).chk = s.chk ∧ (s.lineQuietAfter us).lpt = s.lpt ∧ (s.lineQuietAfter us).atl = s.atl ∧
    (s.lineQuietAfter us).pins = s.pins ∧ (s.lineQuietAfter us).free = s.free ∧
    (s.lineQuietAfter us).pending = s.pending ∧ (s.lineQuietAfter us).lif.view = .quiet ∧
    (s.lineQuietAfter us).lif.sendList = s.lif.sendList ∧ (s.lineQuietAfter us).lif.counters = s.lif.counters :=
  ⟨rfl, rfl, rfl, rfl, rfl, rfl, rfl, rfl, rfl, rfl, rfl, rfl, rfl, rfl, rfl, rfl, rfl, rfl, rfl, rfl, rfl⟩

/-- The view in IDLE changes the Line Interface alone. -/
@[simp] theorem State.lineIdle_fields (s : State) (h : Nat) :
    (s.lineIdle h).time = s.time ∧ (s.lineIdle h).clock = s.clock ∧ (s.lineIdle h).clu = s.clu ∧
    (s.lineIdle h).isc = s.isc ∧ (s.lineIdle h).evq = s.evq ∧ (s.lineIdle h).csu = s.csu ∧ (s.lineIdle h).spu = s.spu ∧
    (s.lineIdle h).run = s.run ∧ (s.lineIdle h).tallies = s.tallies ∧ (s.lineIdle h).shu = s.shu ∧
    (s.lineIdle h).lastAccepted = s.lastAccepted ∧ (s.lineIdle h).sup = s.sup ∧ (s.lineIdle h).chk = s.chk ∧
    (s.lineIdle h).lpt = s.lpt ∧ (s.lineIdle h).atl = s.atl ∧ (s.lineIdle h).pins = s.pins ∧ (s.lineIdle h).free = s.free ∧
    (s.lineIdle h).pending = s.pending ∧ (s.lineIdle h).lif.view = .idle ∧ (s.lineIdle h).lif.sendList = s.lif.sendList ∧
    (s.lineIdle h).lif.counters = s.lif.counters :=
  ⟨rfl, rfl, rfl, rfl, rfl, rfl, rfl, rfl, rfl, rfl, rfl, rfl, rfl, rfl, rfl, rfl, rfl, rfl, rfl, rfl, rfl⟩

/-- An acknowledge bit changes the Line Interface alone. -/
@[simp] theorem State.acknowledged_fields (s : State) (m : Bool) :
    (s.acknowledged m).time = s.time ∧ (s.acknowledged m).clock = s.clock ∧ (s.acknowledged m).clu = s.clu ∧
    (s.acknowledged m).isc = s.isc ∧ (s.acknowledged m).evq = s.evq ∧ (s.acknowledged m).csu = s.csu ∧
    (s.acknowledged m).spu = s.spu ∧ (s.acknowledged m).run = s.run ∧ (s.acknowledged m).tallies = s.tallies ∧
    (s.acknowledged m).shu = s.shu ∧ (s.acknowledged m).lastAccepted = s.lastAccepted ∧
    (s.acknowledged m).sup = s.sup ∧ (s.acknowledged m).chk = s.chk ∧ (s.acknowledged m).lpt = s.lpt ∧
    (s.acknowledged m).atl = s.atl ∧ (s.acknowledged m).pins = s.pins ∧ (s.acknowledged m).free = s.free ∧
    (s.acknowledged m).pending = s.pending ∧ (s.acknowledged m).lif.sendList = s.lif.sendList ∧
    (s.acknowledged m).lif.send = s.lif.send ∧ (s.acknowledged m).lif.counters = s.lif.counters ∧
    (s.acknowledged m).lif.counted = s.lif.counted :=
  ⟨rfl, rfl, rfl, rfl, rfl, rfl, rfl, rfl, rfl, rfl, rfl, rfl, rfl, rfl, rfl, rfl, rfl, rfl, rfl, rfl, rfl, rfl⟩

/-- Bits clocked change the Line Interface alone. -/
@[simp] theorem State.clocked_fields (s : State) :
    (s.clocked).time = s.time ∧ (s.clocked).clock = s.clock ∧ (s.clocked).clu = s.clu ∧ (s.clocked).isc = s.isc ∧
    (s.clocked).evq = s.evq ∧ (s.clocked).csu = s.csu ∧ (s.clocked).spu = s.spu ∧ (s.clocked).run = s.run ∧
    (s.clocked).tallies = s.tallies ∧ (s.clocked).shu = s.shu ∧ (s.clocked).lastAccepted = s.lastAccepted ∧
    (s.clocked).sup = s.sup ∧ (s.clocked).chk = s.chk ∧ (s.clocked).lpt = s.lpt ∧ (s.clocked).atl = s.atl ∧
    (s.clocked).pins = s.pins ∧ (s.clocked).free = s.free ∧ (s.clocked).pending = s.pending ∧
    s.clocked.lif.sendList = s.lif.sendList ∧ s.clocked.lif.counters = s.lif.counters :=
  ⟨rfl, rfl, rfl, rfl, rfl, rfl, rfl, rfl, rfl, rfl, rfl, rfl, rfl, rfl, rfl, rfl, rfl, rfl, rfl, rfl⟩

/-- The view back at QUIET. -/
@[simp] theorem State.lineQuiet_fields (s : State) :
    (s.lineQuiet).time = s.time ∧ (s.lineQuiet).clock = s.clock ∧ (s.lineQuiet).clu = s.clu ∧
    (s.lineQuiet).isc = s.isc ∧ (s.lineQuiet).evq = s.evq ∧ (s.lineQuiet).csu = s.csu ∧
    (s.lineQuiet).spu = s.spu ∧ (s.lineQuiet).run = s.run ∧ (s.lineQuiet).tallies = s.tallies ∧
    (s.lineQuiet).shu = s.shu ∧ (s.lineQuiet).lastAccepted = s.lastAccepted ∧ (s.lineQuiet).sup = s.sup ∧
    (s.lineQuiet).chk = s.chk ∧ (s.lineQuiet).lpt = s.lpt ∧ (s.lineQuiet).atl = s.atl ∧
    (s.lineQuiet).pins = s.pins ∧ (s.lineQuiet).free = s.free ∧ (s.lineQuiet).pending = s.pending ∧
    s.lineQuiet.lif.view = .quiet ∧ s.lineQuiet.lif.sendList = s.lif.sendList ∧
    s.lineQuiet.lif.counters = s.lif.counters :=
  ⟨rfl, rfl, rfl, rfl, rfl, rfl, rfl, rfl, rfl, rfl, rfl, rfl, rfl, rfl, rfl, rfl, rfl, rfl, rfl, rfl, rfl⟩

/-- The L1 flash. -/
@[simp] theorem State.flashLine_fields (s : State) :
    (s.flashLine).time = s.time ∧ (s.flashLine).clock = s.clock ∧ (s.flashLine).lif = s.lif ∧
    (s.flashLine).clu = s.clu ∧ (s.flashLine).isc = s.isc ∧ (s.flashLine).evq = s.evq ∧
    (s.flashLine).csu = s.csu ∧ (s.flashLine).spu = s.spu ∧ (s.flashLine).run = s.run ∧
    (s.flashLine).tallies = s.tallies ∧ (s.flashLine).shu = s.shu ∧ (s.flashLine).lastAccepted = s.lastAccepted ∧
    (s.flashLine).sup = s.sup ∧ (s.flashLine).chk = s.chk ∧ (s.flashLine).lpt = s.lpt ∧
    (s.flashLine).pins = s.pins ∧ (s.flashLine).free = s.free ∧ (s.flashLine).pending = s.pending ∧
    s.flashLine.atl.flags = s.atl.flags :=
  ⟨rfl, rfl, rfl, rfl, rfl, rfl, rfl, rfl, rfl, rfl, rfl, rfl, rfl, rfl, rfl, rfl, rfl, rfl, rfl⟩

/-- `respond` fills the response buffer alone. -/
@[simp] theorem State.respond_fields (s : State) (b : List Byte) :
    (s.respond b).time = s.time ∧ (s.respond b).clock = s.clock ∧ (s.respond b).lif = s.lif ∧
    (s.respond b).clu = s.clu ∧ (s.respond b).isc = s.isc ∧ (s.respond b).evq = s.evq ∧
    (s.respond b).csu = s.csu ∧ (s.respond b).spu = s.spu ∧ (s.respond b).run = s.run ∧
    (s.respond b).tallies = s.tallies ∧ (s.respond b).shu = s.shu ∧ (s.respond b).lastAccepted = s.lastAccepted ∧
    (s.respond b).sup = s.sup ∧ (s.respond b).chk = s.chk ∧ (s.respond b).atl = s.atl ∧
    (s.respond b).pins = s.pins ∧ (s.respond b).free = s.free ∧ (s.respond b).pending = s.pending ∧
    (s.respond b).lpt.response = some b ∧ (s.respond b).lpt.nodeState = s.lpt.nodeState ∧
    (s.respond b).lpt.config = s.lpt.config ∧ (s.respond b).lpt.lsdo = s.lpt.lsdo :=
  ⟨rfl, rfl, rfl, rfl, rfl, rfl, rfl, rfl, rfl, rfl, rfl, rfl, rfl, rfl, rfl, rfl, rfl, rfl, rfl, rfl, rfl, rfl⟩

/-- `shiftOut` records what goes out alone. -/
@[simp] theorem State.shiftOut_fields (s : State) (b : List Byte) :
    (s.shiftOut b).time = s.time ∧ (s.shiftOut b).clock = s.clock ∧ (s.shiftOut b).lif = s.lif ∧
    (s.shiftOut b).clu = s.clu ∧ (s.shiftOut b).isc = s.isc ∧ (s.shiftOut b).evq = s.evq ∧
    (s.shiftOut b).csu = s.csu ∧ (s.shiftOut b).spu = s.spu ∧ (s.shiftOut b).run = s.run ∧
    (s.shiftOut b).tallies = s.tallies ∧ (s.shiftOut b).shu = s.shu ∧
    (s.shiftOut b).lastAccepted = s.lastAccepted ∧ (s.shiftOut b).sup = s.sup ∧ (s.shiftOut b).chk = s.chk ∧
    (s.shiftOut b).atl = s.atl ∧ (s.shiftOut b).pins = s.pins ∧ (s.shiftOut b).free = s.free ∧
    (s.shiftOut b).pending = s.pending ∧ (s.shiftOut b).lpt.lsdo = b ∧
    (s.shiftOut b).lpt.nodeState = s.lpt.nodeState ∧ (s.shiftOut b).lpt.config = s.lpt.config ∧
    (s.shiftOut b).lpt.response = s.lpt.response :=
  ⟨rfl, rfl, rfl, rfl, rfl, rfl, rfl, rfl, rfl, rfl, rfl, rfl, rfl, rfl, rfl, rfl, rfl, rfl, rfl, rfl, rfl, rfl⟩

/-- `takeConfig` changes the configuration and the node state alone. -/
@[simp] theorem State.takeConfig_fields (s : State) (c : NodeConfig) :
    (s.takeConfig c).time = s.time ∧ (s.takeConfig c).clock = s.clock ∧ (s.takeConfig c).lif = s.lif ∧
    (s.takeConfig c).clu = s.clu ∧ (s.takeConfig c).isc = s.isc ∧ (s.takeConfig c).evq = s.evq ∧
    (s.takeConfig c).csu = s.csu ∧ (s.takeConfig c).spu = s.spu ∧ (s.takeConfig c).run = s.run ∧
    (s.takeConfig c).tallies = s.tallies ∧ (s.takeConfig c).shu = s.shu ∧
    (s.takeConfig c).lastAccepted = s.lastAccepted ∧ (s.takeConfig c).sup = s.sup ∧ (s.takeConfig c).chk = s.chk ∧
    (s.takeConfig c).atl = s.atl ∧ (s.takeConfig c).pins = s.pins ∧ (s.takeConfig c).free = s.free ∧
    (s.takeConfig c).pending = s.pending ∧ (s.takeConfig c).lpt.config = some c ∧
    (s.takeConfig c).lpt.nodeState = .configured :=
  ⟨rfl, rfl, rfl, rfl, rfl, rfl, rfl, rfl, rfl, rfl, rfl, rfl, rfl, rfl, rfl, rfl, rfl, rfl, rfl, rfl⟩

/-- An acknowledge. -/
@[simp] theorem State.acknowledge_fields (s : State) (m : BitVec 16) :
    (s.acknowledge m).time = s.time ∧ (s.acknowledge m).clock = s.clock ∧ (s.acknowledge m).lif = s.lif ∧
    (s.acknowledge m).clu = s.clu ∧ (s.acknowledge m).isc = s.isc ∧ (s.acknowledge m).evq = s.evq ∧
    (s.acknowledge m).csu = s.csu ∧ (s.acknowledge m).spu = s.spu ∧ (s.acknowledge m).run = s.run ∧
    (s.acknowledge m).tallies = s.tallies ∧ (s.acknowledge m).shu = s.shu ∧
    (s.acknowledge m).lastAccepted = s.lastAccepted ∧ (s.acknowledge m).chk = s.chk ∧
    (s.acknowledge m).lpt = s.lpt ∧ (s.acknowledge m).pins = s.pins ∧ (s.acknowledge m).free = s.free ∧
    (s.acknowledge m).pending = s.pending ∧ (s.acknowledge m).atl.flags = s.ackedFlags m :=
  ⟨rfl, rfl, rfl, rfl, rfl, rfl, rfl, rfl, rfl, rfl, rfl, rfl, rfl, rfl, rfl, rfl, rfl, rfl⟩

/-- PRESET TALLY. -/
@[simp] theorem State.preset_fields (s : State) (f : TallyFields) :
    (s.preset f).time = s.time ∧ (s.preset f).clock = s.clock ∧ (s.preset f).lif = s.lif ∧
    (s.preset f).clu = s.clu ∧ (s.preset f).isc = s.isc ∧ (s.preset f).evq = s.evq ∧ (s.preset f).csu = s.csu ∧
    (s.preset f).spu = s.spu ∧ (s.preset f).run = s.run ∧ (s.preset f).shu = s.shu ∧
    (s.preset f).lastAccepted = s.lastAccepted ∧ (s.preset f).sup = s.sup ∧ (s.preset f).chk = s.chk ∧
    (s.preset f).lpt = s.lpt ∧ (s.preset f).atl = s.atl ∧ (s.preset f).pins = s.pins ∧
    (s.preset f).free = s.free ∧ (s.preset f).pending = s.pending ∧ (s.preset f).tallies.tally.fields = f ∧
    (s.preset f).tallies.tally.blank = false ∧ (s.preset f).tallies.tally.suspect = false ∧
    (s.preset f).tallies.tally.saturated = someAtTop f ∧ (s.preset f).tallies.baseline = Baseline.of (sixOf f) ∧
    (s.preset f).tallies.unitShifts = s.tallies.unitShifts ∧ (s.preset f).tallies.lastClosed = s.tallies.lastClosed :=
  ⟨rfl, rfl, rfl, rfl, rfl, rfl, rfl, rfl, rfl, rfl, rfl, rfl, rfl, rfl, rfl, rfl, rfl, rfl, rfl, rfl, rfl, rfl, rfl, rfl, rfl⟩

/-- ACCEPT TALLY. -/
@[simp] theorem State.acceptTallies_fields (s : State) :
    (s.acceptTallies).time = s.time ∧ (s.acceptTallies).clock = s.clock ∧ (s.acceptTallies).lif = s.lif ∧
    (s.acceptTallies).clu = s.clu ∧ (s.acceptTallies).isc = s.isc ∧ (s.acceptTallies).evq = s.evq ∧
    (s.acceptTallies).csu = s.csu ∧ (s.acceptTallies).spu = s.spu ∧ (s.acceptTallies).run = s.run ∧
    (s.acceptTallies).shu = s.shu ∧ (s.acceptTallies).lastAccepted = s.lastAccepted ∧
    (s.acceptTallies).sup = s.sup ∧ (s.acceptTallies).chk = s.chk ∧ (s.acceptTallies).lpt = s.lpt ∧
    (s.acceptTallies).atl = s.atl ∧ (s.acceptTallies).pins = s.pins ∧ (s.acceptTallies).free = s.free ∧
    (s.acceptTallies).pending = s.pending ∧ s.acceptTallies.tallies.tally.fields = s.tallies.tally.fields ∧
    s.acceptTallies.tallies.tally.saturated = s.tallies.tally.saturated ∧
    s.acceptTallies.tallies.tally.blank = s.tallies.tally.blank ∧ s.acceptTallies.tallies.tally.suspect = false ∧
    s.acceptTallies.tallies.baseline.fields = s.tallies.baseline.fields ∧
    s.acceptTallies.tallies.unitShifts = s.tallies.unitShifts :=
  ⟨rfl, rfl, rfl, rfl, rfl, rfl, rfl, rfl, rfl, rfl, rfl, rfl, rfl, rfl, rfl, rfl, rfl, rfl, rfl, rfl, rfl, rfl, rfl, rfl⟩

/-- The tally SUSPECT. -/
@[simp] theorem State.suspectTally_fields (s : State) :
    (s.suspectTally).time = s.time ∧ (s.suspectTally).clock = s.clock ∧ (s.suspectTally).lif = s.lif ∧
    (s.suspectTally).clu = s.clu ∧ (s.suspectTally).isc = s.isc ∧ (s.suspectTally).evq = s.evq ∧
    (s.suspectTally).csu = s.csu ∧ (s.suspectTally).spu = s.spu ∧ (s.suspectTally).run = s.run ∧
    (s.suspectTally).shu = s.shu ∧ (s.suspectTally).lastAccepted = s.lastAccepted ∧ (s.suspectTally).sup = s.sup ∧
    (s.suspectTally).chk = s.chk ∧ (s.suspectTally).lpt = s.lpt ∧ (s.suspectTally).atl = s.atl ∧
    (s.suspectTally).pins = s.pins ∧ (s.suspectTally).free = s.free ∧ (s.suspectTally).pending = s.pending ∧
    s.suspectTally.tallies.tally.fields = s.tallies.tally.fields ∧
    s.suspectTally.tallies.tally.saturated = s.tallies.tally.saturated ∧
    s.suspectTally.tallies.tally.suspect = true :=
  ⟨rfl, rfl, rfl, rfl, rfl, rfl, rfl, rfl, rfl, rfl, rfl, rfl, rfl, rfl, rfl, rfl, rfl, rfl, rfl, rfl, rfl⟩

/-- Both wires released. -/
@[simp] theorem State.releaseWires_fields (s : State) :
    (s.releaseWires).time = s.time ∧ (s.releaseWires).clock = s.clock ∧ (s.releaseWires).clu = s.clu ∧
    (s.releaseWires).isc = s.isc ∧ (s.releaseWires).evq = s.evq ∧ (s.releaseWires).csu = s.csu ∧
    (s.releaseWires).spu = s.spu ∧ (s.releaseWires).run = s.run ∧ (s.releaseWires).tallies = s.tallies ∧
    (s.releaseWires).shu = s.shu ∧ (s.releaseWires).lastAccepted = s.lastAccepted ∧ (s.releaseWires).sup = s.sup ∧
    (s.releaseWires).chk = s.chk ∧ (s.releaseWires).lpt = s.lpt ∧ (s.releaseWires).atl = s.atl ∧
    (s.releaseWires).pins = s.pins ∧ (s.releaseWires).free = s.free ∧ (s.releaseWires).pending = s.pending ∧
    s.releaseWires.lif.sendList = s.lif.sendList :=
  ⟨rfl, rfl, rfl, rfl, rfl, rfl, rfl, rfl, rfl, rfl, rfl, rfl, rfl, rfl, rfl, rfl, rfl, rfl, rfl⟩

/-- The restore pass begins. -/
@[simp] theorem State.startRestorePass_fields (s : State) :
    (s.startRestorePass).time = s.time ∧ (s.startRestorePass).clock = s.clock ∧ (s.startRestorePass).lif = s.lif ∧
    (s.startRestorePass).clu = s.clu ∧ (s.startRestorePass).isc = s.isc ∧ (s.startRestorePass).evq = s.evq ∧
    (s.startRestorePass).csu = s.csu ∧ (s.startRestorePass).spu = s.spu ∧ (s.startRestorePass).run = s.run ∧
    (s.startRestorePass).tallies = s.tallies ∧ (s.startRestorePass).shu = s.shu ∧
    (s.startRestorePass).lastAccepted = s.lastAccepted ∧ (s.startRestorePass).sup = s.sup ∧
    (s.startRestorePass).lpt = s.lpt ∧ (s.startRestorePass).atl = s.atl ∧ (s.startRestorePass).pins = s.pins ∧
    (s.startRestorePass).free = s.free ∧ (s.startRestorePass).pending = s.pending ∧
    s.startRestorePass.chk.restorePass = true :=
  ⟨rfl, rfl, rfl, rfl, rfl, rfl, rfl, rfl, rfl, rfl, rfl, rfl, rfl, rfl, rfl, rfl, rfl, rfl, rfl⟩

/-- The level at RSTN noted. -/
@[simp] theorem State.setRstn_fields (s : State) (b : Bool) :
    (s.setRstn b).time = s.time ∧ (s.setRstn b).clock = s.clock ∧ (s.setRstn b).lif = s.lif ∧ (s.setRstn b).clu = s.clu ∧
    (s.setRstn b).isc = s.isc ∧ (s.setRstn b).evq = s.evq ∧ (s.setRstn b).csu = s.csu ∧ (s.setRstn b).spu = s.spu ∧
    (s.setRstn b).run = s.run ∧ (s.setRstn b).tallies = s.tallies ∧ (s.setRstn b).shu = s.shu ∧
    (s.setRstn b).lastAccepted = s.lastAccepted ∧ (s.setRstn b).sup = s.sup ∧ (s.setRstn b).chk = s.chk ∧
    (s.setRstn b).lpt = s.lpt ∧ (s.setRstn b).atl = s.atl ∧ (s.setRstn b).free = s.free ∧
    (s.setRstn b).pending = s.pending ∧ (s.setRstn b).pins.rstnLow = b :=
  ⟨rfl, rfl, rfl, rfl, rfl, rfl, rfl, rfl, rfl, rfl, rfl, rfl, rfl, rfl, rfl, rfl, rfl, rfl, rfl⟩

/-- The main domain at its initial values; the backup domain is kept. -/
@[simp] theorem State.mainInitial_fields (s : State) :
    (s.mainInitial).clock = s.clock ∧ (s.mainInitial).evq = s.evq ∧ (s.mainInitial).tallies = s.tallies ∧
    (s.mainInitial).lastAccepted = s.lastAccepted ∧ (s.mainInitial).sup = s.sup ∧ (s.mainInitial).pins = s.pins ∧
    (s.mainInitial).free = s.free ∧ (s.mainInitial).pending = s.pending ∧
    s.mainInitial.clu = .initial s.time.elapsed ∧ s.mainInitial.run = .initial s.time.elapsed ∧
    s.mainInitial.lpt = .initial ∧ s.mainInitial.atl = .initial s.time.elapsed ∧
    s.mainInitial.lif = .initial s.lif.nodeNumber s.lif.lineSpeed s.time.elapsed ∧ s.mainInitial.csu = .initial ∧
    s.mainInitial.shu = .initial ∧ s.mainInitial.time.elapsed = s.time.elapsed :=
  ⟨rfl, rfl, rfl, rfl, rfl, rfl, rfl, rfl, rfl, rfl, rfl, rfl, rfl, rfl, rfl, rfl⟩

/-- The straps read. -/
@[simp] theorem State.readStraps_fields (s : State) (id : NodeNo) (sp : BitVec 2) :
    (s.readStraps id sp).time = s.time ∧ (s.readStraps id sp).clock = s.clock ∧ (s.readStraps id sp).clu = s.clu ∧
    (s.readStraps id sp).isc = s.isc ∧ (s.readStraps id sp).evq = s.evq ∧ (s.readStraps id sp).csu = s.csu ∧
    (s.readStraps id sp).spu = s.spu ∧ (s.readStraps id sp).run = s.run ∧
    (s.readStraps id sp).tallies = s.tallies ∧ (s.readStraps id sp).shu = s.shu ∧
    (s.readStraps id sp).lastAccepted = s.lastAccepted ∧ (s.readStraps id sp).sup = s.sup ∧
    (s.readStraps id sp).chk = s.chk ∧ (s.readStraps id sp).lpt = s.lpt ∧ (s.readStraps id sp).atl = s.atl ∧
    (s.readStraps id sp).free = s.free ∧ (s.readStraps id sp).pending = s.pending ∧
    (s.readStraps id sp).lif.nodeNumber = id ∧ (s.readStraps id sp).lif.lineSpeed = sp ∧
    (s.readStraps id sp).lif.sendList = s.lif.sendList ∧ (s.readStraps id sp).pins.inputs = s.pins.inputs :=
  ⟨rfl, rfl, rfl, rfl, rfl, rfl, rfl, rfl, rfl, rfl, rfl, rfl, rfl, rfl, rfl, rfl, rfl, rfl, rfl, rfl, rfl⟩

/-- The backup domain at its initial values. -/
@[simp] theorem State.backupInitial_fields (s : State) :
    (s.backupInitial).time = s.time ∧ (s.backupInitial).lif = s.lif ∧ (s.backupInitial).clu = s.clu ∧
    (s.backupInitial).isc = s.isc ∧ (s.backupInitial).csu = s.csu ∧ (s.backupInitial).spu = s.spu ∧
    (s.backupInitial).run = s.run ∧ (s.backupInitial).shu = s.shu ∧ (s.backupInitial).chk = s.chk ∧
    (s.backupInitial).lpt = s.lpt ∧ (s.backupInitial).atl = s.atl ∧ (s.backupInitial).pins = s.pins ∧
    (s.backupInitial).free = s.free ∧ (s.backupInitial).pending = s.pending ∧ s.backupInitial.evq = .initial ∧
    s.backupInitial.tallies = .initial ∧ s.backupInitial.lastAccepted = none ∧
    s.backupInitial.clock = ⟨⟨0, 0⟩, false⟩ ∧ s.backupInitial.sup.state = s.sup.state :=
  ⟨rfl, rfl, rfl, rfl, rfl, rfl, rfl, rfl, rfl, rfl, rfl, rfl, rfl, rfl, rfl, rfl, rfl, rfl, rfl⟩

/-- A sender's clock changes the mark of the LCLK driver alone. -/
@[simp] theorem Lif.clocking_fields (l : Lif) (now : Nat) :
    (l.clocking now).ldatDriven = l.ldatDriven ∧ (l.clocking now).view = l.view ∧ (l.clocking now).start = l.start ∧
    (l.clocking now).counted = l.counted ∧ (l.clocking now).joinable = l.joinable ∧
    (l.clocking now).highFrom = l.highFrom ∧ (l.clocking now).acked = l.acked ∧
    (l.clocking now).sendList = l.sendList ∧ (l.clocking now).send = l.send ∧
    (l.clocking now).waitingMark = l.waitingMark ∧ (l.clocking now).counters = l.counters ∧
    (l.clocking now).nodeNumber = l.nodeNumber ∧ (l.clocking now).lineSpeed = l.lineSpeed := by
  unfold Lif.clocking
  split <;> simp

/-- The passing of main-oscillator time changes, of the Shift Unit, the key come to alone. -/
@[simp] theorem State.runMain_shu (s : State) (n : Nat) :
    (s.runMain n).shu.lastReached = s.shu.lastReached ∧ (s.runMain n).shu.mode = s.shu.mode ∧
    (s.runMain n).shu.target = s.shu.target ∧ (s.runMain n).shu.grace = s.shu.grace ∧
    (s.runMain n).shu.held = s.shu.held ∧ (s.runMain n).shu.heldResult = s.shu.heldResult ∧
    (s.runMain n).shu.records = s.shu.records ∧ (s.runMain n).shu.lastCreated = s.shu.lastCreated ∧
    (s.runMain n).shu.unused = s.shu.unused ∧ (s.runMain n).shu.unmatched = s.shu.unmatched ∧
    (s.runMain n).shu.repeated = s.shu.repeated ∧ (s.runMain n).shu.lostRecords = s.shu.lostRecords :=
  ⟨rfl, rfl, rfl, rfl, rfl, rfl, rfl, rfl, rfl, rfl, rfl, rfl⟩

/-- The passing of main-oscillator time. -/
@[simp] theorem State.runMain_fields (s : State) (n : Nat) :
    (s.runMain n).lif = s.lif.clocking (s.time.elapsed + n) ∧ (s.runMain n).clu = s.clu ∧ (s.runMain n).isc = s.isc ∧
    (s.runMain n).evq = s.evq ∧ (s.runMain n).csu = s.csu ∧ (s.runMain n).spu = s.spu ∧
    (s.runMain n).run = s.run ∧ (s.runMain n).tallies = s.tallies ∧
    (s.runMain n).lastAccepted = s.lastAccepted ∧ (s.runMain n).sup = s.sup ∧ (s.runMain n).chk = s.chk ∧
    (s.runMain n).lpt = s.lpt ∧ (s.runMain n).atl = s.atl ∧ (s.runMain n).pins = s.pins ∧
    (s.runMain n).free = s.free ∧ (s.runMain n).pending = s.pending ∧
    (s.runMain n).time.elapsed = s.time.elapsed + n ∧ (s.runMain n).clock.valid = s.clock.valid ∧
    (s.runMain n).time.secondStart = s.time.secondStart ∧ (s.runMain n).time.spread = s.time.spread :=
  ⟨rfl, rfl, rfl, rfl, rfl, rfl, rfl, rfl, rfl, rfl, rfl, rfl, rfl, rfl, rfl, rfl, rfl, rfl, rfl, rfl⟩

/-- The passing of backup-oscillator time. -/
@[simp] theorem State.runBackup_fields (s : State) (n : Nat) :
    (s.runBackup n).time = s.time ∧ (s.runBackup n).lif = s.lif ∧ (s.runBackup n).clu = s.clu ∧
    (s.runBackup n).isc = s.isc ∧ (s.runBackup n).evq = s.evq ∧ (s.runBackup n).csu = s.csu ∧
    (s.runBackup n).spu = s.spu ∧ (s.runBackup n).run = s.run ∧ (s.runBackup n).tallies = s.tallies ∧
    (s.runBackup n).shu = s.shu ∧ (s.runBackup n).lastAccepted = s.lastAccepted ∧ (s.runBackup n).chk = s.chk ∧
    (s.runBackup n).lpt = s.lpt ∧ (s.runBackup n).atl = s.atl ∧ (s.runBackup n).pins = s.pins ∧
    (s.runBackup n).free = s.free ∧ (s.runBackup n).pending = s.pending :=
  ⟨rfl, rfl, rfl, rfl, rfl, rfl, rfl, rfl, rfl, rfl, rfl, rfl, rfl, rfl, rfl, rfl, rfl⟩

/-- Backup-oscillator time leaves the time-valid flag. -/
@[simp] theorem State.runBackup_valid (s : State) (n : Nat) : (s.runBackup n).clock.valid = s.clock.valid := rfl

/-- Backup-oscillator time leaves the supply state. -/
@[simp] theorem State.runBackup_state (s : State) (n : Nat) : (s.runBackup n).sup.state = s.sup.state := rfl

/-- Backup-oscillator time leaves RSTN. -/
@[simp] theorem State.runBackup_rstnHeld (s : State) (n : Nat) : (s.runBackup n).sup.rstnHeld = s.sup.rstnHeld := rfl

/-- Backup-oscillator time leaves the fresh mark. -/
@[simp] theorem State.runBackup_freshMark (s : State) (n : Nat) : (s.runBackup n).sup.freshMark = s.sup.freshMark := rfl

/-- Backup-oscillator time leaves the credit mark. -/
@[simp] theorem State.runBackup_creditMark (s : State) (n : Nat) : (s.runBackup n).sup.creditMark = s.sup.creditMark := rfl

/-- Backup-oscillator time leaves VBK. -/
@[simp] theorem State.runBackup_vbkPresent (s : State) (n : Nat) : (s.runBackup n).sup.vbkPresent = s.sup.vbkPresent := rfl

/-- Backup-oscillator time leaves the first failure. -/
@[simp] theorem State.runBackup_firstFailure (s : State) (n : Nat) : (s.runBackup n).sup.firstFailure = s.sup.firstFailure := rfl

/-- Backup-oscillator time leaves the failure overflow flag. -/
@[simp] theorem State.runBackup_failureOverflow (s : State) (n : Nat) : (s.runBackup n).sup.failureOverflow = s.sup.failureOverflow := rfl

/-- Backup-oscillator time leaves the node state at reset. -/
@[simp] theorem State.runBackup_nodeStateAtReset (s : State) (n : Nat) : (s.runBackup n).sup.nodeStateAtReset = s.sup.nodeStateAtReset := rfl

end Sys2Proof.Machine
end

