-- ==== Sys2Proof/Laws/Frames.lean ====
section
/-! SUPPORT. Which blocks each shared operation can change: one lemma per operation, naming every field of the state it
leaves alone. Later proofs cite these and unfold nothing. -/

namespace Sys2Proof.Machine

/-- What holds of both branches holds of the choice. -/
theorem ite_holds {α : Type} {p : α → Prop} {c : Prop} [Decidable c] {x y : α} (hx : p x) (hy : p y) :
    p (if c then x else y) := by
  split
  · exact hx
  · exact hy

/-- Giving a result changes the Shift Unit and its flag. -/
@[simp] theorem State.giveResult_frame (s : State) (k : ShiftKey) (r : Result) :
    (s.giveResult k r).time = s.time ∧ (s.giveResult k r).clock = s.clock ∧ (s.giveResult k r).lif = s.lif ∧
    (s.giveResult k r).clu = s.clu ∧ (s.giveResult k r).isc = s.isc ∧ (s.giveResult k r).evq = s.evq ∧
    (s.giveResult k r).csu = s.csu ∧ (s.giveResult k r).spu = s.spu ∧ (s.giveResult k r).run = s.run ∧
    (s.giveResult k r).tallies = s.tallies ∧ (s.giveResult k r).lastAccepted = s.lastAccepted ∧
    (s.giveResult k r).sup = s.sup ∧ (s.giveResult k r).chk = s.chk ∧ (s.giveResult k r).lpt = s.lpt ∧
    (s.giveResult k r).pins = s.pins ∧ (s.giveResult k r).free = s.free ∧ (s.giveResult k r).pending = s.pending := by
  unfold State.giveResult
  try dsimp only
  (repeat' split) <;> simp

/-- A report changes what giving a result changes. -/
@[simp] theorem State.reportFrame_frame (s : State) (k : ShiftKey) (o : OwnFrame) :
    (s.reportFrame k o).time = s.time ∧ (s.reportFrame k o).clock = s.clock ∧ (s.reportFrame k o).lif = s.lif ∧
    (s.reportFrame k o).clu = s.clu ∧ (s.reportFrame k o).isc = s.isc ∧ (s.reportFrame k o).evq = s.evq ∧
    (s.reportFrame k o).csu = s.csu ∧ (s.reportFrame k o).spu = s.spu ∧ (s.reportFrame k o).run = s.run ∧
    (s.reportFrame k o).tallies = s.tallies ∧ (s.reportFrame k o).lastAccepted = s.lastAccepted ∧
    (s.reportFrame k o).sup = s.sup ∧ (s.reportFrame k o).chk = s.chk ∧ (s.reportFrame k o).lpt = s.lpt ∧
    (s.reportFrame k o).pins = s.pins ∧ (s.reportFrame k o).free = s.free ∧ (s.reportFrame k o).pending = s.pending := by
  unfold State.reportFrame
  try dsimp only
  (repeat' split) <;> simp

/-- Creating a record changes the Shift Unit. -/
@[simp] theorem State.createRecord_frame (s : State) (k : ShiftKey) :
    (s.createRecord k).time = s.time ∧ (s.createRecord k).clock = s.clock ∧ (s.createRecord k).lif = s.lif ∧
    (s.createRecord k).clu = s.clu ∧ (s.createRecord k).isc = s.isc ∧ (s.createRecord k).evq = s.evq ∧
    (s.createRecord k).csu = s.csu ∧ (s.createRecord k).spu = s.spu ∧ (s.createRecord k).run = s.run ∧
    (s.createRecord k).tallies = s.tallies ∧ (s.createRecord k).lastAccepted = s.lastAccepted ∧
    (s.createRecord k).sup = s.sup ∧ (s.createRecord k).chk = s.chk ∧ (s.createRecord k).lpt = s.lpt ∧
    (s.createRecord k).atl = s.atl ∧ (s.createRecord k).pins = s.pins ∧ (s.createRecord k).free = s.free ∧
    (s.createRecord k).pending = s.pending := by
  unfold State.createRecord
  try dsimp only
  (repeat' split) <;> simp

/-- Entering a TALLY changes the Shift Unit. -/
@[simp] theorem State.enterTally_frame (s : State) (n : NodeNo) (k : ShiftKey) (v : TallyValues) :
    (s.enterTally n k v).time = s.time ∧ (s.enterTally n k v).clock = s.clock ∧ (s.enterTally n k v).lif = s.lif ∧
    (s.enterTally n k v).clu = s.clu ∧ (s.enterTally n k v).isc = s.isc ∧ (s.enterTally n k v).evq = s.evq ∧
    (s.enterTally n k v).csu = s.csu ∧ (s.enterTally n k v).spu = s.spu ∧ (s.enterTally n k v).run = s.run ∧
    (s.enterTally n k v).tallies = s.tallies ∧ (s.enterTally n k v).lastAccepted = s.lastAccepted ∧
    (s.enterTally n k v).sup = s.sup ∧ (s.enterTally n k v).chk = s.chk ∧ (s.enterTally n k v).lpt = s.lpt ∧
    (s.enterTally n k v).atl = s.atl ∧ (s.enterTally n k v).pins = s.pins ∧ (s.enterTally n k v).free = s.free ∧
    (s.enterTally n k v).pending = s.pending := by
  unfold State.enterTally
  try dsimp only
  (repeat' split) <;> simp

/-- A TALLY received changes the Shift Unit. -/
@[simp] theorem State.tallyReceived_frame (s : State) (n : NodeNo) (k : ShiftKey) (v : TallyValues) :
    (s.tallyReceived n k v).time = s.time ∧ (s.tallyReceived n k v).clock = s.clock ∧
    (s.tallyReceived n k v).lif = s.lif ∧ (s.tallyReceived n k v).clu = s.clu ∧
    (s.tallyReceived n k v).isc = s.isc ∧ (s.tallyReceived n k v).evq = s.evq ∧
    (s.tallyReceived n k v).csu = s.csu ∧ (s.tallyReceived n k v).spu = s.spu ∧
    (s.tallyReceived n k v).run = s.run ∧ (s.tallyReceived n k v).tallies = s.tallies ∧
    (s.tallyReceived n k v).lastAccepted = s.lastAccepted ∧ (s.tallyReceived n k v).sup = s.sup ∧
    (s.tallyReceived n k v).chk = s.chk ∧ (s.tallyReceived n k v).lpt = s.lpt ∧
    (s.tallyReceived n k v).atl = s.atl ∧ (s.tallyReceived n k v).pins = s.pins ∧
    (s.tallyReceived n k v).free = s.free ∧ (s.tallyReceived n k v).pending = s.pending := by
  unfold State.tallyReceived
  try dsimp only
  (repeat' split) <;> simp

/-- A displaced frame changes the queue, the Shift Unit and flags. -/
@[simp] theorem State.displaced_frame (s : State) (c : FrameContent) :
    (s.displaced c).time = s.time ∧ (s.displaced c).clock = s.clock ∧ (s.displaced c).lif = s.lif ∧
    (s.displaced c).clu = s.clu ∧ (s.displaced c).isc = s.isc ∧ (s.displaced c).csu = s.csu ∧
    (s.displaced c).spu = s.spu ∧ (s.displaced c).run = s.run ∧ (s.displaced c).tallies = s.tallies ∧
    (s.displaced c).lastAccepted = s.lastAccepted ∧ (s.displaced c).sup = s.sup ∧ (s.displaced c).chk = s.chk ∧
    (s.displaced c).lpt = s.lpt ∧ (s.displaced c).pins = s.pins ∧ (s.displaced c).free = s.free ∧
    (s.displaced c).pending = s.pending := by
  unfold State.displaced
  try dsimp only
  (repeat' split) <;> simp

/-- Displacement changes the send list and what a displaced frame changes. -/
@[simp] theorem State.queueByDisplacing_frame (s : State) (c : FrameContent) :
    ((s.queueByDisplacing c).1).time = s.time ∧ ((s.queueByDisplacing c).1).clock = s.clock ∧
    ((s.queueByDisplacing c).1).clu = s.clu ∧ ((s.queueByDisplacing c).1).isc = s.isc ∧
    ((s.queueByDisplacing c).1).csu = s.csu ∧ ((s.queueByDisplacing c).1).spu = s.spu ∧
    ((s.queueByDisplacing c).1).run = s.run ∧ ((s.queueByDisplacing c).1).tallies = s.tallies ∧
    ((s.queueByDisplacing c).1).lastAccepted = s.lastAccepted ∧ ((s.queueByDisplacing c).1).sup = s.sup ∧
    ((s.queueByDisplacing c).1).chk = s.chk ∧ ((s.queueByDisplacing c).1).lpt = s.lpt ∧
    ((s.queueByDisplacing c).1).pins = s.pins ∧ ((s.queueByDisplacing c).1).free = s.free ∧
    ((s.queueByDisplacing c).1).pending = s.pending := by
  unfold State.queueByDisplacing
  try dsimp only
  (repeat' split) <;> simp

/-- A queue request changes the send list and what a displaced frame changes. -/
@[simp] theorem State.queueFrame_frame (s : State) (c : FrameContent) :
    ((s.queueFrame c).1).time = s.time ∧ ((s.queueFrame c).1).clock = s.clock ∧ ((s.queueFrame c).1).clu = s.clu ∧
    ((s.queueFrame c).1).isc = s.isc ∧ ((s.queueFrame c).1).csu = s.csu ∧ ((s.queueFrame c).1).spu = s.spu ∧
    ((s.queueFrame c).1).run = s.run ∧ ((s.queueFrame c).1).tallies = s.tallies ∧
    ((s.queueFrame c).1).lastAccepted = s.lastAccepted ∧ ((s.queueFrame c).1).sup = s.sup ∧
    ((s.queueFrame c).1).chk = s.chk ∧ ((s.queueFrame c).1).lpt = s.lpt ∧ ((s.queueFrame c).1).pins = s.pins ∧
    ((s.queueFrame c).1).free = s.free ∧ ((s.queueFrame c).1).pending = s.pending := by
  unfold State.queueFrame
  try dsimp only
  (repeat' split) <;> simp

/-- A MARK request changes the Line Interface alone. -/
@[simp] theorem State.queueMark_frame (s : State) (k : RoundKey) :
    (s.queueMark k).time = s.time ∧ (s.queueMark k).clock = s.clock ∧ (s.queueMark k).clu = s.clu ∧
    (s.queueMark k).isc = s.isc ∧ (s.queueMark k).evq = s.evq ∧ (s.queueMark k).csu = s.csu ∧
    (s.queueMark k).spu = s.spu ∧ (s.queueMark k).run = s.run ∧ (s.queueMark k).tallies = s.tallies ∧
    (s.queueMark k).shu = s.shu ∧ (s.queueMark k).lastAccepted = s.lastAccepted ∧ (s.queueMark k).sup = s.sup ∧
    (s.queueMark k).chk = s.chk ∧ (s.queueMark k).lpt = s.lpt ∧ (s.queueMark k).atl = s.atl ∧
    (s.queueMark k).pins = s.pins ∧ (s.queueMark k).free = s.free ∧ (s.queueMark k).pending = s.pending := by
  unfold State.queueMark
  try dsimp only
  (repeat' split) <;> simp

/-- A waiting MARK request changes the Line Interface alone. -/
@[simp] theorem State.queueWaiting_frame (s : State) :
    (s.queueWaiting).time = s.time ∧ (s.queueWaiting).clock = s.clock ∧ (s.queueWaiting).clu = s.clu ∧
    (s.queueWaiting).isc = s.isc ∧ (s.queueWaiting).evq = s.evq ∧ (s.queueWaiting).csu = s.csu ∧
    (s.queueWaiting).spu = s.spu ∧ (s.queueWaiting).run = s.run ∧ (s.queueWaiting).tallies = s.tallies ∧
    (s.queueWaiting).shu = s.shu ∧ (s.queueWaiting).lastAccepted = s.lastAccepted ∧ (s.queueWaiting).sup = s.sup ∧
    (s.queueWaiting).chk = s.chk ∧ (s.queueWaiting).lpt = s.lpt ∧ (s.queueWaiting).atl = s.atl ∧
    (s.queueWaiting).pins = s.pins ∧ (s.queueWaiting).free = s.free ∧ (s.queueWaiting).pending = s.pending := by
  unfold State.queueWaiting
  try dsimp only
  (repeat' split) <;> simp

/-- Dropping a MARK changes the Line Interface alone. -/
@[simp] theorem State.dropMark_frame (s : State) (k : RoundKey) :
    (s.dropMark k).time = s.time ∧ (s.dropMark k).clock = s.clock ∧ (s.dropMark k).clu = s.clu ∧
    (s.dropMark k).isc = s.isc ∧ (s.dropMark k).evq = s.evq ∧ (s.dropMark k).csu = s.csu ∧
    (s.dropMark k).spu = s.spu ∧ (s.dropMark k).run = s.run ∧ (s.dropMark k).tallies = s.tallies ∧
    (s.dropMark k).shu = s.shu ∧ (s.dropMark k).lastAccepted = s.lastAccepted ∧ (s.dropMark k).sup = s.sup ∧
    (s.dropMark k).chk = s.chk ∧ (s.dropMark k).lpt = s.lpt ∧ (s.dropMark k).atl = s.atl ∧
    (s.dropMark k).pins = s.pins ∧ (s.dropMark k).free = s.free ∧ (s.dropMark k).pending = s.pending := by
  unfold State.dropMark
  try dsimp only
  (repeat' split) <;> simp

/-- A removal request changes the send list alone. -/
@[simp] theorem State.removeHandover_frame (s : State) (k : ShiftKey) :
    ((s.removeHandover k).1).time = s.time ∧ ((s.removeHandover k).1).clock = s.clock ∧
    ((s.removeHandover k).1).clu = s.clu ∧ ((s.removeHandover k).1).isc = s.isc ∧
    ((s.removeHandover k).1).evq = s.evq ∧ ((s.removeHandover k).1).csu = s.csu ∧
    ((s.removeHandover k).1).spu = s.spu ∧ ((s.removeHandover k).1).run = s.run ∧
    ((s.removeHandover k).1).tallies = s.tallies ∧ ((s.removeHandover k).1).shu = s.shu ∧
    ((s.removeHandover k).1).lastAccepted = s.lastAccepted ∧ ((s.removeHandover k).1).sup = s.sup ∧
    ((s.removeHandover k).1).chk = s.chk ∧ ((s.removeHandover k).1).lpt = s.lpt ∧
    ((s.removeHandover k).1).atl = s.atl ∧ ((s.removeHandover k).1).pins = s.pins ∧
    ((s.removeHandover k).1).free = s.free ∧ ((s.removeHandover k).1).pending = s.pending := by
  unfold State.removeHandover
  try dsimp only
  (repeat' split) <;> simp

/-- A frame end reported. -/
@[simp] theorem State.reportEnd_frame (s : State) (c : FrameContent) (o : OwnFrame) :
    (s.reportEnd c o).time = s.time ∧ (s.reportEnd c o).clock = s.clock ∧ (s.reportEnd c o).lif = s.lif ∧
    (s.reportEnd c o).clu = s.clu ∧ (s.reportEnd c o).isc = s.isc ∧ (s.reportEnd c o).evq = s.evq ∧
    (s.reportEnd c o).csu = s.csu ∧ (s.reportEnd c o).spu = s.spu ∧ (s.reportEnd c o).run = s.run ∧
    (s.reportEnd c o).tallies = s.tallies ∧ (s.reportEnd c o).lastAccepted = s.lastAccepted ∧
    (s.reportEnd c o).sup = s.sup ∧ (s.reportEnd c o).chk = s.chk ∧ (s.reportEnd c o).lpt = s.lpt ∧
    (s.reportEnd c o).pins = s.pins ∧ (s.reportEnd c o).free = s.free ∧ (s.reportEnd c o).pending = s.pending := by
  unfold State.reportEnd
  try dsimp only
  (repeat' split) <;> simp

/-- A sent frame removed. -/
@[simp] theorem State.removeSent_frame (s : State) :
    (s.removeSent).time = s.time ∧ (s.removeSent).clock = s.clock ∧ (s.removeSent).clu = s.clu ∧
    (s.removeSent).isc = s.isc ∧ (s.removeSent).evq = s.evq ∧ (s.removeSent).csu = s.csu ∧
    (s.removeSent).spu = s.spu ∧ (s.removeSent).run = s.run ∧ (s.removeSent).tallies = s.tallies ∧
    (s.removeSent).shu = s.shu ∧ (s.removeSent).lastAccepted = s.lastAccepted ∧ (s.removeSent).sup = s.sup ∧
    (s.removeSent).chk = s.chk ∧ (s.removeSent).lpt = s.lpt ∧ (s.removeSent).atl = s.atl ∧
    (s.removeSent).pins = s.pins ∧ (s.removeSent).free = s.free ∧ (s.removeSent).pending = s.pending := by
  unfold State.removeSent
  try dsimp only
  (repeat' split) <;> simp

/-- A frame withdrawn at the end of its send. -/
@[simp] theorem State.withdrawSent_frame (s : State) (c : FrameContent) :
    (s.withdrawSent c).time = s.time ∧ (s.withdrawSent c).clock = s.clock ∧ (s.withdrawSent c).clu = s.clu ∧
    (s.withdrawSent c).isc = s.isc ∧ (s.withdrawSent c).evq = s.evq ∧ (s.withdrawSent c).csu = s.csu ∧
    (s.withdrawSent c).spu = s.spu ∧ (s.withdrawSent c).run = s.run ∧ (s.withdrawSent c).tallies = s.tallies ∧
    (s.withdrawSent c).lastAccepted = s.lastAccepted ∧ (s.withdrawSent c).sup = s.sup ∧
    (s.withdrawSent c).chk = s.chk ∧ (s.withdrawSent c).lpt = s.lpt ∧ (s.withdrawSent c).pins = s.pins ∧
    (s.withdrawSent c).free = s.free ∧ (s.withdrawSent c).pending = s.pending := by
  unfold State.withdrawSent
  try dsimp only
  (repeat' split) <;> simp

/-- A send broken off changes the send list, and the Shift Unit and its flag for a frame withdrawn. -/
@[simp] theorem State.breakOffSend_frame (s : State) :
    (s.breakOffSend).time = s.time ∧ (s.breakOffSend).clock = s.clock ∧ (s.breakOffSend).clu = s.clu ∧
    (s.breakOffSend).isc = s.isc ∧ (s.breakOffSend).evq = s.evq ∧ (s.breakOffSend).csu = s.csu ∧
    (s.breakOffSend).spu = s.spu ∧ (s.breakOffSend).run = s.run ∧ (s.breakOffSend).tallies = s.tallies ∧
    (s.breakOffSend).lastAccepted = s.lastAccepted ∧ (s.breakOffSend).sup = s.sup ∧ (s.breakOffSend).chk = s.chk ∧
    (s.breakOffSend).lpt = s.lpt ∧ (s.breakOffSend).pins = s.pins ∧ (s.breakOffSend).free = s.free ∧
    (s.breakOffSend).pending = s.pending := by
  unfold State.breakOffSend
  try dsimp only
  (repeat' split) <;> simp

/-- A TALLY frame queued. -/
@[simp] theorem State.sendTally_frame (s : State) (k : ShiftKey) (v : TallyValues) :
    (s.sendTally k v).time = s.time ∧ (s.sendTally k v).clock = s.clock ∧ (s.sendTally k v).clu = s.clu ∧
    (s.sendTally k v).isc = s.isc ∧ (s.sendTally k v).csu = s.csu ∧ (s.sendTally k v).spu = s.spu ∧
    (s.sendTally k v).run = s.run ∧ (s.sendTally k v).tallies = s.tallies ∧
    (s.sendTally k v).lastAccepted = s.lastAccepted ∧ (s.sendTally k v).sup = s.sup ∧
    (s.sendTally k v).chk = s.chk ∧ (s.sendTally k v).lpt = s.lpt ∧ (s.sendTally k v).pins = s.pins ∧
    (s.sendTally k v).free = s.free ∧ (s.sendTally k v).pending = s.pending := by
  unfold State.sendTally
  try dsimp only
  (repeat' split) <;> simp

/-- One unit shift close. -/
@[simp] theorem State.closeUnitShift_frame (s : State) (c : CloseKey) :
    (s.closeUnitShift c).time = s.time ∧ (s.closeUnitShift c).clock = s.clock ∧ (s.closeUnitShift c).clu = s.clu ∧
    (s.closeUnitShift c).isc = s.isc ∧ (s.closeUnitShift c).csu = s.csu ∧ (s.closeUnitShift c).spu = s.spu ∧
    (s.closeUnitShift c).run = s.run ∧ (s.closeUnitShift c).lastAccepted = s.lastAccepted ∧
    (s.closeUnitShift c).sup = s.sup ∧ (s.closeUnitShift c).chk = s.chk ∧ (s.closeUnitShift c).lpt = s.lpt ∧
    (s.closeUnitShift c).pins = s.pins ∧ (s.closeUnitShift c).free = s.free ∧
    (s.closeUnitShift c).pending = s.pending := by
  unfold State.closeUnitShift
  try dsimp only
  (repeat' split) <;> simp

/-- A close order. -/
@[simp] theorem State.closeOrder_frame (s : State) (l : List CloseKey) :
    (s.closeOrder l).time = s.time ∧ (s.closeOrder l).clock = s.clock ∧ (s.closeOrder l).clu = s.clu ∧
    (s.closeOrder l).isc = s.isc ∧ (s.closeOrder l).csu = s.csu ∧ (s.closeOrder l).spu = s.spu ∧
    (s.closeOrder l).run = s.run ∧ (s.closeOrder l).lastAccepted = s.lastAccepted ∧ (s.closeOrder l).sup = s.sup ∧
    (s.closeOrder l).chk = s.chk ∧ (s.closeOrder l).lpt = s.lpt ∧ (s.closeOrder l).pins = s.pins ∧
    (s.closeOrder l).free = s.free ∧ (s.closeOrder l).pending = s.pending := by
  unfold State.closeOrder
  generalize (l.filter fun c => c.key.laterThan s.tallies.lastClosed) = ks
  induction ks generalizing s with
  | nil => simp
  | cons c cs ih => simpa using ih (s.closeUnitShift c)

/-- A HANDOVER at the Run Unit. -/
@[simp] theorem State.unitHandover_frame (s : State) (n : NodeNo) (q : ClockState) (b : List Byte) :
    (s.unitHandover n q b).time = s.time ∧ (s.unitHandover n q b).clock = s.clock ∧
    (s.unitHandover n q b).lif = s.lif ∧ (s.unitHandover n q b).clu = s.clu ∧ (s.unitHandover n q b).isc = s.isc ∧
    (s.unitHandover n q b).evq = s.evq ∧ (s.unitHandover n q b).csu = s.csu ∧ (s.unitHandover n q b).spu = s.spu ∧
    (s.unitHandover n q b).shu = s.shu ∧ (s.unitHandover n q b).lastAccepted = s.lastAccepted ∧
    (s.unitHandover n q b).sup = s.sup ∧ (s.unitHandover n q b).chk = s.chk ∧ (s.unitHandover n q b).lpt = s.lpt ∧
    (s.unitHandover n q b).atl = s.atl ∧ (s.unitHandover n q b).pins = s.pins ∧
    (s.unitHandover n q b).free = s.free ∧ (s.unitHandover n q b).pending = s.pending := by
  unfold State.unitHandover
  try dsimp only
  (repeat' split) <;> simp

/-- A stop classified. -/
@[simp] theorem State.classify_frame (s : State) (x : Stop) (t : Option (NodeNo × InputNo)) (f : StopFlags) :
    (s.classify x t f).time = s.time ∧ (s.classify x t f).clock = s.clock ∧ (s.classify x t f).lif = s.lif ∧
    (s.classify x t f).clu = s.clu ∧ (s.classify x t f).isc = s.isc ∧ (s.classify x t f).csu = s.csu ∧
    (s.classify x t f).spu = s.spu ∧ (s.classify x t f).shu = s.shu ∧
    (s.classify x t f).lastAccepted = s.lastAccepted ∧ (s.classify x t f).sup = s.sup ∧
    (s.classify x t f).chk = s.chk ∧ (s.classify x t f).lpt = s.lpt ∧ (s.classify x t f).pins = s.pins ∧
    (s.classify x t f).free = s.free ∧ (s.classify x t f).pending = s.pending := by
  unfold State.classify
  try dsimp only
  (repeat' split) <;> simp

/-- The SPEED SILENT timing. -/
@[simp] theorem State.timeSilence_frame (s : State) :
    (s.timeSilence).time = s.time ∧ (s.timeSilence).clock = s.clock ∧ (s.timeSilence).lif = s.lif ∧
    (s.timeSilence).clu = s.clu ∧ (s.timeSilence).isc = s.isc ∧ (s.timeSilence).evq = s.evq ∧
    (s.timeSilence).csu = s.csu ∧ (s.timeSilence).spu = s.spu ∧ (s.timeSilence).tallies = s.tallies ∧
    (s.timeSilence).shu = s.shu ∧ (s.timeSilence).lastAccepted = s.lastAccepted ∧ (s.timeSilence).sup = s.sup ∧
    (s.timeSilence).chk = s.chk ∧ (s.timeSilence).lpt = s.lpt ∧ (s.timeSilence).atl = s.atl ∧
    (s.timeSilence).pins = s.pins ∧ (s.timeSilence).free = s.free ∧ (s.timeSilence).pending = s.pending := by
  unfold State.timeSilence
  try dsimp only
  (repeat' split) <;> simp

/-- The breaker closes. -/
@[simp] theorem State.breakerCloses_frame (s : State) (d : Stamp) :
    (s.breakerCloses d).time = s.time ∧ (s.breakerCloses d).clock = s.clock ∧ (s.breakerCloses d).lif = s.lif ∧
    (s.breakerCloses d).clu = s.clu ∧ (s.breakerCloses d).isc = s.isc ∧ (s.breakerCloses d).csu = s.csu ∧
    (s.breakerCloses d).spu = s.spu ∧ (s.breakerCloses d).shu = s.shu ∧
    (s.breakerCloses d).lastAccepted = s.lastAccepted ∧ (s.breakerCloses d).sup = s.sup ∧
    (s.breakerCloses d).chk = s.chk ∧ (s.breakerCloses d).lpt = s.lpt ∧ (s.breakerCloses d).pins = s.pins ∧
    (s.breakerCloses d).free = s.free ∧ (s.breakerCloses d).pending = s.pending := by
  unfold State.breakerCloses
  try dsimp only
  (repeat' split) <;> simp

/-- The breaker opens. -/
@[simp] theorem State.breakerOpens_frame (s : State) (d : Stamp) :
    (s.breakerOpens d).time = s.time ∧ (s.breakerOpens d).clock = s.clock ∧ (s.breakerOpens d).lif = s.lif ∧
    (s.breakerOpens d).clu = s.clu ∧ (s.breakerOpens d).isc = s.isc ∧ (s.breakerOpens d).csu = s.csu ∧
    (s.breakerOpens d).spu = s.spu ∧ (s.breakerOpens d).shu = s.shu ∧
    (s.breakerOpens d).lastAccepted = s.lastAccepted ∧ (s.breakerOpens d).sup = s.sup ∧
    (s.breakerOpens d).chk = s.chk ∧ (s.breakerOpens d).lpt = s.lpt ∧ (s.breakerOpens d).pins = s.pins ∧
    (s.breakerOpens d).free = s.free ∧ (s.breakerOpens d).pending = s.pending := by
  unfold State.breakerOpens
  try dsimp only
  (repeat' split) <;> simp

/-- A breaker level. -/
@[simp] theorem State.breakerLevel_frame (s : State) (c : Bool) (d : Stamp) :
    (s.breakerLevel c d).time = s.time ∧ (s.breakerLevel c d).clock = s.clock ∧ (s.breakerLevel c d).lif = s.lif ∧
    (s.breakerLevel c d).clu = s.clu ∧ (s.breakerLevel c d).isc = s.isc ∧ (s.breakerLevel c d).csu = s.csu ∧
    (s.breakerLevel c d).spu = s.spu ∧ (s.breakerLevel c d).shu = s.shu ∧
    (s.breakerLevel c d).lastAccepted = s.lastAccepted ∧ (s.breakerLevel c d).sup = s.sup ∧
    (s.breakerLevel c d).chk = s.chk ∧ (s.breakerLevel c d).lpt = s.lpt ∧ (s.breakerLevel c d).pins = s.pins ∧
    (s.breakerLevel c d).free = s.free ∧ (s.breakerLevel c d).pending = s.pending := by
  unfold State.breakerLevel
  try dsimp only
  (repeat' split) <;> simp

/-- A speed handed. -/
@[simp] theorem State.speedHanded_frame (s : State) :
    (s.speedHanded).time = s.time ∧ (s.speedHanded).clock = s.clock ∧ (s.speedHanded).lif = s.lif ∧
    (s.speedHanded).clu = s.clu ∧ (s.speedHanded).isc = s.isc ∧ (s.speedHanded).csu = s.csu ∧
    (s.speedHanded).spu = s.spu ∧ (s.speedHanded).shu = s.shu ∧ (s.speedHanded).lastAccepted = s.lastAccepted ∧
    (s.speedHanded).sup = s.sup ∧ (s.speedHanded).chk = s.chk ∧ (s.speedHanded).lpt = s.lpt ∧
    (s.speedHanded).pins = s.pins ∧ (s.speedHanded).free = s.free ∧ (s.speedHanded).pending = s.pending := by
  unfold State.speedHanded
  try dsimp only
  (repeat' split) <;> simp

/-- The run closed out. -/
@[simp] theorem State.closeOut_frame (s : State) (r : Bool) :
    (s.closeOut r).time = s.time ∧ (s.closeOut r).clock = s.clock ∧ (s.closeOut r).lif = s.lif ∧
    (s.closeOut r).clu = s.clu ∧ (s.closeOut r).isc = s.isc ∧ (s.closeOut r).csu = s.csu ∧
    (s.closeOut r).spu = s.spu ∧ (s.closeOut r).shu = s.shu ∧ (s.closeOut r).lastAccepted = s.lastAccepted ∧
    (s.closeOut r).sup = s.sup ∧ (s.closeOut r).chk = s.chk ∧ (s.closeOut r).lpt = s.lpt ∧
    (s.closeOut r).pins = s.pins ∧ (s.closeOut r).free = s.free ∧ (s.closeOut r).pending = s.pending := by
  unfold State.closeOut
  try dsimp only
  (repeat' split) <;> simp

/-- A member for the slot. -/
@[simp] theorem State.toSlot_frame (s : State) (m : Member) :
    (s.toSlot m).time = s.time ∧ (s.toSlot m).clock = s.clock ∧ (s.toSlot m).lif = s.lif ∧
    (s.toSlot m).clu = s.clu ∧ (s.toSlot m).isc = s.isc ∧ (s.toSlot m).evq = s.evq ∧ (s.toSlot m).spu = s.spu ∧
    (s.toSlot m).run = s.run ∧ (s.toSlot m).tallies = s.tallies ∧ (s.toSlot m).shu = s.shu ∧
    (s.toSlot m).lastAccepted = s.lastAccepted ∧ (s.toSlot m).sup = s.sup ∧ (s.toSlot m).chk = s.chk ∧
    (s.toSlot m).lpt = s.lpt ∧ (s.toSlot m).atl = s.atl ∧ (s.toSlot m).pins = s.pins ∧ (s.toSlot m).free = s.free ∧
    (s.toSlot m).pending = s.pending := by
  unfold State.toSlot
  try dsimp only
  (repeat' split) <;> simp

/-- A member placed. -/
@[simp] theorem State.placeMember_frame (s : State) (m : Member) :
    (s.placeMember m).time = s.time ∧ (s.placeMember m).clock = s.clock ∧ (s.placeMember m).lif = s.lif ∧
    (s.placeMember m).clu = s.clu ∧ (s.placeMember m).isc = s.isc ∧ (s.placeMember m).evq = s.evq ∧
    (s.placeMember m).spu = s.spu ∧ (s.placeMember m).run = s.run ∧ (s.placeMember m).tallies = s.tallies ∧
    (s.placeMember m).shu = s.shu ∧ (s.placeMember m).lastAccepted = s.lastAccepted ∧
    (s.placeMember m).sup = s.sup ∧ (s.placeMember m).chk = s.chk ∧ (s.placeMember m).lpt = s.lpt ∧
    (s.placeMember m).atl = s.atl ∧ (s.placeMember m).pins = s.pins ∧ (s.placeMember m).free = s.free ∧
    (s.placeMember m).pending = s.pending := by
  unfold State.placeMember
  try dsimp only
  (repeat' split) <;> simp

/-- A local member. -/
@[simp] theorem State.localMember_frame (s : State) (n : InputNo) (a : Bool) (d : Stamp) :
    (s.localMember n a d).time = s.time ∧ (s.localMember n a d).clock = s.clock ∧
    (s.localMember n a d).clu = s.clu ∧ (s.localMember n a d).isc = s.isc ∧ (s.localMember n a d).spu = s.spu ∧
    (s.localMember n a d).run = s.run ∧ (s.localMember n a d).tallies = s.tallies ∧
    (s.localMember n a d).lastAccepted = s.lastAccepted ∧ (s.localMember n a d).sup = s.sup ∧
    (s.localMember n a d).chk = s.chk ∧ (s.localMember n a d).lpt = s.lpt ∧ (s.localMember n a d).pins = s.pins ∧
    (s.localMember n a d).free = s.free ∧ (s.localMember n a d).pending = s.pending := by
  unfold State.localMember
  try dsimp only
  (repeat' split) <;> simp

/-- A TRIP notice. -/
@[simp] theorem State.tripNotice_frame (s : State) (n : NodeNo) (t : Start) (b : List Byte) :
    (s.tripNotice n t b).time = s.time ∧ (s.tripNotice n t b).clock = s.clock ∧ (s.tripNotice n t b).lif = s.lif ∧
    (s.tripNotice n t b).clu = s.clu ∧ (s.tripNotice n t b).isc = s.isc ∧ (s.tripNotice n t b).evq = s.evq ∧
    (s.tripNotice n t b).spu = s.spu ∧ (s.tripNotice n t b).run = s.run ∧ (s.tripNotice n t b).tallies = s.tallies ∧
    (s.tripNotice n t b).shu = s.shu ∧ (s.tripNotice n t b).lastAccepted = s.lastAccepted ∧
    (s.tripNotice n t b).sup = s.sup ∧ (s.tripNotice n t b).chk = s.chk ∧ (s.tripNotice n t b).lpt = s.lpt ∧
    (s.tripNotice n t b).atl = s.atl ∧ (s.tripNotice n t b).pins = s.pins ∧ (s.tripNotice n t b).free = s.free ∧
    (s.tripNotice n t b).pending = s.pending := by
  unfold State.tripNotice
  try dsimp only
  (repeat' split) <;> simp

/-- A close notice. -/
@[simp] theorem State.closeNotice_frame (s : State) (c : Cascade) :
    (s.closeNotice c).time = s.time ∧ (s.closeNotice c).clock = s.clock ∧ (s.closeNotice c).lif = s.lif ∧
    (s.closeNotice c).clu = s.clu ∧ (s.closeNotice c).isc = s.isc ∧ (s.closeNotice c).csu = s.csu ∧
    (s.closeNotice c).spu = s.spu ∧ (s.closeNotice c).shu = s.shu ∧
    (s.closeNotice c).lastAccepted = s.lastAccepted ∧ (s.closeNotice c).sup = s.sup ∧
    (s.closeNotice c).chk = s.chk ∧ (s.closeNotice c).lpt = s.lpt ∧ (s.closeNotice c).pins = s.pins ∧
    (s.closeNotice c).free = s.free ∧ (s.closeNotice c).pending = s.pending := by
  unfold State.closeNotice
  try dsimp only
  (repeat' split) <;> simp

/-- The pending opener. -/
@[simp] theorem State.openPending_frame (s : State) :
    (s.openPending).time = s.time ∧ (s.openPending).clock = s.clock ∧ (s.openPending).lif = s.lif ∧
    (s.openPending).clu = s.clu ∧ (s.openPending).isc = s.isc ∧ (s.openPending).evq = s.evq ∧
    (s.openPending).spu = s.spu ∧ (s.openPending).run = s.run ∧ (s.openPending).tallies = s.tallies ∧
    (s.openPending).shu = s.shu ∧ (s.openPending).lastAccepted = s.lastAccepted ∧ (s.openPending).sup = s.sup ∧
    (s.openPending).chk = s.chk ∧ (s.openPending).lpt = s.lpt ∧ (s.openPending).atl = s.atl ∧
    (s.openPending).pins = s.pins ∧ (s.openPending).free = s.free ∧ (s.openPending).pending = s.pending := by
  unfold State.openPending
  try dsimp only
  (repeat' split) <;> simp

/-- A cascade close. -/
@[simp] theorem State.closeCascade_frame (s : State) (c : Cascade) :
    (s.closeCascade c).time = s.time ∧ (s.closeCascade c).clock = s.clock ∧ (s.closeCascade c).lif = s.lif ∧
    (s.closeCascade c).clu = s.clu ∧ (s.closeCascade c).isc = s.isc ∧ (s.closeCascade c).spu = s.spu ∧
    (s.closeCascade c).shu = s.shu ∧ (s.closeCascade c).lastAccepted = s.lastAccepted ∧
    (s.closeCascade c).sup = s.sup ∧ (s.closeCascade c).chk = s.chk ∧ (s.closeCascade c).lpt = s.lpt ∧
    (s.closeCascade c).pins = s.pins ∧ (s.closeCascade c).free = s.free ∧ (s.closeCascade c).pending = s.pending := by
  unfold State.closeCascade
  try dsimp only
  (repeat' split) <;> simp

/-- A stop at its deadline. -/
@[simp] theorem State.decideStop_frame (s : State) (x : Stop) :
    (s.decideStop x).time = s.time ∧ (s.decideStop x).clock = s.clock ∧ (s.decideStop x).lif = s.lif ∧
    (s.decideStop x).clu = s.clu ∧ (s.decideStop x).isc = s.isc ∧ (s.decideStop x).csu = s.csu ∧
    (s.decideStop x).spu = s.spu ∧ (s.decideStop x).shu = s.shu ∧ (s.decideStop x).lastAccepted = s.lastAccepted ∧
    (s.decideStop x).sup = s.sup ∧ (s.decideStop x).chk = s.chk ∧ (s.decideStop x).lpt = s.lpt ∧
    (s.decideStop x).pins = s.pins ∧ (s.decideStop x).free = s.free ∧ (s.decideStop x).pending = s.pending := by
  unfold State.decideStop
  try dsimp only
  (repeat' split) <;> simp

/-- The test of R145. -/
@[simp] theorem State.testEarly_frame (s : State) :
    (s.testEarly).time = s.time ∧ (s.testEarly).clock = s.clock ∧ (s.testEarly).lif = s.lif ∧
    (s.testEarly).clu = s.clu ∧ (s.testEarly).isc = s.isc ∧ (s.testEarly).evq = s.evq ∧ (s.testEarly).csu = s.csu ∧
    (s.testEarly).spu = s.spu ∧ (s.testEarly).run = s.run ∧ (s.testEarly).tallies = s.tallies ∧
    (s.testEarly).lastAccepted = s.lastAccepted ∧ (s.testEarly).sup = s.sup ∧ (s.testEarly).chk = s.chk ∧
    (s.testEarly).lpt = s.lpt ∧ (s.testEarly).atl = s.atl ∧ (s.testEarly).pins = s.pins ∧
    (s.testEarly).free = s.free ∧ (s.testEarly).pending = s.pending := by
  unfold State.testEarly
  try dsimp only
  (repeat' split) <;> simp

/-- ON WATCH. -/
@[simp] theorem State.toOnWatch_frame (s : State) :
    (s.toOnWatch).time = s.time ∧ (s.toOnWatch).clock = s.clock ∧ (s.toOnWatch).lif = s.lif ∧
    (s.toOnWatch).clu = s.clu ∧ (s.toOnWatch).isc = s.isc ∧ (s.toOnWatch).evq = s.evq ∧ (s.toOnWatch).csu = s.csu ∧
    (s.toOnWatch).spu = s.spu ∧ (s.toOnWatch).run = s.run ∧ (s.toOnWatch).tallies = s.tallies ∧
    (s.toOnWatch).lastAccepted = s.lastAccepted ∧ (s.toOnWatch).sup = s.sup ∧ (s.toOnWatch).chk = s.chk ∧
    (s.toOnWatch).lpt = s.lpt ∧ (s.toOnWatch).atl = s.atl ∧ (s.toOnWatch).pins = s.pins ∧
    (s.toOnWatch).free = s.free ∧ (s.toOnWatch).pending = s.pending := by
  unfold State.toOnWatch
  try dsimp only
  (repeat' split) <;> simp

/-- A key closed with a frame. -/
@[simp] theorem State.closeWithFrame_frame (s : State) (k : ShiftKey) (o : HandoverOutcome) (t : Stamp) :
    (s.closeWithFrame k o t).time = s.time ∧ (s.closeWithFrame k o t).clock = s.clock ∧
    (s.closeWithFrame k o t).clu = s.clu ∧ (s.closeWithFrame k o t).isc = s.isc ∧
    (s.closeWithFrame k o t).csu = s.csu ∧ (s.closeWithFrame k o t).spu = s.spu ∧
    (s.closeWithFrame k o t).run = s.run ∧ (s.closeWithFrame k o t).tallies = s.tallies ∧
    (s.closeWithFrame k o t).sup = s.sup ∧ (s.closeWithFrame k o t).chk = s.chk ∧
    (s.closeWithFrame k o t).lpt = s.lpt ∧ (s.closeWithFrame k o t).pins = s.pins ∧
    (s.closeWithFrame k o t).free = s.free ∧ (s.closeWithFrame k o t).pending = s.pending := by
  unfold State.closeWithFrame
  try dsimp only
  (repeat' split) <;> simp

/-- A key closed without a frame. -/
@[simp] theorem State.closeWithoutFrame_frame (s : State) (k : ShiftKey) :
    (s.closeWithoutFrame k).time = s.time ∧ (s.closeWithoutFrame k).clock = s.clock ∧
    (s.closeWithoutFrame k).lif = s.lif ∧ (s.closeWithoutFrame k).clu = s.clu ∧
    (s.closeWithoutFrame k).isc = s.isc ∧ (s.closeWithoutFrame k).csu = s.csu ∧
    (s.closeWithoutFrame k).spu = s.spu ∧ (s.closeWithoutFrame k).run = s.run ∧
    (s.closeWithoutFrame k).tallies = s.tallies ∧ (s.closeWithoutFrame k).sup = s.sup ∧
    (s.closeWithoutFrame k).chk = s.chk ∧ (s.closeWithoutFrame k).lpt = s.lpt ∧
    (s.closeWithoutFrame k).pins = s.pins ∧ (s.closeWithoutFrame k).free = s.free ∧
    (s.closeWithoutFrame k).pending = s.pending := by
  unfold State.closeWithoutFrame
  try dsimp only
  (repeat' split) <;> simp

/-- A held press dropped. -/
@[simp] theorem State.dropHeld_frame (s : State) :
    (s.dropHeld).time = s.time ∧ (s.dropHeld).clock = s.clock ∧ (s.dropHeld).lif = s.lif ∧
    (s.dropHeld).clu = s.clu ∧ (s.dropHeld).isc = s.isc ∧ (s.dropHeld).csu = s.csu ∧ (s.dropHeld).spu = s.spu ∧
    (s.dropHeld).run = s.run ∧ (s.dropHeld).tallies = s.tallies ∧ (s.dropHeld).lastAccepted = s.lastAccepted ∧
    (s.dropHeld).sup = s.sup ∧ (s.dropHeld).chk = s.chk ∧ (s.dropHeld).lpt = s.lpt ∧ (s.dropHeld).pins = s.pins ∧
    (s.dropHeld).free = s.free ∧ (s.dropHeld).pending = s.pending := by
  unfold State.dropHeld
  try dsimp only
  (repeat' split) <;> simp

/-- A target missed. -/
@[simp] theorem State.missTarget_frame (s : State) (k : ShiftKey) :
    (s.missTarget k).time = s.time ∧ (s.missTarget k).clock = s.clock ∧ (s.missTarget k).clu = s.clu ∧
    (s.missTarget k).isc = s.isc ∧ (s.missTarget k).csu = s.csu ∧ (s.missTarget k).spu = s.spu ∧
    (s.missTarget k).run = s.run ∧ (s.missTarget k).tallies = s.tallies ∧ (s.missTarget k).sup = s.sup ∧
    (s.missTarget k).chk = s.chk ∧ (s.missTarget k).lpt = s.lpt ∧ (s.missTarget k).pins = s.pins ∧
    (s.missTarget k).free = s.free ∧ (s.missTarget k).pending = s.pending := by
  unfold State.missTarget
  try dsimp only
  (repeat' split) <;> simp

/-- The old target missed. -/
@[simp] theorem State.missIfDue_frame (s : State) :
    (s.missIfDue).time = s.time ∧ (s.missIfDue).clock = s.clock ∧ (s.missIfDue).clu = s.clu ∧
    (s.missIfDue).isc = s.isc ∧ (s.missIfDue).csu = s.csu ∧ (s.missIfDue).spu = s.spu ∧ (s.missIfDue).run = s.run ∧
    (s.missIfDue).tallies = s.tallies ∧ (s.missIfDue).sup = s.sup ∧ (s.missIfDue).chk = s.chk ∧
    (s.missIfDue).lpt = s.lpt ∧ (s.missIfDue).pins = s.pins ∧ (s.missIfDue).free = s.free ∧
    (s.missIfDue).pending = s.pending := by
  unfold State.missIfDue
  try dsimp only
  (repeat' split) <;> simp

/-- A reached key taken. -/
@[simp] theorem State.takeReached_frame (s : State) (k : ShiftKey) :
    (s.takeReached k).time = s.time ∧ (s.takeReached k).clock = s.clock ∧ (s.takeReached k).lif = s.lif ∧
    (s.takeReached k).clu = s.clu ∧ (s.takeReached k).isc = s.isc ∧ (s.takeReached k).evq = s.evq ∧
    (s.takeReached k).csu = s.csu ∧ (s.takeReached k).spu = s.spu ∧ (s.takeReached k).run = s.run ∧
    (s.takeReached k).tallies = s.tallies ∧ (s.takeReached k).lastAccepted = s.lastAccepted ∧
    (s.takeReached k).sup = s.sup ∧ (s.takeReached k).chk = s.chk ∧ (s.takeReached k).lpt = s.lpt ∧
    (s.takeReached k).pins = s.pins ∧ (s.takeReached k).free = s.free ∧ (s.takeReached k).pending = s.pending := by
  unfold State.takeReached
  try dsimp only
  (repeat' split) <;> simp

/-- Records created. -/
@[simp] theorem State.createRecords_frame (s : State) (l : List ShiftKey) :
    (s.createRecords l).time = s.time ∧ (s.createRecords l).clock = s.clock ∧ (s.createRecords l).lif = s.lif ∧
    (s.createRecords l).clu = s.clu ∧ (s.createRecords l).isc = s.isc ∧ (s.createRecords l).evq = s.evq ∧
    (s.createRecords l).csu = s.csu ∧ (s.createRecords l).spu = s.spu ∧ (s.createRecords l).run = s.run ∧
    (s.createRecords l).tallies = s.tallies ∧ (s.createRecords l).lastAccepted = s.lastAccepted ∧
    (s.createRecords l).sup = s.sup ∧ (s.createRecords l).chk = s.chk ∧ (s.createRecords l).lpt = s.lpt ∧
    (s.createRecords l).atl = s.atl ∧ (s.createRecords l).pins = s.pins ∧ (s.createRecords l).free = s.free ∧
    (s.createRecords l).pending = s.pending := by
  unfold State.createRecords
  induction l generalizing s with
  | nil => simp
  | cons c cs ih => simpa using ih (s.createRecord c)

/-- A boundary reached. -/
@[simp] theorem State.boundaryReached_frame (s : State) (k : ShiftKey) :
    (s.boundaryReached k).time = s.time ∧ (s.boundaryReached k).clock = s.clock ∧
    (s.boundaryReached k).clu = s.clu ∧ (s.boundaryReached k).isc = s.isc ∧ (s.boundaryReached k).csu = s.csu ∧
    (s.boundaryReached k).spu = s.spu ∧ (s.boundaryReached k).run = s.run ∧ (s.boundaryReached k).sup = s.sup ∧
    (s.boundaryReached k).chk = s.chk ∧ (s.boundaryReached k).lpt = s.lpt ∧ (s.boundaryReached k).pins = s.pins ∧
    (s.boundaryReached k).free = s.free ∧ (s.boundaryReached k).pending = s.pending := by
  unfold State.boundaryReached
  try dsimp only
  (repeat' split) <;> simp

/-- A press kept or dropped. -/
@[simp] theorem State.keepHeldFor_frame (s : State) (h : Option HeldPress) (t : Option ShiftKey) :
    (s.keepHeldFor h t).time = s.time ∧ (s.keepHeldFor h t).clock = s.clock ∧ (s.keepHeldFor h t).lif = s.lif ∧
    (s.keepHeldFor h t).clu = s.clu ∧ (s.keepHeldFor h t).isc = s.isc ∧ (s.keepHeldFor h t).csu = s.csu ∧
    (s.keepHeldFor h t).spu = s.spu ∧ (s.keepHeldFor h t).run = s.run ∧ (s.keepHeldFor h t).tallies = s.tallies ∧
    (s.keepHeldFor h t).lastAccepted = s.lastAccepted ∧ (s.keepHeldFor h t).sup = s.sup ∧
    (s.keepHeldFor h t).chk = s.chk ∧ (s.keepHeldFor h t).lpt = s.lpt ∧ (s.keepHeldFor h t).pins = s.pins ∧
    (s.keepHeldFor h t).free = s.free ∧ (s.keepHeldFor h t).pending = s.pending := by
  unfold State.keepHeldFor
  try dsimp only
  (repeat' split) <;> simp

/-- The last key targeted. -/
@[simp] theorem State.targetLast_frame (s : State) (k : ShiftKey) :
    (s.targetLast k).time = s.time ∧ (s.targetLast k).clock = s.clock ∧ (s.targetLast k).lif = s.lif ∧
    (s.targetLast k).clu = s.clu ∧ (s.targetLast k).isc = s.isc ∧ (s.targetLast k).evq = s.evq ∧
    (s.targetLast k).csu = s.csu ∧ (s.targetLast k).spu = s.spu ∧ (s.targetLast k).run = s.run ∧
    (s.targetLast k).tallies = s.tallies ∧ (s.targetLast k).lastAccepted = s.lastAccepted ∧
    (s.targetLast k).sup = s.sup ∧ (s.targetLast k).chk = s.chk ∧ (s.targetLast k).lpt = s.lpt ∧
    (s.targetLast k).pins = s.pins ∧ (s.targetLast k).free = s.free ∧ (s.targetLast k).pending = s.pending := by
  have h : ∀ t : State, t = s.targetLast k → (t = s.enterDue k (s.clock.date.minus (boundaryTime s.cfg.boundaries k))
      ∨ t = s.enterOverdue k (s.clock.date.minus (boundaryTime s.cfg.boundaries k))) := by
    intro t ht
    subst ht
    exact ite_holds (p := fun t => t = _ ∨ t = _) (Or.inl rfl) (Or.inr rfl)
  rcases h _ rfl with h | h <;> rw [h] <;> simp

/-- Keys missed without a frame. -/
@[simp] theorem State.foldClose_frame (s : State) (l : List ShiftKey) :
    let t := l.foldl State.closeWithoutFrame s
    t.time = s.time ∧ t.clock = s.clock ∧ t.lif = s.lif ∧ t.clu = s.clu ∧ t.isc = s.isc ∧ t.csu = s.csu ∧ t.spu = s.spu ∧
      t.run = s.run ∧ t.tallies = s.tallies ∧ t.sup = s.sup ∧ t.chk = s.chk ∧ t.lpt = s.lpt ∧ t.pins = s.pins ∧
      t.free = s.free ∧ t.pending = s.pending := by
  induction l generalizing s with
  | nil => simp
  | cons c cs ih => simpa using ih (s.closeWithoutFrame c)

/-- The keys L handled. -/
@[simp] theorem State.handleKeys_frame (s : State) (l : List ShiftKey) :
    (s.handleKeys l).time = s.time ∧ (s.handleKeys l).clock = s.clock ∧ (s.handleKeys l).lif = s.lif ∧
    (s.handleKeys l).clu = s.clu ∧ (s.handleKeys l).isc = s.isc ∧ (s.handleKeys l).csu = s.csu ∧
    (s.handleKeys l).spu = s.spu ∧ (s.handleKeys l).run = s.run ∧ (s.handleKeys l).tallies = s.tallies ∧
    (s.handleKeys l).sup = s.sup ∧ (s.handleKeys l).chk = s.chk ∧ (s.handleKeys l).lpt = s.lpt ∧
    (s.handleKeys l).pins = s.pins ∧ (s.handleKeys l).free = s.free ∧ (s.handleKeys l).pending = s.pending := by
  unfold State.handleKeys
  try dsimp only
  (repeat' split) <;> simp

/-- A step at a post. -/
@[simp] theorem State.stepAtPost_frame (s : State) (k : ShiftKey) (a b : Date) :
    (s.stepAtPost k a b).time = s.time ∧ (s.stepAtPost k a b).clock = s.clock ∧ (s.stepAtPost k a b).clu = s.clu ∧
    (s.stepAtPost k a b).isc = s.isc ∧ (s.stepAtPost k a b).csu = s.csu ∧ (s.stepAtPost k a b).spu = s.spu ∧
    (s.stepAtPost k a b).run = s.run ∧ (s.stepAtPost k a b).tallies = s.tallies ∧ (s.stepAtPost k a b).sup = s.sup ∧
    (s.stepAtPost k a b).chk = s.chk ∧ (s.stepAtPost k a b).lpt = s.lpt ∧ (s.stepAtPost k a b).pins = s.pins ∧
    (s.stepAtPost k a b).free = s.free ∧ (s.stepAtPost k a b).pending = s.pending := by
  unfold State.stepAtPost
  try dsimp only
  (repeat' split) <;> simp

/-- Crossed keys handled. -/
@[simp] theorem State.takeCrossed_frame (s : State) (k : ShiftKey) (a b : Date) :
    (s.takeCrossed k a b).time = s.time ∧ (s.takeCrossed k a b).clock = s.clock ∧ (s.takeCrossed k a b).clu = s.clu ∧
    (s.takeCrossed k a b).isc = s.isc ∧ (s.takeCrossed k a b).csu = s.csu ∧ (s.takeCrossed k a b).spu = s.spu ∧
    (s.takeCrossed k a b).run = s.run ∧ (s.takeCrossed k a b).sup = s.sup ∧ (s.takeCrossed k a b).chk = s.chk ∧
    (s.takeCrossed k a b).lpt = s.lpt ∧ (s.takeCrossed k a b).pins = s.pins ∧ (s.takeCrossed k a b).free = s.free ∧
    (s.takeCrossed k a b).pending = s.pending := by
  unfold State.takeCrossed
  try dsimp only
  (repeat' split) <;> simp

/-- The test of R145 on a post. -/
@[simp] theorem State.testEarlyAtPost_frame (s : State) :
    (s.testEarlyAtPost).time = s.time ∧ (s.testEarlyAtPost).clock = s.clock ∧ (s.testEarlyAtPost).lif = s.lif ∧
    (s.testEarlyAtPost).clu = s.clu ∧ (s.testEarlyAtPost).isc = s.isc ∧ (s.testEarlyAtPost).evq = s.evq ∧
    (s.testEarlyAtPost).csu = s.csu ∧ (s.testEarlyAtPost).spu = s.spu ∧ (s.testEarlyAtPost).run = s.run ∧
    (s.testEarlyAtPost).tallies = s.tallies ∧ (s.testEarlyAtPost).lastAccepted = s.lastAccepted ∧
    (s.testEarlyAtPost).sup = s.sup ∧ (s.testEarlyAtPost).chk = s.chk ∧ (s.testEarlyAtPost).lpt = s.lpt ∧
    (s.testEarlyAtPost).atl = s.atl ∧ (s.testEarlyAtPost).pins = s.pins ∧ (s.testEarlyAtPost).free = s.free ∧
    (s.testEarlyAtPost).pending = s.pending := by
  unfold State.testEarlyAtPost
  try dsimp only
  (repeat' split) <;> simp

/-- A step reported. -/
@[simp] theorem State.reportStep_frame (s : State) (a b : Date) :
    (s.reportStep a b).time = s.time ∧ (s.reportStep a b).clock = s.clock ∧ (s.reportStep a b).clu = s.clu ∧
    (s.reportStep a b).isc = s.isc ∧ (s.reportStep a b).csu = s.csu ∧ (s.reportStep a b).spu = s.spu ∧
    (s.reportStep a b).run = s.run ∧ (s.reportStep a b).sup = s.sup ∧ (s.reportStep a b).chk = s.chk ∧
    (s.reportStep a b).lpt = s.lpt ∧ (s.reportStep a b).pins = s.pins ∧ (s.reportStep a b).free = s.free ∧
    (s.reportStep a b).pending = s.pending := by
  unfold State.reportStep
  try dsimp only
  (repeat' split) <;> simp

/-- The catch-up. -/
@[simp] theorem State.catchUp_frame (s : State) :
    (s.catchUp).time = s.time ∧ (s.catchUp).clock = s.clock ∧ (s.catchUp).clu = s.clu ∧ (s.catchUp).isc = s.isc ∧
    (s.catchUp).csu = s.csu ∧ (s.catchUp).spu = s.spu ∧ (s.catchUp).run = s.run ∧
    (s.catchUp).lastAccepted = s.lastAccepted ∧ (s.catchUp).sup = s.sup ∧ (s.catchUp).chk = s.chk ∧
    (s.catchUp).lpt = s.lpt ∧ (s.catchUp).pins = s.pins ∧ (s.catchUp).free = s.free ∧ (s.catchUp).pending = s.pending := by
  unfold State.catchUp
  try dsimp only
  (repeat' split) <;> simp

/-- The handover at OPEN. -/
@[simp] theorem State.postAtOpen_frame (s : State) :
    (s.postAtOpen).time = s.time ∧ (s.postAtOpen).clock = s.clock ∧ (s.postAtOpen).lif = s.lif ∧
    (s.postAtOpen).clu = s.clu ∧ (s.postAtOpen).isc = s.isc ∧ (s.postAtOpen).csu = s.csu ∧
    (s.postAtOpen).spu = s.spu ∧ (s.postAtOpen).run = s.run ∧ (s.postAtOpen).tallies = s.tallies ∧
    (s.postAtOpen).sup = s.sup ∧ (s.postAtOpen).chk = s.chk ∧ (s.postAtOpen).lpt = s.lpt ∧
    (s.postAtOpen).pins = s.pins ∧ (s.postAtOpen).free = s.free ∧ (s.postAtOpen).pending = s.pending := by
  unfold State.postAtOpen
  try dsimp only
  (repeat' split) <;> simp

/-- The Shift Unit at OPEN. -/
@[simp] theorem State.openShift_frame (s : State) :
    (s.openShift).time = s.time ∧ (s.openShift).clock = s.clock ∧ (s.openShift).clu = s.clu ∧
    (s.openShift).isc = s.isc ∧ (s.openShift).csu = s.csu ∧ (s.openShift).spu = s.spu ∧ (s.openShift).run = s.run ∧
    (s.openShift).sup = s.sup ∧ (s.openShift).chk = s.chk ∧ (s.openShift).lpt = s.lpt ∧
    (s.openShift).pins = s.pins ∧ (s.openShift).free = s.free ∧ (s.openShift).pending = s.pending := by
  unfold State.openShift
  try dsimp only
  (repeat' split) <;> simp

/-- An accepted handover. -/
@[simp] theorem State.acceptHandover_frame (s : State) (k : ShiftKey) (o : HandoverOutcome) (t : Stamp) :
    (s.acceptHandover k o t).time = s.time ∧ (s.acceptHandover k o t).clock = s.clock ∧
    (s.acceptHandover k o t).clu = s.clu ∧ (s.acceptHandover k o t).isc = s.isc ∧
    (s.acceptHandover k o t).csu = s.csu ∧ (s.acceptHandover k o t).spu = s.spu ∧
    (s.acceptHandover k o t).run = s.run ∧ (s.acceptHandover k o t).tallies = s.tallies ∧
    (s.acceptHandover k o t).sup = s.sup ∧ (s.acceptHandover k o t).chk = s.chk ∧
    (s.acceptHandover k o t).lpt = s.lpt ∧ (s.acceptHandover k o t).pins = s.pins ∧
    (s.acceptHandover k o t).free = s.free ∧ (s.acceptHandover k o t).pending = s.pending := by
  unfold State.acceptHandover
  try dsimp only
  (repeat' split) <;> simp

/-- A press. -/
@[simp] theorem State.press_frame (s : State) (p : PressKey) (t : Stamp) :
    (s.press p t).time = s.time ∧ (s.press p t).clock = s.clock ∧ (s.press p t).clu = s.clu ∧
    (s.press p t).isc = s.isc ∧ (s.press p t).csu = s.csu ∧ (s.press p t).spu = s.spu ∧ (s.press p t).run = s.run ∧
    (s.press p t).tallies = s.tallies ∧ (s.press p t).sup = s.sup ∧ (s.press p t).chk = s.chk ∧
    (s.press p t).lpt = s.lpt ∧ (s.press p t).pins = s.pins ∧ (s.press p t).free = s.free ∧
    (s.press p t).pending = s.pending := by
  unfold State.press
  try dsimp only
  (repeat' split) <;> simp

/-- Accepted elsewhere. -/
@[simp] theorem State.acceptedElsewhere_frame (s : State) (n : NodeNo) (k : ShiftKey) (o : HandoverOutcome) (t : Stamp) (d : BitVec 16) :
    (s.acceptedElsewhere n k o t d).time = s.time ∧ (s.acceptedElsewhere n k o t d).clock = s.clock ∧
    (s.acceptedElsewhere n k o t d).lif = s.lif ∧ (s.acceptedElsewhere n k o t d).clu = s.clu ∧
    (s.acceptedElsewhere n k o t d).isc = s.isc ∧ (s.acceptedElsewhere n k o t d).csu = s.csu ∧
    (s.acceptedElsewhere n k o t d).spu = s.spu ∧ (s.acceptedElsewhere n k o t d).run = s.run ∧
    (s.acceptedElsewhere n k o t d).tallies = s.tallies ∧ (s.acceptedElsewhere n k o t d).sup = s.sup ∧
    (s.acceptedElsewhere n k o t d).chk = s.chk ∧ (s.acceptedElsewhere n k o t d).lpt = s.lpt ∧
    (s.acceptedElsewhere n k o t d).pins = s.pins ∧ (s.acceptedElsewhere n k o t d).free = s.free ∧
    (s.acceptedElsewhere n k o t d).pending = s.pending := by
  unfold State.acceptedElsewhere
  try dsimp only
  (repeat' split) <;> simp

/-- A concurrent HANDOVER. -/
@[simp] theorem State.concurrentHandover_frame (s : State) (n : NodeNo) (k : ShiftKey) (o : HandoverOutcome) (t : Stamp) (d : BitVec 16) :
    (s.concurrentHandover n k o t d).time = s.time ∧ (s.concurrentHandover n k o t d).clock = s.clock ∧
    (s.concurrentHandover n k o t d).clu = s.clu ∧ (s.concurrentHandover n k o t d).isc = s.isc ∧
    (s.concurrentHandover n k o t d).csu = s.csu ∧ (s.concurrentHandover n k o t d).spu = s.spu ∧
    (s.concurrentHandover n k o t d).run = s.run ∧ (s.concurrentHandover n k o t d).tallies = s.tallies ∧
    (s.concurrentHandover n k o t d).lastAccepted = s.lastAccepted ∧ (s.concurrentHandover n k o t d).sup = s.sup ∧
    (s.concurrentHandover n k o t d).chk = s.chk ∧ (s.concurrentHandover n k o t d).lpt = s.lpt ∧
    (s.concurrentHandover n k o t d).pins = s.pins ∧ (s.concurrentHandover n k o t d).free = s.free ∧
    (s.concurrentHandover n k o t d).pending = s.pending := by
  unfold State.concurrentHandover
  try dsimp only
  (repeat' split) <;> simp

/-- A HANDOVER at a post. -/
@[simp] theorem State.postHandover_frame (s : State) (n : NodeNo) (q : ClockState) (b : List Byte) :
    (s.postHandover n q b).time = s.time ∧ (s.postHandover n q b).clock = s.clock ∧
    (s.postHandover n q b).clu = s.clu ∧ (s.postHandover n q b).isc = s.isc ∧ (s.postHandover n q b).csu = s.csu ∧
    (s.postHandover n q b).spu = s.spu ∧ (s.postHandover n q b).run = s.run ∧
    (s.postHandover n q b).tallies = s.tallies ∧ (s.postHandover n q b).sup = s.sup ∧
    (s.postHandover n q b).chk = s.chk ∧ (s.postHandover n q b).lpt = s.lpt ∧ (s.postHandover n q b).pins = s.pins ∧
    (s.postHandover n q b).free = s.free ∧ (s.postHandover n q b).pending = s.pending := by
  unfold State.postHandover
  try dsimp only
  (repeat' split) <;> simp

/-- The end of gathering. -/
@[simp] theorem State.endGathering_frame (s : State) (k : ShiftKey) (r : StationRecord) :
    (s.endGathering k r).time = s.time ∧ (s.endGathering k r).clock = s.clock ∧ (s.endGathering k r).lif = s.lif ∧
    (s.endGathering k r).clu = s.clu ∧ (s.endGathering k r).isc = s.isc ∧ (s.endGathering k r).evq = s.evq ∧
    (s.endGathering k r).csu = s.csu ∧ (s.endGathering k r).spu = s.spu ∧ (s.endGathering k r).run = s.run ∧
    (s.endGathering k r).tallies = s.tallies ∧ (s.endGathering k r).lastAccepted = s.lastAccepted ∧
    (s.endGathering k r).sup = s.sup ∧ (s.endGathering k r).chk = s.chk ∧ (s.endGathering k r).lpt = s.lpt ∧
    (s.endGathering k r).pins = s.pins ∧ (s.endGathering k r).free = s.free ∧
    (s.endGathering k r).pending = s.pending := by
  unfold State.endGathering
  try dsimp only
  (repeat' split) <;> simp

/-- A step of the clock. -/
@[simp] theorem State.stepClock_frame (s : State) (d : Date) (c : StepCause) :
    (s.stepClock d c).isc = s.isc ∧ (s.stepClock d c).csu = s.csu ∧ (s.stepClock d c).spu = s.spu ∧
    (s.stepClock d c).run = s.run ∧ (s.stepClock d c).sup = s.sup ∧ (s.stepClock d c).chk = s.chk ∧
    (s.stepClock d c).lpt = s.lpt ∧ (s.stepClock d c).pins = s.pins ∧ (s.stepClock d c).free = s.free ∧
    (s.stepClock d c).pending = s.pending := by
  unfold State.stepClock
  try dsimp only
  (repeat' split) <;> simp

/-- A reference lock. -/
@[simp] theorem State.lockReference_frame (s : State) :
    (s.lockReference).time = s.time ∧ (s.lockReference).clock = s.clock ∧ (s.lockReference).lif = s.lif ∧
    (s.lockReference).isc = s.isc ∧ (s.lockReference).csu = s.csu ∧ (s.lockReference).spu = s.spu ∧
    (s.lockReference).run = s.run ∧ (s.lockReference).tallies = s.tallies ∧ (s.lockReference).shu = s.shu ∧
    (s.lockReference).lastAccepted = s.lastAccepted ∧ (s.lockReference).sup = s.sup ∧
    (s.lockReference).chk = s.chk ∧ (s.lockReference).lpt = s.lpt ∧ (s.lockReference).pins = s.pins ∧
    (s.lockReference).free = s.free ∧ (s.lockReference).pending = s.pending := by
  unfold State.lockReference
  try dsimp only
  (repeat' split) <;> simp

/-- A step that may lock. -/
@[simp] theorem State.stepAndLock_frame (s : State) (d : Date) (c : StepCause) :
    (s.stepAndLock d c).isc = s.isc ∧ (s.stepAndLock d c).csu = s.csu ∧ (s.stepAndLock d c).spu = s.spu ∧
    (s.stepAndLock d c).run = s.run ∧ (s.stepAndLock d c).sup = s.sup ∧ (s.stepAndLock d c).chk = s.chk ∧
    (s.stepAndLock d c).lpt = s.lpt ∧ (s.stepAndLock d c).pins = s.pins ∧ (s.stepAndLock d c).free = s.free ∧
    (s.stepAndLock d c).pending = s.pending := by
  unfold State.stepAndLock
  try dsimp only
  (repeat' split) <;> simp

/-- A round opens. -/
@[simp] theorem State.openRound_frame (s : State) (k : RoundKey) :
    (s.openRound k).time = s.time ∧ (s.openRound k).clock = s.clock ∧ (s.openRound k).lif = s.lif ∧
    (s.openRound k).isc = s.isc ∧ (s.openRound k).evq = s.evq ∧ (s.openRound k).csu = s.csu ∧
    (s.openRound k).spu = s.spu ∧ (s.openRound k).run = s.run ∧ (s.openRound k).tallies = s.tallies ∧
    (s.openRound k).shu = s.shu ∧ (s.openRound k).lastAccepted = s.lastAccepted ∧ (s.openRound k).sup = s.sup ∧
    (s.openRound k).chk = s.chk ∧ (s.openRound k).lpt = s.lpt ∧ (s.openRound k).atl = s.atl ∧
    (s.openRound k).pins = s.pins ∧ (s.openRound k).free = s.free ∧ (s.openRound k).pending = s.pending := by
  unfold State.openRound
  try dsimp only
  (repeat' split) <;> simp

/-- A start handed back. -/
@[simp] theorem State.handBack_frame (s : State) (k : RoundKey) (t : Start) :
    (s.handBack k t).time = s.time ∧ (s.handBack k t).clock = s.clock ∧ (s.handBack k t).lif = s.lif ∧
    (s.handBack k t).isc = s.isc ∧ (s.handBack k t).evq = s.evq ∧ (s.handBack k t).csu = s.csu ∧
    (s.handBack k t).spu = s.spu ∧ (s.handBack k t).run = s.run ∧ (s.handBack k t).tallies = s.tallies ∧
    (s.handBack k t).shu = s.shu ∧ (s.handBack k t).lastAccepted = s.lastAccepted ∧ (s.handBack k t).sup = s.sup ∧
    (s.handBack k t).chk = s.chk ∧ (s.handBack k t).lpt = s.lpt ∧ (s.handBack k t).atl = s.atl ∧
    (s.handBack k t).pins = s.pins ∧ (s.handBack k t).free = s.free ∧ (s.handBack k t).pending = s.pending := by
  unfold State.handBack
  try dsimp only
  (repeat' split) <;> simp

/-- A round abandoned. -/
@[simp] theorem State.abandonRound_frame (s : State) :
    (s.abandonRound).time = s.time ∧ (s.abandonRound).clock = s.clock ∧ (s.abandonRound).isc = s.isc ∧
    (s.abandonRound).evq = s.evq ∧ (s.abandonRound).csu = s.csu ∧ (s.abandonRound).spu = s.spu ∧
    (s.abandonRound).run = s.run ∧ (s.abandonRound).tallies = s.tallies ∧ (s.abandonRound).shu = s.shu ∧
    (s.abandonRound).lastAccepted = s.lastAccepted ∧ (s.abandonRound).sup = s.sup ∧ (s.abandonRound).chk = s.chk ∧
    (s.abandonRound).lpt = s.lpt ∧ (s.abandonRound).atl = s.atl ∧ (s.abandonRound).pins = s.pins ∧
    (s.abandonRound).free = s.free ∧ (s.abandonRound).pending = s.pending := by
  unfold State.abandonRound
  try dsimp only
  (repeat' split) <;> simp

/-- A coarse set. -/
@[simp] theorem State.coarseSet_frame (s : State) (f : ForeignMark) :
    (s.coarseSet f).isc = s.isc ∧ (s.coarseSet f).csu = s.csu ∧ (s.coarseSet f).spu = s.spu ∧
    (s.coarseSet f).run = s.run ∧ (s.coarseSet f).sup = s.sup ∧ (s.coarseSet f).chk = s.chk ∧
    (s.coarseSet f).lpt = s.lpt ∧ (s.coarseSet f).pins = s.pins ∧ (s.coarseSet f).free = s.free ∧
    (s.coarseSet f).pending = s.pending := by
  unfold State.coarseSet
  try dsimp only
  (repeat' split) <;> simp

/-- The time test. -/
@[simp] theorem State.timeTest_frame (s : State) (n : NodeNo) (m : MarkBody) :
    (s.timeTest n m).isc = s.isc ∧ (s.timeTest n m).csu = s.csu ∧ (s.timeTest n m).spu = s.spu ∧
    (s.timeTest n m).run = s.run ∧ (s.timeTest n m).sup = s.sup ∧ (s.timeTest n m).chk = s.chk ∧
    (s.timeTest n m).lpt = s.lpt ∧ (s.timeTest n m).pins = s.pins ∧ (s.timeTest n m).free = s.free ∧
    (s.timeTest n m).pending = s.pending := by
  unfold State.timeTest
  try dsimp only
  (repeat' split) <;> simp

/-- A MARK delivered. -/
@[simp] theorem State.markDelivered_frame (s : State) (n : NodeNo) (t : Start) (b : List Byte) :
    (s.markDelivered n t b).isc = s.isc ∧ (s.markDelivered n t b).csu = s.csu ∧
    (s.markDelivered n t b).spu = s.spu ∧ (s.markDelivered n t b).run = s.run ∧
    (s.markDelivered n t b).sup = s.sup ∧ (s.markDelivered n t b).chk = s.chk ∧
    (s.markDelivered n t b).lpt = s.lpt ∧ (s.markDelivered n t b).pins = s.pins ∧
    (s.markDelivered n t b).free = s.free ∧ (s.markDelivered n t b).pending = s.pending := by
  unfold State.markDelivered
  try dsimp only
  (repeat' split) <;> simp

/-- Formation at a close. -/
@[simp] theorem State.formationClose_frame (s : State) (r : Round) :
    (s.formationClose r).time = s.time ∧ (s.formationClose r).clock = s.clock ∧ (s.formationClose r).lif = s.lif ∧
    (s.formationClose r).isc = s.isc ∧ (s.formationClose r).csu = s.csu ∧ (s.formationClose r).spu = s.spu ∧
    (s.formationClose r).run = s.run ∧ (s.formationClose r).tallies = s.tallies ∧ (s.formationClose r).shu = s.shu ∧
    (s.formationClose r).lastAccepted = s.lastAccepted ∧ (s.formationClose r).sup = s.sup ∧
    (s.formationClose r).chk = s.chk ∧ (s.formationClose r).lpt = s.lpt ∧ (s.formationClose r).pins = s.pins ∧
    (s.formationClose r).free = s.free ∧ (s.formationClose r).pending = s.pending := by
  unfold State.formationClose
  try dsimp only
  (repeat' split) <;> simp

/-- A full round in JOINING. -/
@[simp] theorem State.joiningFull_frame (s : State) (c : Int) :
    ((s.joiningFull c).1).isc = s.isc ∧ ((s.joiningFull c).1).csu = s.csu ∧ ((s.joiningFull c).1).spu = s.spu ∧
    ((s.joiningFull c).1).run = s.run ∧ ((s.joiningFull c).1).sup = s.sup ∧ ((s.joiningFull c).1).chk = s.chk ∧
    ((s.joiningFull c).1).lpt = s.lpt ∧ ((s.joiningFull c).1).pins = s.pins ∧ ((s.joiningFull c).1).free = s.free ∧
    ((s.joiningFull c).1).pending = s.pending := by
  unfold State.joiningFull
  try dsimp only
  (repeat' split) <;> simp

/-- The split test. -/
@[simp] theorem State.splitTest_frame (s : State) (r : Round) :
    (s.splitTest r).time = s.time ∧ (s.splitTest r).clock = s.clock ∧ (s.splitTest r).lif = s.lif ∧
    (s.splitTest r).isc = s.isc ∧ (s.splitTest r).evq = s.evq ∧ (s.splitTest r).csu = s.csu ∧
    (s.splitTest r).spu = s.spu ∧ (s.splitTest r).run = s.run ∧ (s.splitTest r).tallies = s.tallies ∧
    (s.splitTest r).shu = s.shu ∧ (s.splitTest r).lastAccepted = s.lastAccepted ∧ (s.splitTest r).sup = s.sup ∧
    (s.splitTest r).chk = s.chk ∧ (s.splitTest r).lpt = s.lpt ∧ (s.splitTest r).pins = s.pins ∧
    (s.splitTest r).free = s.free ∧ (s.splitTest r).pending = s.pending := by
  unfold State.splitTest
  try dsimp only
  (repeat' split) <;> simp

/-- The split close. -/
@[simp] theorem State.splitClose_frame (s : State) :
    ((s.splitClose).1).isc = s.isc ∧ ((s.splitClose).1).csu = s.csu ∧ ((s.splitClose).1).spu = s.spu ∧
    ((s.splitClose).1).run = s.run ∧ ((s.splitClose).1).sup = s.sup ∧ ((s.splitClose).1).chk = s.chk ∧
    ((s.splitClose).1).lpt = s.lpt ∧ ((s.splitClose).1).pins = s.pins ∧ ((s.splitClose).1).free = s.free ∧
    ((s.splitClose).1).pending = s.pending := by
  unfold State.splitClose
  try dsimp only
  (repeat' split) <;> simp

/-- A short round in AGREED. -/
@[simp] theorem State.agreedShort_frame (s : State) :
    (s.agreedShort).time = s.time ∧ (s.agreedShort).clock = s.clock ∧ (s.agreedShort).lif = s.lif ∧
    (s.agreedShort).isc = s.isc ∧ (s.agreedShort).csu = s.csu ∧ (s.agreedShort).spu = s.spu ∧
    (s.agreedShort).run = s.run ∧ (s.agreedShort).tallies = s.tallies ∧ (s.agreedShort).shu = s.shu ∧
    (s.agreedShort).lastAccepted = s.lastAccepted ∧ (s.agreedShort).sup = s.sup ∧ (s.agreedShort).chk = s.chk ∧
    (s.agreedShort).lpt = s.lpt ∧ (s.agreedShort).pins = s.pins ∧ (s.agreedShort).free = s.free ∧
    (s.agreedShort).pending = s.pending := by
  unfold State.agreedShort
  try dsimp only
  (repeat' split) <;> simp

/-- A full round in AGREED. -/
@[simp] theorem State.agreedFull_frame (s : State) (c : Int) :
    ((s.agreedFull c).1).clock = s.clock ∧ ((s.agreedFull c).1).lif = s.lif ∧ ((s.agreedFull c).1).isc = s.isc ∧
    ((s.agreedFull c).1).csu = s.csu ∧ ((s.agreedFull c).1).spu = s.spu ∧ ((s.agreedFull c).1).run = s.run ∧
    ((s.agreedFull c).1).tallies = s.tallies ∧ ((s.agreedFull c).1).shu = s.shu ∧
    ((s.agreedFull c).1).lastAccepted = s.lastAccepted ∧ ((s.agreedFull c).1).sup = s.sup ∧
    ((s.agreedFull c).1).chk = s.chk ∧ ((s.agreedFull c).1).lpt = s.lpt ∧ ((s.agreedFull c).1).pins = s.pins ∧
    ((s.agreedFull c).1).free = s.free ∧ ((s.agreedFull c).1).pending = s.pending := by
  unfold State.agreedFull
  try dsimp only
  (repeat' split) <;> simp

/-- A full round in HOLDOVER. -/
@[simp] theorem State.holdoverFull_frame (s : State) (c : Int) :
    ((s.holdoverFull c).1).clock = s.clock ∧ ((s.holdoverFull c).1).lif = s.lif ∧
    ((s.holdoverFull c).1).isc = s.isc ∧ ((s.holdoverFull c).1).csu = s.csu ∧ ((s.holdoverFull c).1).spu = s.spu ∧
    ((s.holdoverFull c).1).run = s.run ∧ ((s.holdoverFull c).1).tallies = s.tallies ∧
    ((s.holdoverFull c).1).shu = s.shu ∧ ((s.holdoverFull c).1).lastAccepted = s.lastAccepted ∧
    ((s.holdoverFull c).1).sup = s.sup ∧ ((s.holdoverFull c).1).chk = s.chk ∧ ((s.holdoverFull c).1).lpt = s.lpt ∧
    ((s.holdoverFull c).1).pins = s.pins ∧ ((s.holdoverFull c).1).free = s.free ∧
    ((s.holdoverFull c).1).pending = s.pending := by
  unfold State.holdoverFull
  try dsimp only
  (repeat' split) <;> simp

/-- A close in AGREED. -/
@[simp] theorem State.agreedClose_frame (s : State) (r : Round) (v : CloseValues) :
    ((s.agreedClose r v).1).isc = s.isc ∧ ((s.agreedClose r v).1).csu = s.csu ∧
    ((s.agreedClose r v).1).spu = s.spu ∧ ((s.agreedClose r v).1).run = s.run ∧
    ((s.agreedClose r v).1).sup = s.sup ∧ ((s.agreedClose r v).1).chk = s.chk ∧
    ((s.agreedClose r v).1).lpt = s.lpt ∧ ((s.agreedClose r v).1).pins = s.pins ∧
    ((s.agreedClose r v).1).free = s.free ∧ ((s.agreedClose r v).1).pending = s.pending := by
  unfold State.agreedClose
  try dsimp only
  (repeat' split) <;> simp

/-- The transition of a close. -/
@[simp] theorem State.closeTransition_frame (s : State) (r : Round) (v : CloseValues) :
    ((s.closeTransition r v).1).isc = s.isc ∧ ((s.closeTransition r v).1).csu = s.csu ∧
    ((s.closeTransition r v).1).spu = s.spu ∧ ((s.closeTransition r v).1).run = s.run ∧
    ((s.closeTransition r v).1).sup = s.sup ∧ ((s.closeTransition r v).1).chk = s.chk ∧
    ((s.closeTransition r v).1).lpt = s.lpt ∧ ((s.closeTransition r v).1).pins = s.pins ∧
    ((s.closeTransition r v).1).free = s.free ∧ ((s.closeTransition r v).1).pending = s.pending := by
  unfold State.closeTransition
  try dsimp only
  (repeat' split) <;> simp

/-- A round close. -/
@[simp] theorem State.closeRound_frame (s : State) (r : Round) :
    (s.closeRound r).isc = s.isc ∧ (s.closeRound r).csu = s.csu ∧ (s.closeRound r).spu = s.spu ∧
    (s.closeRound r).run = s.run ∧ (s.closeRound r).sup = s.sup ∧ (s.closeRound r).chk = s.chk ∧
    (s.closeRound r).lpt = s.lpt ∧ (s.closeRound r).pins = s.pins ∧ (s.closeRound r).free = s.free ∧
    (s.closeRound r).pending = s.pending := by
  unfold State.closeRound
  try dsimp only
  (repeat' split) <;> simp

/-- A disciplining pulse. -/
@[simp] theorem State.discipline_frame (s : State) :
    (s.discipline).isc = s.isc ∧ (s.discipline).csu = s.csu ∧ (s.discipline).spu = s.spu ∧
    (s.discipline).run = s.run ∧ (s.discipline).sup = s.sup ∧ (s.discipline).chk = s.chk ∧
    (s.discipline).lpt = s.lpt ∧ (s.discipline).pins = s.pins ∧ (s.discipline).free = s.free ∧
    (s.discipline).pending = s.pending := by
  unfold State.discipline
  try dsimp only
  (repeat' split) <;> simp

/-- A good interval. -/
@[simp] theorem State.goodInterval_frame (s : State) :
    (s.goodInterval).isc = s.isc ∧ (s.goodInterval).csu = s.csu ∧ (s.goodInterval).spu = s.spu ∧
    (s.goodInterval).run = s.run ∧ (s.goodInterval).sup = s.sup ∧ (s.goodInterval).chk = s.chk ∧
    (s.goodInterval).lpt = s.lpt ∧ (s.goodInterval).pins = s.pins ∧ (s.goodInterval).free = s.free ∧
    (s.goodInterval).pending = s.pending := by
  unfold State.goodInterval
  try dsimp only
  (repeat' split) <;> simp

/-- A reference loss. -/
@[simp] theorem State.loseReference_frame (s : State) :
    (s.loseReference).time = s.time ∧ (s.loseReference).clock = s.clock ∧ (s.loseReference).lif = s.lif ∧
    (s.loseReference).isc = s.isc ∧ (s.loseReference).csu = s.csu ∧ (s.loseReference).spu = s.spu ∧
    (s.loseReference).run = s.run ∧ (s.loseReference).tallies = s.tallies ∧ (s.loseReference).shu = s.shu ∧
    (s.loseReference).lastAccepted = s.lastAccepted ∧ (s.loseReference).sup = s.sup ∧
    (s.loseReference).chk = s.chk ∧ (s.loseReference).lpt = s.lpt ∧ (s.loseReference).pins = s.pins ∧
    (s.loseReference).free = s.free ∧ (s.loseReference).pending = s.pending := by
  unfold State.loseReference
  try dsimp only
  (repeat' split) <;> simp

/-- A bad interval. -/
@[simp] theorem State.badInterval_frame (s : State) :
    (s.badInterval).time = s.time ∧ (s.badInterval).clock = s.clock ∧ (s.badInterval).lif = s.lif ∧
    (s.badInterval).isc = s.isc ∧ (s.badInterval).csu = s.csu ∧ (s.badInterval).spu = s.spu ∧
    (s.badInterval).run = s.run ∧ (s.badInterval).tallies = s.tallies ∧ (s.badInterval).shu = s.shu ∧
    (s.badInterval).lastAccepted = s.lastAccepted ∧ (s.badInterval).sup = s.sup ∧ (s.badInterval).chk = s.chk ∧
    (s.badInterval).lpt = s.lpt ∧ (s.badInterval).pins = s.pins ∧ (s.badInterval).free = s.free ∧
    (s.badInterval).pending = s.pending := by
  unfold State.badInterval
  try dsimp only
  (repeat' split) <;> simp

/-- A reference edge. -/
@[simp] theorem State.referenceEdge_frame (s : State) :
    (s.referenceEdge).isc = s.isc ∧ (s.referenceEdge).csu = s.csu ∧ (s.referenceEdge).spu = s.spu ∧
    (s.referenceEdge).run = s.run ∧ (s.referenceEdge).sup = s.sup ∧ (s.referenceEdge).chk = s.chk ∧
    (s.referenceEdge).lpt = s.lpt ∧ (s.referenceEdge).pins = s.pins ∧ (s.referenceEdge).free = s.free ∧
    (s.referenceEdge).pending = s.pending := by
  unfold State.referenceEdge
  try dsimp only
  (repeat' split) <;> simp

/-- A reference silence. -/
@[simp] theorem State.referenceSilence_frame (s : State) :
    (s.referenceSilence).time = s.time ∧ (s.referenceSilence).clock = s.clock ∧ (s.referenceSilence).lif = s.lif ∧
    (s.referenceSilence).isc = s.isc ∧ (s.referenceSilence).csu = s.csu ∧ (s.referenceSilence).spu = s.spu ∧
    (s.referenceSilence).run = s.run ∧ (s.referenceSilence).tallies = s.tallies ∧ (s.referenceSilence).shu = s.shu ∧
    (s.referenceSilence).lastAccepted = s.lastAccepted ∧ (s.referenceSilence).sup = s.sup ∧
    (s.referenceSilence).chk = s.chk ∧ (s.referenceSilence).lpt = s.lpt ∧ (s.referenceSilence).pins = s.pins ∧
    (s.referenceSilence).free = s.free ∧ (s.referenceSilence).pending = s.pending := by
  unfold State.referenceSilence
  try dsimp only
  (repeat' split) <;> simp

/-- The own boundary. -/
@[simp] theorem State.takeBoundary_frame (s : State) (k : RoundKey) :
    (s.takeBoundary k).clock = s.clock ∧ (s.takeBoundary k).isc = s.isc ∧ (s.takeBoundary k).evq = s.evq ∧
    (s.takeBoundary k).csu = s.csu ∧ (s.takeBoundary k).spu = s.spu ∧ (s.takeBoundary k).run = s.run ∧
    (s.takeBoundary k).tallies = s.tallies ∧ (s.takeBoundary k).shu = s.shu ∧
    (s.takeBoundary k).lastAccepted = s.lastAccepted ∧ (s.takeBoundary k).sup = s.sup ∧
    (s.takeBoundary k).chk = s.chk ∧ (s.takeBoundary k).lpt = s.lpt ∧ (s.takeBoundary k).atl = s.atl ∧
    (s.takeBoundary k).pins = s.pins ∧ (s.takeBoundary k).free = s.free ∧ (s.takeBoundary k).pending = s.pending := by
  unfold State.takeBoundary
  try dsimp only
  (repeat' split) <;> simp

/-- A first sample. -/
@[simp] theorem State.firstSampled_frame (s : State) (n : InputNo) (h : Bool) (d : Stamp) :
    (s.firstSampled n h d).time = s.time ∧ (s.firstSampled n h d).clock = s.clock ∧
    (s.firstSampled n h d).lif = s.lif ∧ (s.firstSampled n h d).clu = s.clu ∧ (s.firstSampled n h d).csu = s.csu ∧
    (s.firstSampled n h d).spu = s.spu ∧ (s.firstSampled n h d).shu = s.shu ∧
    (s.firstSampled n h d).lastAccepted = s.lastAccepted ∧ (s.firstSampled n h d).sup = s.sup ∧
    (s.firstSampled n h d).chk = s.chk ∧ (s.firstSampled n h d).lpt = s.lpt ∧ (s.firstSampled n h d).pins = s.pins ∧
    (s.firstSampled n h d).free = s.free ∧ (s.firstSampled n h d).pending = s.pending := by
  unfold State.firstSampled
  try dsimp only
  (repeat' split) <;> simp

/-- A change by role. -/
@[simp] theorem State.handByRole_frame (s : State) (n : InputNo) (l : Bool) (d : Stamp) :
    (s.handByRole n l d).time = s.time ∧ (s.handByRole n l d).clock = s.clock ∧ (s.handByRole n l d).clu = s.clu ∧
    (s.handByRole n l d).isc = s.isc ∧ (s.handByRole n l d).csu = s.csu ∧ (s.handByRole n l d).spu = s.spu ∧
    (s.handByRole n l d).sup = s.sup ∧ (s.handByRole n l d).chk = s.chk ∧ (s.handByRole n l d).lpt = s.lpt ∧
    (s.handByRole n l d).pins = s.pins ∧ (s.handByRole n l d).free = s.free ∧
    (s.handByRole n l d).pending = s.pending := by
  unfold State.handByRole
  try dsimp only
  (repeat' split) <;> simp

/-- A recorded change. -/
@[simp] theorem State.recordChange_frame (s : State) (n : InputNo) (l : Bool) (d : Stamp) :
    (s.recordChange n l d).time = s.time ∧ (s.recordChange n l d).clock = s.clock ∧
    (s.recordChange n l d).clu = s.clu ∧ (s.recordChange n l d).isc = s.isc ∧ (s.recordChange n l d).spu = s.spu ∧
    (s.recordChange n l d).run = s.run ∧ (s.recordChange n l d).tallies = s.tallies ∧
    (s.recordChange n l d).lastAccepted = s.lastAccepted ∧ (s.recordChange n l d).sup = s.sup ∧
    (s.recordChange n l d).chk = s.chk ∧ (s.recordChange n l d).lpt = s.lpt ∧ (s.recordChange n l d).pins = s.pins ∧
    (s.recordChange n l d).free = s.free ∧ (s.recordChange n l d).pending = s.pending := by
  unfold State.recordChange
  try dsimp only
  (repeat' split) <;> simp

/-- A change handed on. -/
@[simp] theorem State.handOn_frame (s : State) (n : InputNo) (l : Bool) (d : Stamp) :
    (s.handOn n l d).time = s.time ∧ (s.handOn n l d).clock = s.clock ∧ (s.handOn n l d).clu = s.clu ∧
    (s.handOn n l d).isc = s.isc ∧ (s.handOn n l d).spu = s.spu ∧ (s.handOn n l d).sup = s.sup ∧
    (s.handOn n l d).chk = s.chk ∧ (s.handOn n l d).lpt = s.lpt ∧ (s.handOn n l d).pins = s.pins ∧
    (s.handOn n l d).free = s.free ∧ (s.handOn n l d).pending = s.pending := by
  unfold State.handOn
  try dsimp only
  (repeat' split) <;> simp

/-- A lock. -/
@[simp] theorem State.lockInput_frame (s : State) (n : InputNo) (l : Bool) (d : Stamp) (e : Nat) :
    (s.lockInput n l d e).time = s.time ∧ (s.lockInput n l d e).clock = s.clock ∧
    (s.lockInput n l d e).lif = s.lif ∧ (s.lockInput n l d e).clu = s.clu ∧ (s.lockInput n l d e).csu = s.csu ∧
    (s.lockInput n l d e).spu = s.spu ∧ (s.lockInput n l d e).run = s.run ∧
    (s.lockInput n l d e).tallies = s.tallies ∧ (s.lockInput n l d e).shu = s.shu ∧
    (s.lockInput n l d e).lastAccepted = s.lastAccepted ∧ (s.lockInput n l d e).sup = s.sup ∧
    (s.lockInput n l d e).chk = s.chk ∧ (s.lockInput n l d e).lpt = s.lpt ∧ (s.lockInput n l d e).pins = s.pins ∧
    (s.lockInput n l d e).free = s.free ∧ (s.lockInput n l d e).pending = s.pending := by
  unfold State.lockInput
  try dsimp only
  (repeat' split) <;> simp

/-- A qualified change. -/
@[simp] theorem State.qualified_frame (s : State) (n : InputNo) (l : Bool) (f : Start) :
    (s.qualified n l f).time = s.time ∧ (s.qualified n l f).clock = s.clock ∧ (s.qualified n l f).clu = s.clu ∧
    (s.qualified n l f).spu = s.spu ∧ (s.qualified n l f).sup = s.sup ∧ (s.qualified n l f).chk = s.chk ∧
    (s.qualified n l f).lpt = s.lpt ∧ (s.qualified n l f).pins = s.pins ∧ (s.qualified n l f).free = s.free ∧
    (s.qualified n l f).pending = s.pending := by
  unfold State.qualified
  try dsimp only
  (repeat' split) <;> simp

/-- A release. -/
@[simp] theorem State.release_frame (s : State) (n : InputNo) (x : BitVec 16) (l : Option Stamp) :
    (s.release n x l).time = s.time ∧ (s.release n x l).clock = s.clock ∧ (s.release n x l).lif = s.lif ∧
    (s.release n x l).clu = s.clu ∧ (s.release n x l).csu = s.csu ∧ (s.release n x l).spu = s.spu ∧
    (s.release n x l).shu = s.shu ∧ (s.release n x l).lastAccepted = s.lastAccepted ∧
    (s.release n x l).sup = s.sup ∧ (s.release n x l).chk = s.chk ∧ (s.release n x l).lpt = s.lpt ∧
    (s.release n x l).pins = s.pins ∧ (s.release n x l).free = s.free ∧ (s.release n x l).pending = s.pending := by
  unfold State.release
  try dsimp only
  (repeat' split) <;> simp

/-- A window closes. -/
@[simp] theorem State.windowCloses_frame (s : State) (n : InputNo) :
    (s.windowCloses n).time = s.time ∧ (s.windowCloses n).clock = s.clock ∧ (s.windowCloses n).lif = s.lif ∧
    (s.windowCloses n).clu = s.clu ∧ (s.windowCloses n).csu = s.csu ∧ (s.windowCloses n).spu = s.spu ∧
    (s.windowCloses n).shu = s.shu ∧ (s.windowCloses n).lastAccepted = s.lastAccepted ∧
    (s.windowCloses n).sup = s.sup ∧ (s.windowCloses n).chk = s.chk ∧ (s.windowCloses n).lpt = s.lpt ∧
    (s.windowCloses n).pins = s.pins ∧ (s.windowCloses n).free = s.free ∧ (s.windowCloses n).pending = s.pending := by
  unfold State.windowCloses
  try dsimp only
  (repeat' split) <;> simp

/-- A pulse counted. -/
@[simp] theorem State.countPulse_frame (s : State) :
    (s.countPulse).time = s.time ∧ (s.countPulse).clock = s.clock ∧ (s.countPulse).lif = s.lif ∧
    (s.countPulse).clu = s.clu ∧ (s.countPulse).isc = s.isc ∧ (s.countPulse).evq = s.evq ∧
    (s.countPulse).csu = s.csu ∧ (s.countPulse).run = s.run ∧ (s.countPulse).shu = s.shu ∧
    (s.countPulse).lastAccepted = s.lastAccepted ∧ (s.countPulse).sup = s.sup ∧ (s.countPulse).chk = s.chk ∧
    (s.countPulse).lpt = s.lpt ∧ (s.countPulse).atl = s.atl ∧ (s.countPulse).pins = s.pins ∧
    (s.countPulse).free = s.free ∧ (s.countPulse).pending = s.pending := by
  unfold State.countPulse
  try dsimp only
  (repeat' split) <;> simp

/-- An edge under its phase. -/
@[simp] theorem State.phaseEdge_frame (s : State) :
    (s.phaseEdge).time = s.time ∧ (s.phaseEdge).clock = s.clock ∧ (s.phaseEdge).lif = s.lif ∧
    (s.phaseEdge).clu = s.clu ∧ (s.phaseEdge).isc = s.isc ∧ (s.phaseEdge).csu = s.csu ∧ (s.phaseEdge).shu = s.shu ∧
    (s.phaseEdge).lastAccepted = s.lastAccepted ∧ (s.phaseEdge).sup = s.sup ∧ (s.phaseEdge).chk = s.chk ∧
    (s.phaseEdge).lpt = s.lpt ∧ (s.phaseEdge).pins = s.pins ∧ (s.phaseEdge).free = s.free ∧
    (s.phaseEdge).pending = s.pending := by
  unfold State.phaseEdge
  try dsimp only
  (repeat' split) <;> simp

/-- Silence ended. -/
@[simp] theorem State.endSilence_frame (s : State) :
    (s.endSilence).time = s.time ∧ (s.endSilence).clock = s.clock ∧ (s.endSilence).lif = s.lif ∧
    (s.endSilence).clu = s.clu ∧ (s.endSilence).isc = s.isc ∧ (s.endSilence).evq = s.evq ∧
    (s.endSilence).csu = s.csu ∧ (s.endSilence).tallies = s.tallies ∧ (s.endSilence).shu = s.shu ∧
    (s.endSilence).lastAccepted = s.lastAccepted ∧ (s.endSilence).sup = s.sup ∧ (s.endSilence).chk = s.chk ∧
    (s.endSilence).lpt = s.lpt ∧ (s.endSilence).atl = s.atl ∧ (s.endSilence).pins = s.pins ∧
    (s.endSilence).free = s.free ∧ (s.endSilence).pending = s.pending := by
  unfold State.endSilence
  try dsimp only
  (repeat' split) <;> simp

/-- An accepted edge. -/
@[simp] theorem State.acceptEdge_frame (s : State) :
    (s.acceptEdge).time = s.time ∧ (s.acceptEdge).clock = s.clock ∧ (s.acceptEdge).lif = s.lif ∧
    (s.acceptEdge).clu = s.clu ∧ (s.acceptEdge).isc = s.isc ∧ (s.acceptEdge).csu = s.csu ∧
    (s.acceptEdge).shu = s.shu ∧ (s.acceptEdge).lastAccepted = s.lastAccepted ∧ (s.acceptEdge).sup = s.sup ∧
    (s.acceptEdge).chk = s.chk ∧ (s.acceptEdge).lpt = s.lpt ∧ (s.acceptEdge).pins = s.pins ∧
    (s.acceptEdge).free = s.free ∧ (s.acceptEdge).pending = s.pending := by
  unfold State.acceptEdge
  try dsimp only
  (repeat' split) <;> simp

/-- Silence declared. -/
@[simp] theorem State.declareSilence_frame (s : State) :
    (s.declareSilence).time = s.time ∧ (s.declareSilence).clock = s.clock ∧ (s.declareSilence).lif = s.lif ∧
    (s.declareSilence).clu = s.clu ∧ (s.declareSilence).isc = s.isc ∧ (s.declareSilence).csu = s.csu ∧
    (s.declareSilence).shu = s.shu ∧ (s.declareSilence).lastAccepted = s.lastAccepted ∧
    (s.declareSilence).sup = s.sup ∧ (s.declareSilence).chk = s.chk ∧ (s.declareSilence).lpt = s.lpt ∧
    (s.declareSilence).pins = s.pins ∧ (s.declareSilence).free = s.free ∧ (s.declareSilence).pending = s.pending := by
  unfold State.declareSilence
  try dsimp only
  (repeat' split) <;> simp

/-- A tenth credited. -/
@[simp] theorem State.creditTenth_frame (s : State) :
    (s.creditTenth).time = s.time ∧ (s.creditTenth).clock = s.clock ∧ (s.creditTenth).lif = s.lif ∧
    (s.creditTenth).clu = s.clu ∧ (s.creditTenth).isc = s.isc ∧ (s.creditTenth).evq = s.evq ∧
    (s.creditTenth).csu = s.csu ∧ (s.creditTenth).spu = s.spu ∧ (s.creditTenth).shu = s.shu ∧
    (s.creditTenth).lastAccepted = s.lastAccepted ∧ (s.creditTenth).sup = s.sup ∧ (s.creditTenth).chk = s.chk ∧
    (s.creditTenth).lpt = s.lpt ∧ (s.creditTenth).atl = s.atl ∧ (s.creditTenth).pins = s.pins ∧
    (s.creditTenth).free = s.free ∧ (s.creditTenth).pending = s.pending := by
  unfold State.creditTenth
  try dsimp only
  (repeat' split) <;> simp

/-- A frame counted. -/
@[simp] theorem State.countOnce_frame (s : State) (f : LineCounters → LineCounters) :
    (s.countOnce f).time = s.time ∧ (s.countOnce f).clock = s.clock ∧ (s.countOnce f).clu = s.clu ∧
    (s.countOnce f).isc = s.isc ∧ (s.countOnce f).evq = s.evq ∧ (s.countOnce f).csu = s.csu ∧
    (s.countOnce f).spu = s.spu ∧ (s.countOnce f).run = s.run ∧ (s.countOnce f).tallies = s.tallies ∧
    (s.countOnce f).shu = s.shu ∧ (s.countOnce f).lastAccepted = s.lastAccepted ∧ (s.countOnce f).sup = s.sup ∧
    (s.countOnce f).chk = s.chk ∧ (s.countOnce f).lpt = s.lpt ∧ (s.countOnce f).atl = s.atl ∧
    (s.countOnce f).pins = s.pins ∧ (s.countOnce f).free = s.free ∧ (s.countOnce f).pending = s.pending := by
  unfold State.countOnce
  try dsimp only
  (repeat' split) <;> simp

/-- A send begins. -/
@[simp] theorem State.beginSend_frame (s : State) (t : Start) (l : Bool) :
    (s.beginSend t l).time = s.time ∧ (s.beginSend t l).clock = s.clock ∧ (s.beginSend t l).clu = s.clu ∧
    (s.beginSend t l).isc = s.isc ∧ (s.beginSend t l).evq = s.evq ∧ (s.beginSend t l).csu = s.csu ∧
    (s.beginSend t l).spu = s.spu ∧ (s.beginSend t l).run = s.run ∧ (s.beginSend t l).tallies = s.tallies ∧
    (s.beginSend t l).shu = s.shu ∧ (s.beginSend t l).lastAccepted = s.lastAccepted ∧
    (s.beginSend t l).sup = s.sup ∧ (s.beginSend t l).chk = s.chk ∧ (s.beginSend t l).lpt = s.lpt ∧
    (s.beginSend t l).atl = s.atl ∧ (s.beginSend t l).pins = s.pins ∧ (s.beginSend t l).free = s.free ∧
    (s.beginSend t l).pending = s.pending := by
  unfold State.beginSend
  try dsimp only
  (repeat' split) <;> simp

/-- An unheard frame. -/
@[simp] theorem State.unheardFrame_frame (s : State) (f : QueuedFrame) :
    (s.unheardFrame f).time = s.time ∧ (s.unheardFrame f).clock = s.clock ∧ (s.unheardFrame f).clu = s.clu ∧
    (s.unheardFrame f).isc = s.isc ∧ (s.unheardFrame f).csu = s.csu ∧ (s.unheardFrame f).spu = s.spu ∧
    (s.unheardFrame f).run = s.run ∧ (s.unheardFrame f).tallies = s.tallies ∧
    (s.unheardFrame f).lastAccepted = s.lastAccepted ∧ (s.unheardFrame f).sup = s.sup ∧
    (s.unheardFrame f).chk = s.chk ∧ (s.unheardFrame f).lpt = s.lpt ∧ (s.unheardFrame f).pins = s.pins ∧
    (s.unheardFrame f).free = s.free ∧ (s.unheardFrame f).pending = s.pending := by
  unfold State.unheardFrame
  try dsimp only
  (repeat' split) <;> simp

/-- A MARK ends. -/
@[simp] theorem State.markEnds_frame (s : State) (k : RoundKey) (t : Start) (h : Bool) :
    (s.markEnds k t h).time = s.time ∧ (s.markEnds k t h).clock = s.clock ∧ (s.markEnds k t h).isc = s.isc ∧
    (s.markEnds k t h).evq = s.evq ∧ (s.markEnds k t h).csu = s.csu ∧ (s.markEnds k t h).spu = s.spu ∧
    (s.markEnds k t h).run = s.run ∧ (s.markEnds k t h).tallies = s.tallies ∧ (s.markEnds k t h).shu = s.shu ∧
    (s.markEnds k t h).lastAccepted = s.lastAccepted ∧ (s.markEnds k t h).sup = s.sup ∧
    (s.markEnds k t h).chk = s.chk ∧ (s.markEnds k t h).lpt = s.lpt ∧ (s.markEnds k t h).atl = s.atl ∧
    (s.markEnds k t h).pins = s.pins ∧ (s.markEnds k t h).free = s.free ∧ (s.markEnds k t h).pending = s.pending := by
  unfold State.markEnds
  try dsimp only
  (repeat' split) <;> simp

/-- An attempt ends. -/
@[simp] theorem State.endAttempt_frame (s : State) (t : Start) (f : QueuedFrame) (h : Bool) :
    (s.endAttempt t f h).time = s.time ∧ (s.endAttempt t f h).clock = s.clock ∧ (s.endAttempt t f h).isc = s.isc ∧
    (s.endAttempt t f h).csu = s.csu ∧ (s.endAttempt t f h).spu = s.spu ∧ (s.endAttempt t f h).run = s.run ∧
    (s.endAttempt t f h).tallies = s.tallies ∧ (s.endAttempt t f h).lastAccepted = s.lastAccepted ∧
    (s.endAttempt t f h).sup = s.sup ∧ (s.endAttempt t f h).chk = s.chk ∧ (s.endAttempt t f h).lpt = s.lpt ∧
    (s.endAttempt t f h).pins = s.pins ∧ (s.endAttempt t f h).free = s.free ∧
    (s.endAttempt t f h).pending = s.pending := by
  unfold State.endAttempt
  try dsimp only
  (repeat' split) <;> simp

/-- A frame delivered. -/
@[simp] theorem State.deliver_frame (s : State) (k : FrameKind) (n : NodeNo) (t : Start) (b : List Byte) :
    (s.deliver k n t b).isc = s.isc ∧ (s.deliver k n t b).spu = s.spu ∧ (s.deliver k n t b).sup = s.sup ∧
    (s.deliver k n t b).chk = s.chk ∧ (s.deliver k n t b).lpt = s.lpt ∧ (s.deliver k n t b).pins = s.pins ∧
    (s.deliver k n t b).free = s.free ∧ (s.deliver k n t b).pending = s.pending := by
  unfold State.deliver
  try dsimp only
  (repeat' split) <;> simp

/-- An intact frame. -/
@[simp] theorem State.receiveIntact_frame (s : State) (h : Byte) (b : List Byte) :
    (s.receiveIntact h b).isc = s.isc ∧ (s.receiveIntact h b).spu = s.spu ∧ (s.receiveIntact h b).sup = s.sup ∧
    (s.receiveIntact h b).chk = s.chk ∧ (s.receiveIntact h b).lpt = s.lpt ∧ (s.receiveIntact h b).pins = s.pins ∧
    (s.receiveIntact h b).free = s.free ∧ (s.receiveIntact h b).pending = s.pending := by
  unfold State.receiveIntact
  try dsimp only
  (repeat' split) <;> simp

/-- A check error. -/
@[simp] theorem State.receiveWrong_frame (s : State) (x : Bool) :
    (s.receiveWrong x).time = s.time ∧ (s.receiveWrong x).clock = s.clock ∧ (s.receiveWrong x).clu = s.clu ∧
    (s.receiveWrong x).isc = s.isc ∧ (s.receiveWrong x).evq = s.evq ∧ (s.receiveWrong x).csu = s.csu ∧
    (s.receiveWrong x).spu = s.spu ∧ (s.receiveWrong x).run = s.run ∧ (s.receiveWrong x).tallies = s.tallies ∧
    (s.receiveWrong x).shu = s.shu ∧ (s.receiveWrong x).lastAccepted = s.lastAccepted ∧
    (s.receiveWrong x).sup = s.sup ∧ (s.receiveWrong x).chk = s.chk ∧ (s.receiveWrong x).lpt = s.lpt ∧
    (s.receiveWrong x).atl = s.atl ∧ (s.receiveWrong x).pins = s.pins ∧ (s.receiveWrong x).free = s.free ∧
    (s.receiveWrong x).pending = s.pending := by
  unfold State.receiveWrong
  try dsimp only
  (repeat' split) <;> simp

/-- A form error. -/
@[simp] theorem State.receiveFaulty_frame (s : State) (c : FormErrorCause) :
    (s.receiveFaulty c).time = s.time ∧ (s.receiveFaulty c).clock = s.clock ∧ (s.receiveFaulty c).clu = s.clu ∧
    (s.receiveFaulty c).isc = s.isc ∧ (s.receiveFaulty c).evq = s.evq ∧ (s.receiveFaulty c).csu = s.csu ∧
    (s.receiveFaulty c).spu = s.spu ∧ (s.receiveFaulty c).run = s.run ∧ (s.receiveFaulty c).tallies = s.tallies ∧
    (s.receiveFaulty c).shu = s.shu ∧ (s.receiveFaulty c).lastAccepted = s.lastAccepted ∧
    (s.receiveFaulty c).sup = s.sup ∧ (s.receiveFaulty c).chk = s.chk ∧ (s.receiveFaulty c).lpt = s.lpt ∧
    (s.receiveFaulty c).atl = s.atl ∧ (s.receiveFaulty c).pins = s.pins ∧ (s.receiveFaulty c).free = s.free ∧
    (s.receiveFaulty c).pending = s.pending := by
  unfold State.receiveFaulty
  try dsimp only
  (repeat' split) <;> simp

/-- A frame abandoned. -/
@[simp] theorem State.abandonFrame_frame (s : State) (m : Bool) :
    (s.abandonFrame m).time = s.time ∧ (s.abandonFrame m).clock = s.clock ∧ (s.abandonFrame m).clu = s.clu ∧
    (s.abandonFrame m).isc = s.isc ∧ (s.abandonFrame m).evq = s.evq ∧ (s.abandonFrame m).csu = s.csu ∧
    (s.abandonFrame m).spu = s.spu ∧ (s.abandonFrame m).run = s.run ∧ (s.abandonFrame m).tallies = s.tallies ∧
    (s.abandonFrame m).shu = s.shu ∧ (s.abandonFrame m).lastAccepted = s.lastAccepted ∧
    (s.abandonFrame m).sup = s.sup ∧ (s.abandonFrame m).chk = s.chk ∧ (s.abandonFrame m).lpt = s.lpt ∧
    (s.abandonFrame m).atl = s.atl ∧ (s.abandonFrame m).pins = s.pins ∧ (s.abandonFrame m).free = s.free ∧
    (s.abandonFrame m).pending = s.pending := by
  unfold State.abandonFrame
  try dsimp only
  (repeat' split) <;> simp

/-- The own frame broken off. -/
@[simp] theorem State.breakOwnFrame_frame (s : State) (h : Nat) :
    (s.breakOwnFrame h).time = s.time ∧ (s.breakOwnFrame h).clock = s.clock ∧ (s.breakOwnFrame h).clu = s.clu ∧
    (s.breakOwnFrame h).isc = s.isc ∧ (s.breakOwnFrame h).evq = s.evq ∧ (s.breakOwnFrame h).csu = s.csu ∧
    (s.breakOwnFrame h).spu = s.spu ∧ (s.breakOwnFrame h).run = s.run ∧ (s.breakOwnFrame h).tallies = s.tallies ∧
    (s.breakOwnFrame h).lastAccepted = s.lastAccepted ∧ (s.breakOwnFrame h).sup = s.sup ∧
    (s.breakOwnFrame h).chk = s.chk ∧ (s.breakOwnFrame h).lpt = s.lpt ∧ (s.breakOwnFrame h).pins = s.pins ∧
    (s.breakOwnFrame h).free = s.free ∧ (s.breakOwnFrame h).pending = s.pending := by
  unfold State.breakOwnFrame
  try dsimp only
  (repeat' split) <;> simp

/-- A sender that takes up the clock. -/
@[simp] theorem State.takeClock_frame (s : State) :
    (s.takeClock).time = s.time ∧ (s.takeClock).clock = s.clock ∧ (s.takeClock).clu = s.clu ∧
    (s.takeClock).isc = s.isc ∧ (s.takeClock).evq = s.evq ∧ (s.takeClock).csu = s.csu ∧ (s.takeClock).spu = s.spu ∧
    (s.takeClock).run = s.run ∧ (s.takeClock).tallies = s.tallies ∧ (s.takeClock).shu = s.shu ∧
    (s.takeClock).lastAccepted = s.lastAccepted ∧ (s.takeClock).sup = s.sup ∧ (s.takeClock).chk = s.chk ∧
    (s.takeClock).lpt = s.lpt ∧ (s.takeClock).atl = s.atl ∧ (s.takeClock).pins = s.pins ∧
    (s.takeClock).free = s.free ∧ (s.takeClock).pending = s.pending := by
  unfold State.takeClock
  try dsimp only
  (repeat' split) <;> simp

/-- LINE STUCK. -/
@[simp] theorem State.enterStuck_frame (s : State) (m : Bool) :
    (s.enterStuck m).time = s.time ∧ (s.enterStuck m).clock = s.clock ∧ (s.enterStuck m).clu = s.clu ∧
    (s.enterStuck m).isc = s.isc ∧ (s.enterStuck m).evq = s.evq ∧ (s.enterStuck m).csu = s.csu ∧
    (s.enterStuck m).spu = s.spu ∧ (s.enterStuck m).run = s.run ∧ (s.enterStuck m).tallies = s.tallies ∧
    (s.enterStuck m).lastAccepted = s.lastAccepted ∧ (s.enterStuck m).sup = s.sup ∧ (s.enterStuck m).chk = s.chk ∧
    (s.enterStuck m).lpt = s.lpt ∧ (s.enterStuck m).pins = s.pins ∧ (s.enterStuck m).free = s.free ∧
    (s.enterStuck m).pending = s.pending := by
  unfold State.enterStuck
  try dsimp only
  (repeat' split) <;> simp

/-- A failure reported. -/
@[simp] theorem State.reportFailure_frame (s : State) (a : StoreArea) (i : Nat) :
    (s.reportFailure a i).time = s.time ∧ (s.reportFailure a i).clock = s.clock ∧
    (s.reportFailure a i).lif = s.lif ∧ (s.reportFailure a i).clu = s.clu ∧ (s.reportFailure a i).isc = s.isc ∧
    (s.reportFailure a i).evq = s.evq ∧ (s.reportFailure a i).csu = s.csu ∧ (s.reportFailure a i).spu = s.spu ∧
    (s.reportFailure a i).run = s.run ∧ (s.reportFailure a i).tallies = s.tallies ∧
    (s.reportFailure a i).shu = s.shu ∧ (s.reportFailure a i).lastAccepted = s.lastAccepted ∧
    (s.reportFailure a i).chk = s.chk ∧ (s.reportFailure a i).lpt = s.lpt ∧ (s.reportFailure a i).pins = s.pins ∧
    (s.reportFailure a i).free = s.free ∧ (s.reportFailure a i).pending = s.pending := by
  unfold State.reportFailure
  try dsimp only
  (repeat' split) <;> simp

/-- A failure taken. -/
@[simp] theorem State.takeFailure_frame (s : State) (a : StoreArea) (r : Bool) :
    (s.takeFailure a r).time = s.time ∧ (s.takeFailure a r).clock = s.clock ∧ (s.takeFailure a r).lif = s.lif ∧
    (s.takeFailure a r).clu = s.clu ∧ (s.takeFailure a r).isc = s.isc ∧ (s.takeFailure a r).evq = s.evq ∧
    (s.takeFailure a r).csu = s.csu ∧ (s.takeFailure a r).spu = s.spu ∧ (s.takeFailure a r).run = s.run ∧
    (s.takeFailure a r).shu = s.shu ∧ (s.takeFailure a r).lastAccepted = s.lastAccepted ∧
    (s.takeFailure a r).chk = s.chk ∧ (s.takeFailure a r).lpt = s.lpt ∧ (s.takeFailure a r).pins = s.pins ∧
    (s.takeFailure a r).free = s.free ∧ (s.takeFailure a r).pending = s.pending := by
  unfold State.takeFailure
  try dsimp only
  (repeat' split) <;> simp

/-- A failure taken after ACCEPT TALLY. -/
@[simp] theorem State.takeFinding_frame (s : State) (f : Option (StoreArea × Bool)) :
    (s.takeFinding f).time = s.time ∧ (s.takeFinding f).clock = s.clock ∧ (s.takeFinding f).lif = s.lif ∧
    (s.takeFinding f).clu = s.clu ∧ (s.takeFinding f).isc = s.isc ∧ (s.takeFinding f).evq = s.evq ∧
    (s.takeFinding f).csu = s.csu ∧ (s.takeFinding f).spu = s.spu ∧ (s.takeFinding f).run = s.run ∧
    (s.takeFinding f).shu = s.shu ∧ (s.takeFinding f).lastAccepted = s.lastAccepted ∧
    (s.takeFinding f).lpt = s.lpt ∧ (s.takeFinding f).pins = s.pins ∧ (s.takeFinding f).free = s.free ∧
    (s.takeFinding f).pending = s.pending := by
  unfold State.takeFinding
  try dsimp only
  (repeat' split) <;> simp

/-- A record tested. -/
@[simp] theorem State.testAt_frame (s : State) (c : Cursor) :
    (s.testAt c).time = s.time ∧ (s.testAt c).clock = s.clock ∧ (s.testAt c).lif = s.lif ∧
    (s.testAt c).clu = s.clu ∧ (s.testAt c).isc = s.isc ∧ (s.testAt c).csu = s.csu ∧ (s.testAt c).spu = s.spu ∧
    (s.testAt c).run = s.run ∧ (s.testAt c).shu = s.shu ∧ (s.testAt c).lastAccepted = s.lastAccepted ∧
    (s.testAt c).chk = s.chk ∧ (s.testAt c).lpt = s.lpt ∧ (s.testAt c).pins = s.pins ∧ (s.testAt c).free = s.free ∧
    (s.testAt c).pending = s.pending := by
  unfold State.testAt State.testTally State.testBaseline State.testUnitShift State.testEvent State.when
  (repeat' split) <;> simp

/-- A record tested and the pass moved on. -/
@[simp] theorem State.testStep_frame (s : State) (c : Cursor) :
    (s.testStep c).time = s.time ∧ (s.testStep c).clock = s.clock ∧ (s.testStep c).lif = s.lif ∧
    (s.testStep c).clu = s.clu ∧ (s.testStep c).isc = s.isc ∧ (s.testStep c).csu = s.csu ∧
    (s.testStep c).spu = s.spu ∧ (s.testStep c).run = s.run ∧ (s.testStep c).shu = s.shu ∧
    (s.testStep c).lastAccepted = s.lastAccepted ∧ (s.testStep c).lpt = s.lpt ∧ (s.testStep c).pins = s.pins ∧
    (s.testStep c).free = s.free ∧ (s.testStep c).pending = s.pending := by
  unfold State.testStep
  try dsimp only
  (repeat' split) <;> simp

/-- An outage credited. -/
@[simp] theorem State.creditOutage_frame (s : State) :
    (s.creditOutage).time = s.time ∧ (s.creditOutage).clock = s.clock ∧ (s.creditOutage).lif = s.lif ∧
    (s.creditOutage).clu = s.clu ∧ (s.creditOutage).isc = s.isc ∧ (s.creditOutage).evq = s.evq ∧
    (s.creditOutage).csu = s.csu ∧ (s.creditOutage).spu = s.spu ∧ (s.creditOutage).run = s.run ∧
    (s.creditOutage).shu = s.shu ∧ (s.creditOutage).lastAccepted = s.lastAccepted ∧ (s.creditOutage).chk = s.chk ∧
    (s.creditOutage).lpt = s.lpt ∧ (s.creditOutage).atl = s.atl ∧ (s.creditOutage).pins = s.pins ∧
    (s.creditOutage).free = s.free ∧ (s.creditOutage).pending = s.pending := by
  unfold State.creditOutage
  try dsimp only
  (repeat' split) <;> simp

end Sys2Proof.Machine
end

