-- ==== Sys2Proof/Laws/Steps.lean ====
section
/-! SUPPORT. What every command does around its own effect: time passes before it (`after`), Attention and Lamps
follows it (`finish`), and its outcome is a next state (`take`); how two states are shown equal; and what OPEN keeps at
every point between its steps. -/

namespace Sys2Proof.Machine

/-- Two states with equal fields are equal. -/
theorem State.eq_of_fields {s t : State} (time : s.time = t.time) (clock : s.clock = t.clock) (lif : s.lif = t.lif)
    (clu : s.clu = t.clu) (isc : s.isc = t.isc) (evq : s.evq = t.evq) (csu : s.csu = t.csu) (spu : s.spu = t.spu)
    (run : s.run = t.run) (tallies : s.tallies = t.tallies) (shu : s.shu = t.shu)
    (lastAccepted : s.lastAccepted = t.lastAccepted) (sup : s.sup = t.sup) (chk : s.chk = t.chk) (lpt : s.lpt = t.lpt)
    (atl : s.atl = t.atl) (pins : s.pins = t.pins) (free : s.free = t.free) (pending : s.pending = t.pending) : s = t := by
  cases s; cases t
  simp only at *
  subst_vars
  rfl

/-! ### The end of a command -/

/-- The end of a command changes Attention and Lamps alone. -/
@[simp] theorem State.finish_fields (s : State) :
    s.finish.time = s.time ∧ s.finish.clock = s.clock ∧ s.finish.lif = s.lif ∧ s.finish.clu = s.clu ∧ s.finish.isc = s.isc
      ∧ s.finish.evq = s.evq ∧ s.finish.csu = s.csu ∧ s.finish.spu = s.spu ∧ s.finish.run = s.run
      ∧ s.finish.tallies = s.tallies ∧ s.finish.shu = s.shu ∧ s.finish.lastAccepted = s.lastAccepted
      ∧ s.finish.sup = s.sup ∧ s.finish.chk = s.chk ∧ s.finish.lpt = s.lpt ∧ s.finish.pins = s.pins
      ∧ s.finish.free = s.free ∧ s.finish.pending = s.pending := by
  unfold State.finish
  split <;> simp

/-- A flag set before the end of a command is set after it, while the main domain works. -/
theorem State.finish_flags (s : State) (h : s.working = true) : s.finish.atl.flags = s.atl.flags ||| s.levelMarks := by
  simp [State.finish, h, State.atlShown]

/-- What does not work shows nothing. -/
theorem State.finish_idle (s : State) (h : s.working = false) : s.finish.atl = Atl.initial s.time.elapsed := by
  simp [State.finish, h]

/-! ### The passing of time -/

/-- Time moves the time base, the clock, the Supply Monitor's counts, a sender's clock and the shift key come to, and no
other block. -/
@[simp] theorem State.after_fields (s : State) (n : Nat) :
    (s.after n).clu = s.clu ∧ (s.after n).isc = s.isc ∧ (s.after n).evq = s.evq
      ∧ (s.after n).csu = s.csu ∧ (s.after n).spu = s.spu ∧ (s.after n).run = s.run ∧ (s.after n).tallies = s.tallies
      ∧ (s.after n).lastAccepted = s.lastAccepted ∧ (s.after n).chk = s.chk
      ∧ (s.after n).lpt = s.lpt ∧ (s.after n).atl = s.atl ∧ (s.after n).pins = s.pins ∧ (s.after n).free = s.free
      ∧ (s.after n).pending = s.pending := by
  unfold State.after
  split <;> simp

/-- Of the Line Interface time moves the mark of the LCLK driver alone. -/
@[simp] theorem State.after_lif (s : State) (n : Nat) :
    (s.after n).lif.ldatDriven = s.lif.ldatDriven ∧ (s.after n).lif.view = s.lif.view ∧ (s.after n).lif.start = s.lif.start
      ∧ (s.after n).lif.counted = s.lif.counted ∧ (s.after n).lif.joinable = s.lif.joinable
      ∧ (s.after n).lif.highFrom = s.lif.highFrom ∧ (s.after n).lif.acked = s.lif.acked
      ∧ (s.after n).lif.sendList = s.lif.sendList ∧ (s.after n).lif.send = s.lif.send
      ∧ (s.after n).lif.waitingMark = s.lif.waitingMark ∧ (s.after n).lif.counters = s.lif.counters
      ∧ (s.after n).lif.nodeNumber = s.lif.nodeNumber ∧ (s.after n).lif.lineSpeed = s.lif.lineSpeed := by
  unfold State.after
  split <;> simp

/-- Of the Shift Unit time moves the shift key come to alone. -/
@[simp] theorem State.after_shu (s : State) (n : Nat) :
    (s.after n).shu.lastReached = s.shu.lastReached ∧ (s.after n).shu.mode = s.shu.mode
      ∧ (s.after n).shu.target = s.shu.target ∧ (s.after n).shu.grace = s.shu.grace ∧ (s.after n).shu.held = s.shu.held
      ∧ (s.after n).shu.heldResult = s.shu.heldResult ∧ (s.after n).shu.records = s.shu.records
      ∧ (s.after n).shu.lastCreated = s.shu.lastCreated ∧ (s.after n).shu.unused = s.shu.unused
      ∧ (s.after n).shu.unmatched = s.shu.unmatched ∧ (s.after n).shu.repeated = s.shu.repeated
      ∧ (s.after n).shu.lostRecords = s.shu.lostRecords := by
  unfold State.after
  split <;> simp

/-- Time moves no supply state, no mark and no sensed condition. -/
@[simp] theorem State.after_sup (s : State) (n : Nat) :
    (s.after n).sup.state = s.sup.state ∧ (s.after n).sup.rstnHeld = s.sup.rstnHeld
      ∧ (s.after n).sup.vbkPresent = s.sup.vbkPresent ∧ (s.after n).sup.freshMark = s.sup.freshMark
      ∧ (s.after n).sup.creditMark = s.sup.creditMark ∧ (s.after n).sup.firstFailure = s.sup.firstFailure
      ∧ (s.after n).sup.failureOverflow = s.sup.failureOverflow
      ∧ (s.after n).sup.nodeStateAtReset = s.sup.nodeStateAtReset := by
  unfold State.after
  split <;> simp

/-- Time leaves the validity of the clock as it is. -/
@[simp] theorem State.after_valid (s : State) (n : Nat) : (s.after n).clock.valid = s.clock.valid := by
  unfold State.after
  split <;> simp [State.runMain]

/-- What time leaves of the node's state as the blocks see it. -/
@[simp] theorem State.after_seen (s : State) (n : Nat) :
    (s.after n).working = s.working ∧ (s.after n).active = s.active ∧ (s.after n).cfg = s.cfg := by
  simp [State.working, State.active, State.cfg]

/-! ### Outcomes -/

/-- A command with an effect goes on, and what holds of the state after its effect and end holds of the next state. -/
theorem goes_take {s : State} {w : Nat} {f : State → State} {p : State → Prop} (h : p (f (s.after w)).finish) :
    Goes (s.take w f) p := ⟨_, rfl, h⟩

/-- The queue of commands is the step's alone: an effect that keeps it is followed by a state that keeps it. -/
theorem take_pending {s : State} {w : Nat} {f : State → State} (h : (f (s.after w)).pending = (s.after w).pending) :
    Goes (s.take w f) fun t => t.pending = s.pending := goes_take (by simp [h])

/-! ### Stored checks at reset -/

/-- The checks that the tally and the baseline hold at a cold start are those of their contents. -/
theorem initial_tally_checks :
    Tallies.initial.tally.check = tallyCheck Tallies.initial.tally
      ∧ Tallies.initial.baseline = Baseline.of Tallies.initial.baseline.fields := by decide +kernel

/-! ### OPEN, step by step -/

/-- What each of OPEN's eight steps keeps, OPEN keeps at every point between them (R179). -/
theorem State.openTo_keeps (P : State → Prop) (kept : ∀ step ∈ openStepList, ∀ t, P t → P (step t)) (s : State) (start : P s)
    (n : Nat) : P (s.openTo n) := by
  have fold : ∀ l : List (State → State), (∀ step ∈ l, step ∈ openStepList) → ∀ t, P t → P (l.foldl (fun t step => step t) t) := by
    intro l
    induction l with
    | nil => exact fun _ _ h => h
    | cons step l ih =>
      intro sub t h
      rw [List.foldl_cons]
      exact ih (fun x hx => sub x (List.mem_cons_of_mem _ hx)) _ (kept step (sub step (List.mem_cons_self ..)) t h)
  exact fold _ (fun _ h => List.mem_of_mem_take h) s start

/-- A loss or reset while OPEN executes finds the node as it was, or at a point between OPEN's steps (R179, log 22). -/
theorem State.midOpen_cases (s : State) (reached : Option Nat) :
    s.midOpen reached = s ∨ ∃ n, reached = some n ∧ s.midOpen reached = s.openTo n := by
  unfold State.midOpen
  cases reached with
  | none => exact .inl rfl
  | some n =>
    dsimp only
    split
    · exact .inr ⟨n, rfl, rfl⟩
    · exact .inl rfl

end Sys2Proof.Machine
end

