-- ==== Sys2Proof/Laws/EventQueue.lean ====
section
/-! SUPPORT. The Event Queue: what a record made, lost or sealed holds, and where a record is placed. -/

namespace Sys2Proof.Machine

/-- Sealing sets the check alone. -/
@[simp] theorem Record.sealed_fields (r : Record) :
    r.sealed.seq = r.seq ∧ r.sealed.kind = r.kind ∧ r.sealed.stamp = r.stamp ∧ r.sealed.detailA = r.detailA
      ∧ r.sealed.detailB = r.detailB ∧ r.sealed.corrupt = r.corrupt ∧ r.sealed.check = recordCheck r :=
  ⟨rfl, rfl, rfl, rfl, rfl, rfl, rfl⟩

/-- A record's check does not cover the check. -/
@[simp] theorem Record.sealed_check (r : Record) : recordCheck r.sealed = recordCheck r := by
  simp only [recordCheck, recordHead, Record.sealed_fields]

/-- A lost count set is the lost count. -/
@[simp] theorem Record.withLoss_lostCount (r : Record) (c : BitVec 24) (o : BitVec 16) : (r.withLoss c o).lostCount = c := by
  simp only [Record.withLoss, Record.lostCount]
  apply BitVec.eq_of_getLsbD_eq
  intro i hi
  simp only [BitVec.getLsbD_append, BitVec.getLsbD_extractLsb']
  split <;> simp_all <;> grind

/-- A last-loss offset set is the last-loss offset. -/
@[simp] theorem Record.withLoss_offset (r : Record) (c : BitVec 24) (o : BitVec 16) :
    (r.withLoss c o).detailB.extractLsb' 0 16 = o := by
  simp only [Record.withLoss]
  apply BitVec.eq_of_getLsbD_eq
  intro i hi
  simp only [BitVec.getLsbD_append, BitVec.getLsbD_extractLsb']
  simp_all

/-- A loss changes the details alone. -/
@[simp] theorem Record.withLoss_fields (r : Record) (c : BitVec 24) (o : BitVec 16) :
    (r.withLoss c o).seq = r.seq ∧ (r.withLoss c o).kind = r.kind ∧ (r.withLoss c o).stamp = r.stamp
      ∧ (r.withLoss c o).corrupt = r.corrupt := ⟨rfl, rfl, rfl, rfl⟩

/-- The lost count of a sealed record. -/
@[simp] theorem Record.sealed_lostCount (r : Record) : r.sealed.lostCount = r.lostCount := rfl

/-- The record a request gives. -/
@[simp] theorem Evq.recordFor_fields (q : Evq) (kind : RecordKind) (stamp : Stamp) (a : BitVec 8) (b : BitVec 32) :
    (q.recordFor kind stamp a b).seq = q.nextSeq ∧ (q.recordFor kind stamp a b).kind = kind
      ∧ (q.recordFor kind stamp a b).stamp = stamp ∧ (q.recordFor kind stamp a b).detailA = a
      ∧ (q.recordFor kind stamp a b).detailB = b ∧ (q.recordFor kind stamp a b).corrupt = false := by
  simp [Evq.recordFor]

/-- A requested record carries the check of its contents. -/
theorem Evq.recordFor_check (q : Evq) (kind : RecordKind) (stamp : Stamp) (a : BitVec 8) (b : BitVec 32) :
    (q.recordFor kind stamp a b).check = recordCheck (q.recordFor kind stamp a b) := by
  simp [Evq.recordFor]

/-- The OVERFLOW record made for the first lost record. -/
@[simp] theorem overflowFor_fields (r : Record) :
    (overflowFor r).seq = r.seq ∧ (overflowFor r).kind = .overflow ∧ (overflowFor r).stamp = r.stamp
      ∧ (overflowFor r).lostCount = 1 ∧ (overflowFor r).detailB.extractLsb' 0 16 = 0 ∧ (overflowFor r).corrupt = false
      ∧ (overflowFor r).check = recordCheck (overflowFor r) := by
  simp [overflowFor]

/-- An OVERFLOW record that takes a further loss. -/
@[simp] theorem overflowAnd_fields (o r : Record) :
    (overflowAnd o r).seq = o.seq ∧ (overflowAnd o r).kind = o.kind ∧ (overflowAnd o r).stamp = o.stamp
      ∧ (overflowAnd o r).lostCount = o.lostCount + 1
      ∧ (overflowAnd o r).detailB.extractLsb' 0 16 = lossOffset o.stamp.date r.stamp.date
      ∧ (overflowAnd o r).corrupt = o.corrupt ∧ (overflowAnd o r).check = recordCheck (overflowAnd o r) := by
  simp [overflowAnd]

/-- An open OVERFLOW record is an OVERFLOW record at the tail. -/
theorem Evq.openOverflow_some {q : Evq} {o : Record} (h : q.openOverflow = some o) :
    q.records.getLast? = some o ∧ o.kind = .overflow := by
  unfold Evq.openOverflow Evq.tail at h
  split at h
  · cases h
  · rename_i r hr
    by_cases hk : r.isOverflow = true
    · simp only [hk, ↓reduceIte, Option.some.injEq] at h
      subst h
      exact ⟨hr, by simpa [Record.isOverflow] using hk⟩
    · simp [hk] at h

/-- Below 255 records a record is appended. -/
theorem Evq.place_below {q : Evq} {r : Record} (h : q.records.length < 255) :
    q.place r = q.records ++ [r] ∧ q.overflows = false := by
  simp [Evq.place, Evq.overflows, h]

/-- At 255 records with an ordinary tail a record is lost into a new OVERFLOW record. -/
theorem Evq.place_first {q : Evq} {r : Record} (h : 255 ≤ q.records.length) (ho : q.openOverflow = none) :
    q.place r = q.records ++ [overflowFor r] ∧ q.overflows = true := by
  have h' : ¬ q.records.length < 255 := Nat.not_lt.mpr h
  simp [Evq.place, Evq.overflows, h', ho]

/-- With an open OVERFLOW record a record is lost into it. -/
theorem Evq.place_further {q : Evq} {r o : Record} (h : 255 ≤ q.records.length) (ho : q.openOverflow = some o) :
    q.place r = q.records.dropLast ++ [overflowAnd o r] ∧ q.overflows = false := by
  have h' : ¬ q.records.length < 255 := Nat.not_lt.mpr h
  simp [Evq.place, Evq.overflows, h', ho]

end Sys2Proof.Machine
end

