-- ==== Sys2Proof/Laws/Inputs.lean ====
section
/-! SUPPORT. The sampling of a slot: what it does to each input and what it leaves alone. -/

namespace Sys2Proof.Machine

/-- The electrical level that counts as a level counts as it. -/
@[simp] theorem levelOf_electricalOf (c : InputConfig) (level : Bool) : levelOf c (electricalOf c level) = level := by
  unfold levelOf electricalOf
  cases level <;> cases c.activeHigh <;> rfl

/-- An input read after an input was set. -/
theorem State.setInput_input (s : State) (n m : InputNo) (i : InputState) :
    (s.setInput n i).input m = if m = n then i else s.input m := by
  simp only [State.input, State.setInput, Vector.getElem_set, Fin.ext_iff]
  by_cases h : m.val = n.val
  · simp [h]
  · simp [h, Ne.symm h]

/-- Sampling if the slot samples the input changes the inputs alone. -/
theorem State.sampleIfIn_frame (levels : BitVec 16) (slot : Nat) (s : State) (n : InputNo) :
    State.sampleIfIn levels slot s n = { s with isc := { s.isc with inputs := (State.sampleIfIn levels slot s n).isc.inputs } } := by
  unfold State.sampleIfIn
  split <;> rfl

/-- Sampling several inputs changes the inputs alone. -/
theorem foldSample_frame (levels : BitVec 16) (slot : Nat) (ns : List InputNo) :
    ∀ s : State, ns.foldl (State.sampleIfIn levels slot) s
      = { s with isc := { s.isc with inputs := (ns.foldl (State.sampleIfIn levels slot) s).isc.inputs } } := by
  induction ns with
  | nil => intro s; rfl
  | cons n ns ih =>
    intro s
    rw [List.foldl_cons, ih, State.sampleIfIn_frame]

/-- Sampling one input reads nothing of another input. -/
theorem sampled_congr (levels : BitVec 16) (slot : Nat) (s : State) (n m : InputNo) (high : Bool) (h : m ≠ n) :
    (State.sampleIfIn levels slot s n).sampled m high = s.sampled m high := by
  have hi : (State.sampleIfIn levels slot s n).input m = s.input m := by
    unfold State.sampleIfIn
    split
    · simp [State.setInput_input, h]
    · rfl
  have hf := State.sampleIfIn_frame levels slot s n
  have hl : (State.sampleIfIn levels slot s n).lpt = s.lpt := by rw [hf]
  have hc : (State.sampleIfIn levels slot s n).cfg = s.cfg := by rw [State.cfg, hl, State.cfg]
  have hn : (State.sampleIfIn levels slot s n).startNow = s.startNow := by rw [hf]; rfl
  have hs : (State.sampleIfIn levels slot s n).stamp = s.stamp := by rw [hf]; rfl
  simp only [State.sampled, hi, State.inputCfg, State.qualCount, State.runStart, hc, hn, hs]
  rfl

/-- Sampling several inputs: each sampled once, the others left alone. -/
theorem foldSample_input (levels : BitVec 16) (slot : Nat) (ns : List InputNo) :
    ∀ (s : State) (m : InputNo), ns.Nodup →
      (ns.foldl (State.sampleIfIn levels slot) s).input m
        = if m ∈ ns ∧ s.cfg.samples slot m = true then s.sampled m (levels.getLsbD m.val) else s.input m := by
  induction ns with
  | nil => intro s m _; simp
  | cons n ns ih =>
    intro s m hd
    obtain ⟨hn, hd'⟩ := List.nodup_cons.mp hd
    have hc : (State.sampleIfIn levels slot s n).cfg = s.cfg := by
      rw [State.sampleIfIn_frame]; rfl
    rw [List.foldl_cons, ih _ _ hd', hc]
    by_cases hm : m = n
    · subst hm
      simp only [hn, false_and, if_false, List.mem_cons, true_or, true_and]
      unfold State.sampleIfIn
      split
      · simp [State.setInput_input]
      · rfl
    · have hi : (State.sampleIfIn levels slot s n).input m = s.input m := by
        unfold State.sampleIfIn
        split
        · simp [State.setInput_input, hm]
        · rfl
      simp only [List.mem_cons, hm, false_or, hi, sampled_congr levels slot s n m _ hm]

/-- A slot changes inputs, place and levels, and Attention and Lamps' end apart nothing else. -/
theorem State.sampleSlot_frame (s : State) (levels : BitVec 16) :
    s.sampleSlot levels = { s with
      isc := { inputs := (s.sampleSlot levels).isc.inputs
               slot := (s.isc.slot + 1) % s.cfg.cycle
               nextSlotAt := s.isc.nextSlotAt + 125 }
      pins := { s.pins with inputs := levels } } := by
  have key := foldSample_frame levels s.isc.slot allInputs s
  unfold State.sampleSlot
  dsimp only
  revert key
  generalize allInputs.foldl (State.sampleIfIn levels s.isc.slot) s = x
  intro key
  rw [key]
  rfl

/-- Each input after a slot: sampled if the slot samples it, else as it was. -/
theorem State.sampleSlot_input (s : State) (levels : BitVec 16) (n : InputNo) :
    (s.sampleSlot levels).input n
      = if s.cfg.samples s.isc.slot n = true then s.sampled n (levels.getLsbD n.val) else s.input n := by
  have hn : n ∈ allInputs := by revert n; decide
  have h := foldSample_input levels s.isc.slot allInputs s n (by decide)
  simp only [hn, true_and] at h
  rw [← h]
  unfold State.sampleSlot
  dsimp only
  generalize allInputs.foldl (State.sampleIfIn levels s.isc.slot) s = x
  rfl

end Sys2Proof.Machine
end

