-- ==== Sys2Proof/Laws/Keys.lean ====
section
/-! SUPPORT. Which keys `keysUpTo`, `crossedKeys` and `crossedAfter` give (R1, R141, R143, R151): those that meet their
conditions on the circle of days, in ascending order, and none left out but earlier ones past five. -/

namespace Sys2Proof.Machine

/-! ### Days and keys by their distance from a day -/

/-- How many days a day lies after another, round the circle. -/
def daysAfter (base d : Day) : Nat := (d - base).toNat

theorem daysAfter_lt (base d : Day) : daysAfter base d < 65536 := (d - base).isLt

/-- The difference of two days by their distances from a third. -/
theorem sub_toNat (base a b : Day) : (a - b).toNat = (daysAfter base a + 65536 - daysAfter base b) % 65536 := by
  have h : a - b = (a - base) - (b - base) := by
    apply BitVec.eq_of_toNat_eq
    simp only [BitVec.toNat_sub]
    have := a.isLt; have := b.isLt; have := base.isLt
    omega
  rw [h, BitVec.toNat_sub]
  have := (a - base).isLt; have := (b - base).isLt
  unfold daysAfter
  omega

theorem day_eq_iff (a b : Day) : (a == b) = true ↔ (a - b).toNat = 0 := by
  rw [beq_iff_eq]
  constructor
  · rintro rfl
    simp
  · intro h
    apply BitVec.eq_of_toNat_eq
    rw [BitVec.toNat_sub] at h
    have := a.isLt; have := b.isLt
    omega

/-- A key is later than k by its distance and its index. -/
theorem later_iff (x k : ShiftKey) :
    x.later k = true ↔
      (1 ≤ daysAfter k.day x.day ∧ daysAfter k.day x.day ≤ 32767) ∨ (daysAfter k.day x.day = 0 ∧ k.index < x.index) := by
  unfold ShiftKey.later dayLater daysAfter
  rw [Bool.or_eq_true, Bool.and_eq_true, Bool.and_eq_true, day_eq_iff]
  simp only [decide_eq_true_eq]

/-- A boundary is later than a date by the distances of both from a day. -/
theorem boundary_later_iff (plan : List Nat) (base : Day) (x : ShiftKey) (d : Date) :
    let e := (daysAfter base x.day + 65536 - daysAfter base d.day) % 65536
    (boundaryTime plan x).later d = true ↔
      (1 ≤ e ∧ e ≤ 32767) ∨ (e = 0 ∧ d.us < plan.getD x.index 0 * 60000000) := by
  unfold Date.later dayLater boundaryTime
  rw [Bool.or_eq_true, Bool.and_eq_true, Bool.and_eq_true, day_eq_iff, sub_toNat base]
  simp only [decide_eq_true_eq]

theorem date_later_iff (base : Day) (a b : Date) :
    let e := (daysAfter base a.day + 65536 - daysAfter base b.day) % 65536
    a.later b = true ↔ (1 ≤ e ∧ e ≤ 32767) ∨ (e = 0 ∧ b.us < a.us) := by
  unfold Date.later dayLater
  rw [Bool.or_eq_true, Bool.and_eq_true, Bool.and_eq_true, day_eq_iff, sub_toNat base]
  simp only [decide_eq_true_eq]

/-- A key lies at or before another, both taken from a day on. -/
def upTo (base : Day) (x y : ShiftKey) : Prop :=
  daysAfter base x.day < daysAfter base y.day ∨ (daysAfter base x.day = daysAfter base y.day ∧ x.index ≤ y.index)

theorem key_eq (base : Day) (x y : ShiftKey) (hd : daysAfter base x.day = daysAfter base y.day) (hi : x.index = y.index) :
    x = y := by
  cases x with
  | mk dx ix =>
    cases y with
    | mk dy iy =>
      simp only at hi
      subst hi
      have hz : (dx - dy).toNat = 0 := by
        rw [sub_toNat base]
        have := daysAfter_lt base dy
        simp only at hd
        omega
      have : dx = dy := by simpa using (day_eq_iff dx dy).mpr hz
      rw [this]

theorem daysAfter_prev (base d : Day) :
    daysAfter base (d - 1) = if daysAfter base d = 0 then 65535 else daysAfter base d - 1 := by
  unfold daysAfter
  have one : (1 : Day).toNat = 1 := rfl
  simp only [BitVec.toNat_sub, one]
  have := d.isLt; have := base.isLt
  split <;> omega

/-! ### The latest key at a date -/

/-- How many boundaries of a plan a time of day has come to. -/
def passedOf (us : Nat) (plan : List Nat) : Nat := (plan.filter fun m => decide (m * 60000000 ≤ us)).length

theorem passedOf_cons (us m : Nat) (ms : List Nat) :
    passedOf us (m :: ms) = if m * 60000000 ≤ us then passedOf us ms + 1 else passedOf us ms := by
  unfold passedOf
  rw [List.filter_cons]
  by_cases h : m * 60000000 ≤ us
  · rw [if_pos h, if_pos (decide_eq_true h), List.length_cons]
  · rw [if_neg h, if_neg (fun hd => h (of_decide_eq_true hd))]

/-- Of minutes after one whose boundary a time of day has not come to, none is passed. -/
theorem passedOf_none (us m : Nat) (hm : ¬ m * 60000000 ≤ us) : ∀ ms : List Nat, (∀ x ∈ ms, m < x) → passedOf us ms = 0
  | [], _ => rfl
  | x :: xs, h => by
    have hx : ¬ x * 60000000 ≤ us := fun hx => hm (Nat.le_trans (Nat.mul_le_mul_right _ (h x (List.mem_cons_self ..)).le) hx)
    rw [passedOf_cons, if_neg hx]
    exact passedOf_none us m hm xs fun y hy => h y (List.mem_cons_of_mem _ hy)

/-- A later minute of an ascending plan is a larger one. -/
theorem plan_mono : ∀ plan : List Nat, plan.Pairwise (· < ·) → ∀ i j, i ≤ j → j < plan.length → plan.getD i 0 ≤ plan.getD j 0
  | [], _, _, _, _, h => absurd h (Nat.not_lt_zero _)
  | m :: ms, hp, i, j, hij, hj => by
    rw [List.pairwise_cons] at hp
    cases i with
    | zero =>
      cases j with
      | zero => exact Nat.le_refl _
      | succ j =>
        have hj' : j < ms.length := Nat.lt_of_succ_lt_succ hj
        rw [List.getD_cons_zero, List.getD_cons_succ, List.getD_eq_getElem _ _ hj']
        exact (hp.1 _ (List.getElem_mem hj')).le
    | succ i =>
      cases j with
      | zero => exact absurd hij (Nat.not_succ_le_zero _)
      | succ j =>
        rw [List.getD_cons_succ, List.getD_cons_succ]
        exact plan_mono ms hp.2 i j (Nat.le_of_succ_le_succ hij) (Nat.lt_of_succ_lt_succ hj)

/-- Of ascending minutes, those whose boundary a time of day has come to are the first ones. -/
theorem passed_iff (us : Nat) : ∀ plan : List Nat, plan.Pairwise (· < ·) → ∀ i, i < plan.length →
    (i < passedOf us plan ↔ plan.getD i 0 * 60000000 ≤ us)
  | [], _, _, h => absurd h (Nat.not_lt_zero _)
  | m :: ms, hp, i, hi => by
    have mono := plan_mono (m :: ms) hp 0 i (Nat.zero_le _) hi
    rw [List.pairwise_cons] at hp
    rw [passedOf_cons]
    by_cases hm : m * 60000000 ≤ us
    · rw [if_pos hm]
      cases i with
      | zero => exact ⟨fun _ => hm, fun _ => Nat.succ_pos _⟩
      | succ i =>
        rw [List.getD_cons_succ, Nat.add_lt_add_iff_right]
        exact passed_iff us ms hp.2 i (Nat.lt_of_succ_lt_succ hi)
    · rw [if_neg hm, passedOf_none us m hm ms hp.1]
      exact ⟨fun h => absurd h (Nat.not_lt_zero _), fun h => absurd (Nat.le_trans (Nat.mul_le_mul_right _ mono) h) hm⟩

/-- How many boundaries of its day a date has come to. -/
def passedCount (plan : List Nat) (d : Date) : Nat := passedOf d.us plan

theorem passedCount_le (plan : List Nat) (d : Date) : passedCount plan d ≤ plan.length := List.length_filter_le _ _

theorem latestKeyAt_eq (plan : List Nat) (d : Date) :
    latestKeyAt plan d =
      if passedCount plan d = 0 then ⟨d.day - 1, plan.length - 1⟩ else ⟨d.day, passedCount plan d - 1⟩ := by
  unfold latestKeyAt passedCount passedOf
  split <;> rename_i h <;> simp [h]

/-! ### Keys going back -/

/-- A key lies before another, both taken from a day on. -/
def below (base : Day) (x y : ShiftKey) : Prop :=
  daysAfter base x.day < daysAfter base y.day ∨ (daysAfter base x.day = daysAfter base y.day ∧ x.index < y.index)

theorem prevKey_pos (base : Day) (plan : List Nat) (k : ShiftKey) :
    (k.index = 0 → (prevKey plan k).index = plan.length - 1
      ∧ daysAfter base (prevKey plan k).day = if daysAfter base k.day = 0 then 65535 else daysAfter base k.day - 1)
    ∧ (k.index ≠ 0 → (prevKey plan k).index = k.index - 1 ∧ daysAfter base (prevKey plan k).day = daysAfter base k.day) := by
  unfold prevKey
  constructor
  · intro h
    rw [if_pos h]
    exact ⟨rfl, daysAfter_prev base k.day⟩
  · intro h
    rw [if_neg h]
    exact ⟨rfl, rfl⟩

/-- Going back n keys from one: each lies at or before it, less than n days away, or the way went round past day 0. -/
theorem keysBack_pos (base : Day) (plan : List Nat) (L : 0 < plan.length) : ∀ n (k : ShiftKey), k.index < plan.length →
    ∀ y ∈ keysBack plan n k,
      y.index < plan.length
        ∧ ((daysAfter base k.day < daysAfter base y.day + n ∧ upTo base y k) ∨ 65536 ≤ daysAfter base y.day + n)
  | 0, _, _, y, hy => nomatch hy
  | n + 1, k, hk, y, hy => by
    obtain rfl | hy := List.mem_cons.mp hy
    · exact ⟨hk, .inl ⟨by omega, .inr ⟨rfl, Nat.le_refl _⟩⟩⟩
    · have pos := prevKey_pos base plan k
      have hp : (prevKey plan k).index < plan.length := by
        by_cases h : k.index = 0
        · rw [(pos.1 h).1]; omega
        · rw [(pos.2 h).1]; omega
      obtain ⟨hi, h⟩ := keysBack_pos base plan L n (prevKey plan k) hp y hy
      refine ⟨hi, ?_⟩
      unfold upTo at h ⊢
      by_cases hz : k.index = 0
      · obtain ⟨pi, pd⟩ := pos.1 hz
        rw [pi, pd] at h
        split at h <;> omega
      · obtain ⟨pi, pd⟩ := pos.2 hz
        rw [pi, pd] at h
        omega

/-- A key at or before another is among the n keys going back from it, or all of those lie after it. -/
theorem keysBack_complete (base : Day) (plan : List Nat) : ∀ n (k : ShiftKey), k.index < plan.length →
    ∀ x, x.index < plan.length → upTo base x k →
      x ∈ keysBack plan n k ∨ ∀ y ∈ keysBack plan n k, y.index < plan.length ∧ below base x y ∧ upTo base y k
  | 0, _, _, _, _, _ => .inr fun _ hy => nomatch hy
  | n + 1, k, hk, x, hx, hxk => by
    by_cases same : x = k
    · exact .inl (same ▸ List.mem_cons_self ..)
    · have strict : below base x k := by
        unfold below
        unfold upTo at hxk
        have := mt (key_eq base x k)
        by_cases hd : daysAfter base x.day = daysAfter base k.day
        · have : x.index ≠ k.index := fun hi => same (key_eq base x k hd hi)
          omega
        · omega
      have pos := prevKey_pos base plan k
      have next : (prevKey plan k).index < plan.length ∧ upTo base x (prevKey plan k) ∧ upTo base (prevKey plan k) k := by
        unfold below at strict
        unfold upTo
        by_cases hz : k.index = 0
        · obtain ⟨pi, pd⟩ := pos.1 hz
          rw [pi, pd]
          split <;> omega
        · obtain ⟨pi, pd⟩ := pos.2 hz
          rw [pi, pd]
          omega
      rcases keysBack_complete base plan n _ next.1 x hx next.2.1 with h | h
      · exact .inl (List.mem_cons_of_mem _ h)
      · refine .inr fun y hy => ?_
        obtain rfl | hy := List.mem_cons.mp hy
        · exact ⟨hk, strict, .inr ⟨rfl, Nat.le_refl _⟩⟩
        · obtain ⟨hi, hb, hu⟩ := h y hy
          refine ⟨hi, hb, ?_⟩
          have := next.2.2
          unfold upTo at *
          omega

theorem keysBack_length (plan : List Nat) : ∀ n k, (keysBack plan n k).length = n
  | 0, _ => rfl
  | n + 1, k => congrArg (· + 1) (keysBack_length plan n (prevKey plan k))

/-- Of the keys going back from one, those that are later than a base key descend. -/
theorem keysBack_descend (plan : List Nat) (L : 0 < plan.length) (base : ShiftKey) (q : ShiftKey → Bool)
    (hq : ∀ x, q x = true → x.later base = true) : ∀ n, n ≤ 32768 → ∀ k : ShiftKey, k.index < plan.length →
      ((keysBack plan n k).filter q).Pairwise fun x y => x.later y = true
  | 0, _, _, _ => .nil
  | n + 1, hn, k, hk => by
    have pos := prevKey_pos base.day plan k
    have hp : (prevKey plan k).index < plan.length := by
      by_cases h : k.index = 0
      · rw [(pos.1 h).1]; omega
      · rw [(pos.2 h).1]; omega
    have rest := keysBack_descend plan L base q hq n (by omega) (prevKey plan k) hp
    rw [keysBack, List.filter_cons]
    by_cases hk' : q k = true
    · rw [if_pos hk', List.pairwise_cons]
      refine ⟨fun y hy => ?_, rest⟩
      obtain ⟨hy, hqy⟩ := List.mem_filter.mp hy
      obtain ⟨_, h⟩ := keysBack_pos base.day plan L n _ hp y hy
      have hy' := (later_iff y base).mp (hq y hqy)
      have hk'' := (later_iff k base).mp (hq k hk')
      rw [later_iff]
      have e := sub_toNat base.day k.day y.day
      have e0 : daysAfter y.day k.day = (k.day - y.day).toNat := rfl
      unfold upTo at h
      by_cases hz : k.index = 0
      · obtain ⟨pi, pd⟩ := pos.1 hz
        rw [pi, pd] at h
        split at h <;> omega
      · obtain ⟨pi, pd⟩ := pos.2 hz
        rw [pi, pd] at h
        omega
    · rw [if_neg hk']
      exact rest

/-! ### The keys after one key and up to a date -/

/-- What `keysUpTo` filters by. -/
def countsUpTo (plan : List Nat) (new : Date) (k : ShiftKey) (p : ShiftKey → Bool) (x : ShiftKey) : Bool :=
  x.later k && !(boundaryTime plan x).later new && p x

theorem countsUpTo_iff (plan : List Nat) (new : Date) (k : ShiftKey) (p : ShiftKey → Bool) (x : ShiftKey) :
    countsUpTo plan new k p x = true ↔ x.later k = true ∧ (boundaryTime plan x).later new = false ∧ p x = true := by
  unfold countsUpTo
  simp only [Bool.and_eq_true, Bool.not_eq_true', and_assoc]

/-- A boundary is not later than a date, by distances from a day. -/
theorem boundary_not_later_iff (plan : List Nat) (asc : plan.Pairwise (· < ·)) (base : Day) (x : ShiftKey)
    (hx : x.index < plan.length) (d : Date) :
    let e := (daysAfter base x.day + 65536 - daysAfter base d.day) % 65536
    (boundaryTime plan x).later d = false ↔ 32768 ≤ e ∨ (e = 0 ∧ x.index < passedCount plan d) := by
  intro e
  have h := boundary_later_iff plan base x d
  have hp := passed_iff d.us plan asc x.index hx
  have he : e < 65536 := Nat.mod_lt _ (by omega)
  have he' : e = (daysAfter base x.day + 65536 - daysAfter base d.day) % 65536 := rfl
  unfold passedCount
  rw [hp, ← Bool.not_eq_true, not_congr h, ← he']
  clear h hp he'
  omega

/-- The latest later day lies 32,767 days on. -/
theorem halfCircle_days (k : ShiftKey) : daysAfter k.day (k.day + 32767) = 32767 := by
  unfold daysAfter
  have e : (32767 : Day).toNat = 32767 := rfl
  simp only [BitVec.toNat_sub, BitVec.toNat_add, e]
  have := k.day.isLt
  omega

/-- The key `keysUpTo` goes back from is the last of those it looks for, and with a key each one up to it lies between. -/
theorem latestKeyAfter_spec (plan : List Nat) (asc : plan.Pairwise (· < ·)) (L : 0 < plan.length) (k : ShiftKey)
    (hk : k.index < plan.length) (new : Date) :
    (latestKeyAfter plan k new).index < plan.length
      ∧ ∀ x : ShiftKey, x.index < plan.length → x.later k = true → (boundaryTime plan x).later new = false →
          upTo k.day x (latestKeyAfter plan k new)
            ∧ ∀ y : ShiftKey, y.index < plan.length → upTo k.day x y → upTo k.day y (latestKeyAfter plan k new) →
                y.later k = true ∧ (boundaryTime plan y).later new = false
                  ∧ daysAfter k.day x.day ≤ daysAfter k.day y.day ∧ daysAfter k.day y.day ≤ 32767 := by
  have count := passedCount_le plan new
  have top := halfCircle_days k
  have cEq := latestKeyAt_eq plan new
  have prev := daysAfter_prev k.day new.day
  have cLater := later_iff (latestKeyAt plan new) k
  have N := daysAfter_lt k.day new.day
  unfold latestKeyAfter
  have facts : ((latestKeyAt plan new).index < plan.length)
      ∧ ((passedCount plan new = 0 ∧ (latestKeyAt plan new).index = plan.length - 1
          ∧ daysAfter k.day (latestKeyAt plan new).day = if daysAfter k.day new.day = 0 then 65535 else daysAfter k.day new.day - 1)
        ∨ (0 < passedCount plan new ∧ (latestKeyAt plan new).index = passedCount plan new - 1
          ∧ daysAfter k.day (latestKeyAt plan new).day = daysAfter k.day new.day)) := by
    rw [cEq]
    by_cases h : passedCount plan new = 0
    · rw [if_pos h]
      exact ⟨by show plan.length - 1 < plan.length; omega, .inl ⟨h, rfl, prev⟩⟩
    · rw [if_neg h]
      exact ⟨by show passedCount plan new - 1 < plan.length; omega, .inr ⟨by omega, rfl, rfl⟩⟩
  clear cEq prev
  generalize latestKeyAt plan new = c at *
  obtain ⟨ci, facts⟩ := facts
  by_cases hc : c.later k = true
  · simp only [if_pos hc]
    have hc' := cLater.mp hc
    refine ⟨ci, fun x hx xk xn => ?_⟩
    have xk' := (later_iff x k).mp xk
    have xn' := (boundary_not_later_iff plan asc k.day x hx new).mp xn
    refine ⟨?_, fun y hy xy yt => ?_⟩
    · unfold upTo
      rcases facts with ⟨h0, h1, h2⟩ | ⟨h0, h1, h2⟩
      · split at h2 <;> omega
      · omega
    · unfold upTo at xy yt
      refine ⟨(later_iff y k).mpr ?_, (boundary_not_later_iff plan asc k.day y hy new).mpr ?_, ?_, ?_⟩ <;>
        rcases facts with ⟨h0, h1, h2⟩ | ⟨h0, h1, h2⟩ <;> (try split at h2) <;> omega
  · simp only [if_neg hc]
    have hc' := mt cLater.mpr hc
    refine ⟨by show plan.length - 1 < plan.length; omega, fun x hx xk xn => ?_⟩
    have xk' := (later_iff x k).mp xk
    have xn' := (boundary_not_later_iff plan asc k.day x hx new).mp xn
    refine ⟨?_, fun y hy xy yt => ?_⟩
    · unfold halfCircleOn upTo
      rw [top]
      show _ ∨ (_ ∧ x.index ≤ plan.length - 1)
      omega
    · unfold halfCircleOn upTo at yt
      unfold upTo at xy
      rw [top] at yt
      change _ ∨ (_ ∧ y.index ≤ plan.length - 1) at yt
      refine ⟨(later_iff y k).mpr ?_, (boundary_not_later_iff plan asc k.day y hy new).mpr ?_, ?_, ?_⟩ <;>
        rcases facts with ⟨h0, h1, h2⟩ | ⟨h0, h1, h2⟩ <;> (try split at h2) <;> omega

/-- What `keysTo` gives, for a condition that makes a key later than a base key and that holds from one key on up to the key
gone back from: keys in ascending order, five at most, and none that meets it left out but earlier ones past five. -/
theorem keysTo_spec (plan : List Nat) (L : 0 < plan.length) (k t : ShiftKey) (ti : t.index < plan.length) (p : ShiftKey → Bool)
    (later : ∀ x, p x = true → x.later k = true)
    (up : ∀ x : ShiftKey, x.index < plan.length → p x = true → upTo k.day x t ∧
      ∀ y : ShiftKey, y.index < plan.length → upTo k.day x y → upTo k.day y t → p y = true) :
    let l := keysTo plan 5 t p
    (l.Pairwise fun x y => y.later x = true) ∧ l.length ≤ 5
      ∧ ∀ x : ShiftKey, x.index < plan.length → p x = true → x ∈ l ∨ (l.length = 5 ∧ ∀ y ∈ l, y.later x = true) := by
  intro l
  have form : l = ((keysBack plan 5 t).filter p).reverse := rfl
  have size : l.length ≤ 5 := by
    rw [form, List.length_reverse]
    exact Nat.le_trans (List.length_filter_le _ _) (keysBack_length plan 5 t).le
  refine ⟨?_, size, fun x hx px => ?_⟩
  · rw [form, List.pairwise_reverse]
    exact keysBack_descend plan L k _ later 5 (by omega) t ti
  · obtain ⟨xt, between⟩ := up x hx px
    rcases keysBack_complete k.day plan 5 t ti x hx xt with h | h
    · exact .inl (form ▸ List.mem_reverse.mpr (List.mem_filter.mpr ⟨h, px⟩))
    · right
      have all : ∀ y ∈ keysBack plan 5 t, p y = true ∧ y.later x = true := by
        intro y hy
        obtain ⟨hi, hb, hu⟩ := h y hy
        have xy : upTo k.day x y := by
          unfold upTo
          unfold below at hb
          omega
        have py := between y hi xy hu
        refine ⟨py, ?_⟩
        have xk := (later_iff x k).mp (later x px)
        have yk := (later_iff y k).mp (later y py)
        rw [later_iff]
        have e := sub_toNat k.day y.day x.day
        have e0 : daysAfter x.day y.day = (y.day - x.day).toNat := rfl
        unfold below at hb
        omega
      have whole : (keysBack plan 5 t).filter p = keysBack plan 5 t := List.filter_eq_self.mpr fun y hy => (all y hy).1
      rw [whole] at form
      refine ⟨by rw [form, List.length_reverse, keysBack_length], fun y hy => ?_⟩
      rw [form, List.mem_reverse] at hy
      exact (all y hy).2

/-- What `keysUpTo` gives, for a further condition that holds from one key on up to the last: keys that count, in ascending
order, five at most, and none that counts left out but earlier ones past five. -/
theorem keysUpTo_spec (plan : List Nat) (asc : plan.Pairwise (· < ·)) (L : 0 < plan.length) (k : ShiftKey)
    (hk : k.index < plan.length) (new : Date) (p : ShiftKey → Bool)
    (up : ∀ x y : ShiftKey, x.index < plan.length → y.index < plan.length → p x = true → x.later k = true →
      (boundaryTime plan x).later new = false → (boundaryTime plan y).later new = false → upTo k.day x y →
      daysAfter k.day y.day ≤ 32767 → p y = true) :
    let l := keysUpTo plan new k p
    (l.Pairwise fun x y => y.later x = true) ∧ l.length ≤ 5
      ∧ ∀ x : ShiftKey, x.index < plan.length → countsUpTo plan new k p x = true →
          x ∈ l ∨ (l.length = 5 ∧ ∀ y ∈ l, y.later x = true) := by
  obtain ⟨ti, spec⟩ := latestKeyAfter_spec plan asc L k hk new
  refine keysTo_spec plan L k _ ti (countsUpTo plan new k p) (fun x h => ((countsUpTo_iff plan new k p x).mp h).1) fun x hx cx => ?_
  obtain ⟨xk, xn, xp⟩ := (countsUpTo_iff plan new k p x).mp cx
  obtain ⟨xt, between⟩ := spec x hx xk xn
  refine ⟨xt, fun y hy xy yt => ?_⟩
  obtain ⟨yk, yn, _, far⟩ := between y hy xy yt
  exact (countsUpTo_iff plan new k p y).mpr ⟨yk, yn, up x y hx hy xp xk xn yn xy far⟩

/-- Having its boundary after an earlier date passes on from one key to a later one, up to the new date. -/
theorem after_old_passes (plan : List Nat) (asc : plan.Pairwise (· < ·)) (base : Day) (old new : Date)
    (step : new.later old = true) (x y : ShiftKey) (hx : x.index < plan.length) (hy : y.index < plan.length)
    (xo : (boundaryTime plan x).later old = true) (xn : (boundaryTime plan x).later new = false)
    (yn : (boundaryTime plan y).later new = false) (xy : upTo base x y) (far : daysAfter base y.day ≤ 32767) :
    (boundaryTime plan y).later old = true := by
  have a := (boundary_later_iff plan base x old).mp xo
  have b := (boundary_not_later_iff plan asc base x hx new).mp xn
  have c := (boundary_not_later_iff plan asc base y hy new).mp yn
  have d := (date_later_iff base new old).mp step
  refine (boundary_later_iff plan base y old).mpr ?_
  have mono : x.index ≤ y.index → plan.getD x.index 0 * 60000000 ≤ plan.getD y.index 0 * 60000000 :=
    fun h => Nat.mul_le_mul_right _ (plan_mono plan asc x.index y.index h hy)
  have px := passed_iff new.us plan asc x.index hx
  have py := passed_iff new.us plan asc y.index hy
  unfold passedCount at b c
  unfold upTo at xy
  have O := daysAfter_lt base old.day
  have N := daysAfter_lt base new.day
  omega

/-! ### The keys that a step crosses -/

theorem crosses_iff (s : State) (last : ShiftKey) (old new : Date) (x : ShiftKey) :
    s.crosses last old new x = true ↔
      x.later last = true ∧ (boundaryTime s.cfg.boundaries x).later new = false
        ∧ (boundaryTime s.cfg.boundaries x).later old = true := by
  unfold State.crosses
  simp only [Bool.and_eq_true, Bool.not_eq_true', and_assoc]

/-- Crossing passes on from a key to the later ones up to the key the crossed keys are taken back from. -/
theorem crosses_up (s : State) (asc : s.cfg.boundaries.Pairwise (· < ·)) (L : 0 < s.cfg.boundaries.length) (last : ShiftKey)
    (hl : last.index < s.cfg.boundaries.length) (old new : Date) (step : new.later old = true) (x : ShiftKey)
    (hx : x.index < s.cfg.boundaries.length) (cx : s.crosses last old new x = true) :
    upTo last.day x (latestKeyAfter s.cfg.boundaries last new) ∧
      ∀ y : ShiftKey, y.index < s.cfg.boundaries.length → upTo last.day x y →
        upTo last.day y (latestKeyAfter s.cfg.boundaries last new) →
          s.crosses last old new y = true ∧ daysAfter last.day y.day ≤ 32767 := by
  obtain ⟨xk, xn, xo⟩ := (crosses_iff s last old new x).mp cx
  obtain ⟨xt, between⟩ := (latestKeyAfter_spec _ asc L last hl new).2 x hx xk xn
  refine ⟨xt, fun y hy xy yt => ?_⟩
  obtain ⟨yk, yn, _, far⟩ := between y hy xy yt
  exact ⟨(crosses_iff s last old new y).mpr
    ⟨yk, yn, after_old_passes _ asc last.day old new step x y hx hy xo xn yn xy far⟩, far⟩

/-- The keys that a step crosses: every one of them crosses. -/
theorem crossedKeys_sound (s : State) (last : ShiftKey) (old new : Date) :
    ∀ x ∈ s.crossedKeys last old new, s.crosses last old new x = true := by
  intro x hx
  unfold State.crossedKeys at hx
  split at hx
  · exact (List.mem_filter.mp (List.mem_reverse.mp hx)).2
  · cases hx

/-- The keys that a step crosses, ascending, five at most, none left out but earlier ones past five. -/
theorem crossedKeys_spec (s : State) (asc : s.cfg.boundaries.Pairwise (· < ·)) (L : 0 < s.cfg.boundaries.length)
    (last : ShiftKey) (hl : last.index < s.cfg.boundaries.length) (old new : Date) (step : new.later old = true) :
    let l := s.crossedKeys last old new
    (l.Pairwise fun x y => y.later x = true) ∧ l.length ≤ 5
      ∧ ∀ x : ShiftKey, x.index < s.cfg.boundaries.length → s.crosses last old new x = true →
          x ∈ l ∨ (l.length = 5 ∧ ∀ y ∈ l, y.later x = true) := by
  have form : s.crossedKeys last old new
      = keysTo s.cfg.boundaries 5 (latestKeyAfter s.cfg.boundaries last new) (s.crosses last old new) := if_pos step
  rw [form]
  refine keysTo_spec _ L last _ (latestKeyAfter_spec _ asc L last hl new).1 _
    (fun x h => ((crosses_iff s last old new x).mp h).1) fun x hx cx => ?_
  obtain ⟨xt, between⟩ := crosses_up s asc L last hl old new step x hx cx
  exact ⟨xt, fun y hy xy yt => (between y hy xy yt).1⟩

/-- The keys L of R151: every one of them crosses and is later than the last accepted one. -/
theorem crossedAfter_sound (s : State) (last : ShiftKey) (old new : Date) (accepted : Option ShiftKey) :
    ∀ x ∈ s.crossedAfter last old new accepted, s.crosses last old new x = true ∧ x.laterThan accepted = true := by
  intro x hx
  unfold State.crossedAfter at hx
  split at hx
  · exact (Bool.and_eq_true _ _ ▸ (List.mem_filter.mp (List.mem_reverse.mp hx)).2 :)
  · cases hx

/-- The keys L of R151, ascending, five at most, none left out but earlier ones past five. -/
theorem crossedAfter_spec (s : State) (asc : s.cfg.boundaries.Pairwise (· < ·)) (L : 0 < s.cfg.boundaries.length)
    (last : ShiftKey) (hl : last.index < s.cfg.boundaries.length) (old new : Date) (step : new.later old = true)
    (accepted : Option ShiftKey) :
    let l := s.crossedAfter last old new accepted
    (l.Pairwise fun x y => y.later x = true) ∧ l.length ≤ 5
      ∧ ∀ x : ShiftKey, x.index < s.cfg.boundaries.length → s.crosses last old new x = true → x.laterThan accepted = true →
          x ∈ l ∨ (l.length = 5 ∧ ∀ y ∈ l, y.later x = true) := by
  have form : s.crossedAfter last old new accepted
      = keysTo s.cfg.boundaries 5 (latestLaterThan s.cfg.boundaries (latestKeyAfter s.cfg.boundaries last new) accepted)
          (fun k => s.crosses last old new k && k.laterThan accepted) := if_pos step
  have both : ∀ x, (s.crosses last old new x && x.laterThan accepted) = true ↔
      s.crosses last old new x = true ∧ x.laterThan accepted = true := fun x => by rw [Bool.and_eq_true]
  have ti := (latestKeyAfter_spec _ asc L last hl new).1
  have crossUp := crosses_up s asc L last hl old new step
  rw [form]
  generalize latestKeyAfter s.cfg.boundaries last new = t at *
  suffices h : ((latestLaterThan s.cfg.boundaries t accepted).index < s.cfg.boundaries.length) ∧
      ∃ k : ShiftKey, (∀ x, (s.crosses last old new x && x.laterThan accepted) = true → x.later k = true) ∧
        ∀ x : ShiftKey, x.index < s.cfg.boundaries.length → (s.crosses last old new x && x.laterThan accepted) = true →
          upTo k.day x (latestLaterThan s.cfg.boundaries t accepted) ∧
            ∀ y : ShiftKey, y.index < s.cfg.boundaries.length → upTo k.day x y →
              upTo k.day y (latestLaterThan s.cfg.boundaries t accepted) →
                (s.crosses last old new y && y.laterThan accepted) = true by
    obtain ⟨hi, k, later, up⟩ := h
    obtain ⟨a, b, c⟩ := keysTo_spec s.cfg.boundaries L k _ hi _ later up
    exact ⟨a, b, fun x hx cx ax => c x hx ((both x).mpr ⟨cx, ax⟩)⟩
  cases accepted with
  | none =>
    refine ⟨ti, last, fun x h => ((crosses_iff s last old new x).mp ((both x).mp h).1).1, fun x hx cx => ?_⟩
    obtain ⟨xt, between⟩ := crossUp x hx ((both x).mp cx).1
    exact ⟨xt, fun y hy xy yt => (both y).mpr ⟨(between y hy xy yt).1, rfl⟩⟩
  | some a =>
    unfold latestLaterThan
    by_cases ta : t.later a = true
    · simp only [if_pos ta]
      refine ⟨ti, last, fun x h => ((crosses_iff s last old new x).mp ((both x).mp h).1).1, fun x hx cx => ?_⟩
      obtain ⟨cx, xa⟩ := (both x).mp cx
      obtain ⟨xt, between⟩ := crossUp x hx cx
      refine ⟨xt, fun y hy xy yt => ?_⟩
      obtain ⟨cy, far⟩ := between y hy xy yt
      refine (both y).mpr ⟨cy, (later_iff y a).mpr ?_⟩
      have tfar := (between t ti xt (.inr ⟨rfl, Nat.le_refl _⟩)).2
      have xa' := (later_iff x a).mp xa
      have ta' := (later_iff t a).mp ta
      have ex : daysAfter a.day x.day = _ := sub_toNat last.day x.day a.day
      have ey : daysAfter a.day y.day = _ := sub_toNat last.day y.day a.day
      have et : daysAfter a.day t.day = _ := sub_toNat last.day t.day a.day
      have := daysAfter_lt last.day a.day
      unfold upTo at xt xy yt
      omega
    · simp only [if_neg ta]
      have half := halfCircle_days a
      refine ⟨by show s.cfg.boundaries.length - 1 < s.cfg.boundaries.length; omega, a, fun x h => ((both x).mp h).2,
        fun x hx cx => ?_⟩
      obtain ⟨cx, xa⟩ := (both x).mp cx
      have xa' := (later_iff x a).mp xa
      obtain ⟨xt, between⟩ := crossUp x hx cx
      refine ⟨?_, fun y hy xy yt => ?_⟩
      · unfold halfCircleOn upTo
        rw [half]
        show _ ∨ (_ ∧ x.index ≤ s.cfg.boundaries.length - 1)
        omega
      · unfold halfCircleOn upTo at yt
        rw [half] at yt
        change _ ∨ (_ ∧ y.index ≤ s.cfg.boundaries.length - 1) at yt
        have tfar := (between t ti xt (.inr ⟨rfl, Nat.le_refl _⟩)).2
        have ta' := mt (later_iff t a).mpr ta
        have ex : daysAfter a.day x.day = _ := sub_toNat last.day x.day a.day
        have ey : daysAfter a.day y.day = _ := sub_toNat last.day y.day a.day
        have et : daysAfter a.day t.day = _ := sub_toNat last.day t.day a.day
        have ax := daysAfter_lt last.day a.day
        have lx := daysAfter_lt last.day x.day
        have ly := daysAfter_lt last.day y.day
        have lt := daysAfter_lt last.day t.day
        have ya : y.later a = true := by
          rw [later_iff]
          unfold upTo at xy
          omega
        have order : upTo last.day x y ∧ upTo last.day y t := by
          unfold upTo at *
          omega
        exact (both y).mpr ⟨(between y hy order.1 order.2).1, ya⟩

end Sys2Proof.Machine
end

