-- ==== Sys2Proof/Laws/Lamps.lean ====
section
/-! SUPPORT. What a command does to the lamps (R183): up to its end the shared operations leave them as they are, and `exec_lamps`
says once which lamps the end of a command finds. -/

namespace Sys2Proof.Machine

/-- The lamps do not depend on flags, outputs and the flash. -/
@[simp] theorem Atl.lamp_mk (a : Atl) (f : BitVec 16) (x y : Bool) (t : Option Nat) :
    Atl.lamp ⟨f, x, y, a.lamp0, a.lamp1, a.lamp2, a.lamp3, t⟩ = a.lamp := by
  funext l
  cases l <;> rfl

/-- After a reset every lamp is off. -/
theorem Atl.initial_lamp (now : Nat) (l : Lamp) : (Atl.initial now).lamp l = ⟨.off, false, now⟩ := by cases l <;> rfl

/-- A lamp replaced shows what it was given. -/
theorem Atl.setLamp_same (a : Atl) (l : Lamp) (v : LampState) : (a.setLamp l v).lamp l = v := by cases l <;> rfl

/-- A lamp replaced leaves the others. -/
theorem Atl.setLamp_other (a : Atl) {l k : Lamp} (v : LampState) (other : k ≠ l) : (a.setLamp l v).lamp k = a.lamp k := by
  cases l <;> cases k <;> first | rfl | exact absurd rfl other

/-- A lamp that is lit as its pattern has it is so when it takes a pattern. -/
theorem LampState.take_litByPattern {l : LampState} (p : LampPattern) (now : Nat) (h : l.litByPattern) :
    (l.take p now).litByPattern := by
  unfold LampState.take
  split
  · exact h
  · cases p <;> simp [LampState.litByPattern, LampPattern.startsLit]

/-- The end of a command lets each lamp take the pattern that the state selects, now. -/
theorem State.finish_lamp (s : State) (h : s.working = true) :
    s.finish.atl.lamp0 = s.atl.lamp0.take (lamp0Pattern s) s.time.elapsed
      ∧ s.finish.atl.lamp1 = s.atl.lamp1.take (lamp1Pattern s) s.time.elapsed
      ∧ s.finish.atl.lamp2 = s.atl.lamp2.take (lamp2Pattern s) s.time.elapsed
      ∧ s.finish.atl.lamp3 = s.atl.lamp3.take (lamp3Pattern s s.finish.atl.flags) s.time.elapsed := by
  simp [State.finish, h, State.atlShown]

/-! ### Flags, records, results and frames -/

@[simp] theorem State.setFlag_lamps (s : State) (f : Source) : (s.setFlag f).atl.lamp = s.atl.lamp := rfl

@[simp] theorem State.request_lamps (s : State) (kind : RecordKind) (stamp : Stamp) (a : Nat) (b : BitVec 32) :
    (s.request kind stamp a b).atl.lamp = s.atl.lamp := rfl

@[simp] theorem State.requestNow_lamps (s : State) (kind : RecordKind) (a : Nat) (b : BitVec 32) :
    (s.requestNow kind a b).atl.lamp = s.atl.lamp := rfl

@[simp] theorem State.giveResult_lamps (s : State) (k : ShiftKey) (r : Result) : (s.giveResult k r).atl.lamp = s.atl.lamp := by
  unfold State.giveResult
  split <;> simp

@[simp] theorem State.reportFrame_lamps (s : State) (k : ShiftKey) (own : OwnFrame) :
    (s.reportFrame k own).atl.lamp = s.atl.lamp := by
  unfold State.reportFrame
  (repeat' split) <;> simp

@[simp] theorem State.sendFailed_lamps (s : State) (c : FrameContent) (displaced : Bool) :
    (s.sendFailed c displaced).atl.lamp = s.atl.lamp := rfl

@[simp] theorem State.displaced_lamps (s : State) (c : FrameContent) : (s.displaced c).atl.lamp = s.atl.lamp := by
  unfold State.displaced
  split <;> simp

@[simp] theorem State.queueByDisplacing_lamps (s : State) (c : FrameContent) :
    (s.queueByDisplacing c).1.atl.lamp = s.atl.lamp := by
  unfold State.queueByDisplacing
  dsimp only
  (repeat' split) <;> simp

@[simp] theorem State.queueFrame_lamps (s : State) (c : FrameContent) : (s.queueFrame c).1.atl.lamp = s.atl.lamp := by
  unfold State.queueFrame
  (repeat' split) <;> simp

@[simp] theorem State.reportEnd_lamps (s : State) (c : FrameContent) (own : OwnFrame) :
    (s.reportEnd c own).atl.lamp = s.atl.lamp := by
  unfold State.reportEnd
  split <;> simp

@[simp] theorem State.withdrawSent_lamps (s : State) (c : FrameContent) :
    (s.withdrawSent c).atl.lamp = s.atl.lamp := by simp [State.withdrawSent]

@[simp] theorem State.breakOffSend_lamps (s : State) : s.breakOffSend.atl.lamp = s.atl.lamp := by
  unfold State.breakOffSend
  (repeat' split) <;> simp

@[simp] theorem State.sendTally_lamps (s : State) (k : ShiftKey) (v : TallyValues) : (s.sendTally k v).atl.lamp = s.atl.lamp := by
  unfold State.sendTally
  dsimp only
  (repeat' split) <;> simp

/-! ### The Run Unit and cascades -/

@[simp] theorem State.closeUnitShift_lamps (s : State) (c : CloseKey) :
    (s.closeUnitShift c).atl.lamp = s.atl.lamp := by simp [State.closeUnitShift]

@[simp] theorem State.closeOrder_lamps (s : State) (keys : List CloseKey) : (s.closeOrder keys).atl.lamp = s.atl.lamp := by
  suffices ∀ (l : List CloseKey) (s : State), (l.foldl State.closeUnitShift s).atl.lamp = s.atl.lamp from this _ s
  intro l
  induction l with
  | nil => exact fun _ => rfl
  | cons x l ih => intro s; rw [List.foldl_cons, ih]; simp

@[simp] theorem State.recordStop_lamps (s : State) (date : Stamp) (trip : Option (NodeNo × InputNo)) (f : StopFlags) (ms : Nat) :
    (s.recordStop date trip f ms).atl.lamp = s.atl.lamp := rfl

@[simp] theorem State.classify_lamps (s : State) (stop : Stop) (trip : Option (NodeNo × InputNo)) (f : StopFlags) :
    (s.classify stop trip f).atl.lamp = s.atl.lamp := rfl

@[simp] theorem State.recordRun_lamps (s : State) (date : Stamp) (new : RunState) (speedDoubt : Bool) :
    (s.recordRun date new speedDoubt).atl.lamp = s.atl.lamp := rfl

@[simp] theorem State.breakerCloses_lamps (s : State) (date : Stamp) : (s.breakerCloses date).atl.lamp = s.atl.lamp := by
  unfold State.breakerCloses
  (repeat' split) <;> simp

@[simp] theorem State.breakerOpens_lamps (s : State) (date : Stamp) : (s.breakerOpens date).atl.lamp = s.atl.lamp := by
  unfold State.breakerOpens
  split <;> simp

@[simp] theorem State.breakerLevel_lamps (s : State) (closed : Bool) (date : Stamp) :
    (s.breakerLevel closed date).atl.lamp = s.atl.lamp := by
  unfold State.breakerLevel
  split <;> simp

@[simp] theorem State.speedHanded_lamps (s : State) : s.speedHanded.atl.lamp = s.atl.lamp := by
  unfold State.speedHanded
  dsimp only
  (repeat' split) <;> simp

@[simp] theorem State.closeOut_lamps (s : State) (reset : Bool) : (s.closeOut reset).atl.lamp = s.atl.lamp := by
  unfold State.closeOut
  (repeat' split) <;> simp

@[simp] theorem State.localMember_lamps (s : State) (input : InputNo) (active : Bool) (change : Stamp) :
    (s.localMember input active change).atl.lamp = s.atl.lamp := by simp [State.localMember]

@[simp] theorem State.closeNotice_lamps (s : State) (c : Cascade) : (s.closeNotice c).atl.lamp = s.atl.lamp := by
  unfold State.closeNotice
  (repeat' split) <;> simp

@[simp] theorem State.closeCascade_lamps (s : State) (c : Cascade) : (s.closeCascade c).atl.lamp = s.atl.lamp := by
  unfold State.closeCascade
  dsimp only
  (repeat' split) <;> simp

@[simp] theorem State.decideStop_lamps (s : State) (stop : Stop) : (s.decideStop stop).atl.lamp = s.atl.lamp := by
  unfold State.decideStop
  dsimp only
  (repeat' split) <;> simp

/-! ### The Shift Unit -/

@[simp] theorem State.enterDue_lamps (s : State) (k : ShiftKey) (grace : Int) : (s.enterDue k grace).atl.lamp = s.atl.lamp := rfl

@[simp] theorem State.enterOverdue_lamps (s : State) (k : ShiftKey) (grace : Int) :
    (s.enterOverdue k grace).atl.lamp = s.atl.lamp := rfl

@[simp] theorem State.recordHandover_lamps (s : State) (date : Stamp) (outcome : HandoverOutcome) (elsewhere concurrent : Bool) (k : ShiftKey) :
    (s.recordHandover date outcome elsewhere concurrent k).atl.lamp = s.atl.lamp := rfl

@[simp] theorem State.closeWithFrame_lamps (s : State) (k : ShiftKey) (outcome : HandoverOutcome) (completion : Stamp) :
    (s.closeWithFrame k outcome completion).atl.lamp = s.atl.lamp := by simp [State.closeWithFrame]

@[simp] theorem State.closeWithoutFrame_lamps (s : State) (k : ShiftKey) :
    (s.closeWithoutFrame k).atl.lamp = s.atl.lamp := by simp [State.closeWithoutFrame]

@[simp] theorem State.recordUnpaired_lamps (s : State) (p : HeldPress) : (s.recordUnpaired p).atl.lamp = s.atl.lamp := rfl

@[simp] theorem State.dropHeld_lamps (s : State) : s.dropHeld.atl.lamp = s.atl.lamp := by
  unfold State.dropHeld
  split <;> simp

@[simp] theorem State.missTarget_lamps (s : State) (t : ShiftKey) :
    (s.missTarget t).atl.lamp = s.atl.lamp := by simp [State.missTarget]

@[simp] theorem State.missIfDue_lamps (s : State) : s.missIfDue.atl.lamp = s.atl.lamp := by
  unfold State.missIfDue
  split <;> simp

@[simp] theorem State.takeReached_lamps (s : State) (k : ShiftKey) : (s.takeReached k).atl.lamp = s.atl.lamp := by
  unfold State.takeReached
  split <;> simp

@[simp] theorem State.boundaryReached_lamps (s : State) (k : ShiftKey) : (s.boundaryReached k).atl.lamp = s.atl.lamp := by
  unfold State.boundaryReached
  dsimp only
  (repeat' split) <;> simp

@[simp] theorem State.keepHeldFor_lamps (s : State) (held : Option HeldPress) (target : Option ShiftKey) :
    (s.keepHeldFor held target).atl.lamp = s.atl.lamp := by
  unfold State.keepHeldFor
  (repeat' split) <;> simp

@[simp] theorem State.targetLast_lamps (s : State) (k : ShiftKey) : (s.targetLast k).atl.lamp = s.atl.lamp := by
  unfold State.targetLast
  dsimp only
  (repeat' split) <;> simp

@[simp] theorem State.handleKeys_lamps (s : State) (l : List ShiftKey) : (s.handleKeys l).atl.lamp = s.atl.lamp := by
  have missed (l : List ShiftKey) : ∀ t : State, (l.foldl State.closeWithoutFrame t).atl.lamp = t.atl.lamp := by
    induction l with
    | nil => exact fun _ => rfl
    | cons x l ih => intro t; rw [List.foldl_cons, ih]; simp
  unfold State.handleKeys
  split <;> simp [missed]

@[simp] theorem State.stepAtPost_lamps (s : State) (last : ShiftKey) (old new : Date) :
    (s.stepAtPost last old new).atl.lamp = s.atl.lamp := by simp [State.stepAtPost]

@[simp] theorem State.takeCrossed_lamps (s : State) (last : ShiftKey) (old new : Date) :
    (s.takeCrossed last old new).atl.lamp = s.atl.lamp := by
  unfold State.takeCrossed
  dsimp only
  (repeat' split) <;> simp

@[simp] theorem State.reportStep_lamps (s : State) (old new : Date) : (s.reportStep old new).atl.lamp = s.atl.lamp := by
  unfold State.reportStep
  (repeat' split) <;> simp

@[simp] theorem State.catchUp_lamps (s : State) : s.catchUp.atl.lamp = s.atl.lamp := by
  unfold State.catchUp
  split <;> simp

@[simp] theorem State.postAtOpen_lamps (s : State) : s.postAtOpen.atl.lamp = s.atl.lamp := by
  unfold State.postAtOpen
  (repeat' split) <;> simp

@[simp] theorem State.openShift_lamps (s : State) : s.openShift.atl.lamp = s.atl.lamp := by
  unfold State.openShift
  dsimp only
  (repeat' split) <;> simp

@[simp] theorem State.acceptHandover_lamps (s : State) (target : ShiftKey) (outcome : HandoverOutcome) (second : Stamp) :
    (s.acceptHandover target outcome second).atl.lamp = s.atl.lamp := by simp [State.acceptHandover]

@[simp] theorem State.press_lamps (s : State) (key : PressKey) (stamp : Stamp) : (s.press key stamp).atl.lamp = s.atl.lamp := by
  unfold State.press
  (repeat' split) <;> simp

@[simp] theorem State.acceptedElsewhere_lamps (s : State) (sender : NodeNo) (k : ShiftKey) (outcome : HandoverOutcome) (completion : Stamp) (due : BitVec 16) :
    (s.acceptedElsewhere sender k outcome completion due).atl.lamp = s.atl.lamp := by simp [State.acceptedElsewhere]

@[simp] theorem State.concurrentHandover_lamps (s : State) (sender : NodeNo) (k : ShiftKey) (outcome : HandoverOutcome) (completion : Stamp) (due : BitVec 16) :
    (s.concurrentHandover sender k outcome completion due).atl.lamp = s.atl.lamp := by
  unfold State.concurrentHandover
  (repeat' split) <;> simp

@[simp] theorem State.postHandover_lamps (s : State) (sender : NodeNo) (quality : ClockState) (body : List Byte) :
    (s.postHandover sender quality body).atl.lamp = s.atl.lamp := by
  unfold State.postHandover
  (repeat' split) <;> simp

@[simp] theorem State.endGathering_lamps (s : State) (k : ShiftKey) (r : StationRecord) :
    (s.endGathering k r).atl.lamp = s.atl.lamp := rfl

@[simp] theorem State.recordStep_lamps (s : State) (old new : Date) (cause : StepCause) :
    (s.recordStep old new cause).atl.lamp = s.atl.lamp := rfl

/-! ### The Clock Unit -/

@[simp] theorem State.stepClock_lamps (s : State) (new : Date) (cause : StepCause) :
    (s.stepClock new cause).atl.lamp = s.atl.lamp := by simp [State.stepClock]

@[simp] theorem State.changeState_lamps (s : State) (new : ClockState) (cause : StateCause) :
    (s.changeState new cause).atl.lamp = s.atl.lamp := rfl

@[simp] theorem State.lockReference_lamps (s : State) : s.lockReference.atl.lamp = s.atl.lamp := by
  unfold State.lockReference
  split <;> simp

@[simp] theorem State.stepAndLock_lamps (s : State) (new : Date) (cause : StepCause) :
    (s.stepAndLock new cause).atl.lamp = s.atl.lamp := by
  unfold State.stepAndLock
  split <;> simp

@[simp] theorem State.coarseSet_lamps (s : State) (f : ForeignMark) :
    (s.coarseSet f).atl.lamp = s.atl.lamp := by simp [State.coarseSet]

@[simp] theorem State.timeTest_lamps (s : State) (sender : NodeNo) (m : MarkBody) :
    (s.timeTest sender m).atl.lamp = s.atl.lamp := by
  unfold State.timeTest
  (repeat' split) <;> simp

@[simp] theorem State.markDelivered_lamps (s : State) (sender : NodeNo) (start : Start) (body : List Byte) :
    (s.markDelivered sender start body).atl.lamp = s.atl.lamp := by
  unfold State.markDelivered
  dsimp only
  (repeat' split) <;> simp

@[simp] theorem State.formationClose_lamps (s : State) (r : Round) : (s.formationClose r).atl.lamp = s.atl.lamp := by
  unfold State.formationClose
  dsimp only
  (repeat' split) <;> simp

@[simp] theorem State.joiningFull_lamps (s : State) (c : Int) : (s.joiningFull c).1.atl.lamp = s.atl.lamp := by
  unfold State.joiningFull
  dsimp only
  (repeat' split) <;> simp

@[simp] theorem State.splitTest_lamps (s : State) (r : Round) : (s.splitTest r).atl.lamp = s.atl.lamp := by
  unfold State.splitTest
  dsimp only
  (repeat' split) <;> simp

@[simp] theorem State.splitClose_lamps (s : State) : s.splitClose.1.atl.lamp = s.atl.lamp := by
  unfold State.splitClose
  split <;> simp

@[simp] theorem State.agreedShort_lamps (s : State) : s.agreedShort.atl.lamp = s.atl.lamp := by
  unfold State.agreedShort
  dsimp only
  (repeat' split) <;> simp

@[simp] theorem State.agreedFull_lamps (s : State) (c : Int) : (s.agreedFull c).1.atl.lamp = s.atl.lamp := by
  unfold State.agreedFull
  dsimp only
  (repeat' split) <;> simp

@[simp] theorem State.holdoverFull_lamps (s : State) (c : Int) : (s.holdoverFull c).1.atl.lamp = s.atl.lamp := by
  unfold State.holdoverFull
  split <;> simp

@[simp] theorem State.agreedClose_lamps (s : State) (r : Round) (v : CloseValues) :
    (s.agreedClose r v).1.atl.lamp = s.atl.lamp := by
  unfold State.agreedClose
  dsimp only
  (repeat' split) <;> simp

@[simp] theorem State.closeTransition_lamps (s : State) (r : Round) (v : CloseValues) :
    (s.closeTransition r v).1.atl.lamp = s.atl.lamp := by
  unfold State.closeTransition
  (repeat' split) <;> simp

@[simp] theorem State.closeRound_lamps (s : State) (r : Round) :
    (s.closeRound r).atl.lamp = s.atl.lamp := by simp [State.closeRound]

@[simp] theorem State.discipline_lamps (s : State) : s.discipline.atl.lamp = s.atl.lamp := by
  unfold State.discipline
  dsimp only
  (repeat' split) <;> simp

@[simp] theorem State.goodInterval_lamps (s : State) : s.goodInterval.atl.lamp = s.atl.lamp := by
  unfold State.goodInterval
  dsimp only
  (repeat' split) <;> simp

@[simp] theorem State.loseReference_lamps (s : State) : s.loseReference.atl.lamp = s.atl.lamp := by
  unfold State.loseReference
  split <;> simp

@[simp] theorem State.badInterval_lamps (s : State) : s.badInterval.atl.lamp = s.atl.lamp := by
  unfold State.badInterval
  (repeat' split) <;> simp

@[simp] theorem State.referenceEdge_lamps (s : State) : s.referenceEdge.atl.lamp = s.atl.lamp := by
  unfold State.referenceEdge
  dsimp only
  (repeat' split) <;> simp

@[simp] theorem State.referenceSilence_lamps (s : State) :
    s.referenceSilence.atl.lamp = s.atl.lamp := by simp [State.referenceSilence]

@[simp] theorem State.beginSecond_lamps (s : State) : s.beginSecond.atl.lamp = s.atl.lamp := rfl

/-! ### The line -/

@[simp] theorem State.startSeen_lamps (s : State) : s.startSeen.atl.lamp = s.atl.lamp := rfl

@[simp] theorem State.unheardFrame_lamps (s : State) (f : QueuedFrame) : (s.unheardFrame f).atl.lamp = s.atl.lamp := by
  unfold State.unheardFrame
  (repeat' split) <;> simp

@[simp] theorem State.endAttempt_lamps (s : State) (start : Start) (f : QueuedFrame) (heard : Bool) :
    (s.endAttempt start f heard).atl.lamp = s.atl.lamp := by
  unfold State.endAttempt
  (repeat' split) <;> simp

@[simp] theorem State.deliver_lamps (s : State) (kind : FrameKind) (sender : NodeNo) (start : Start) (body : List Byte) :
    (s.deliver kind sender start body).atl.lamp = s.atl.lamp := by
  unfold State.deliver
  dsimp only
  (repeat' split) <;> simp

@[simp] theorem State.flashLine_lamps (s : State) : s.flashLine.atl.lamp = s.atl.lamp := rfl

@[simp] theorem State.receiveIntact_lamps (s : State) (header : Byte) (body : List Byte) :
    (s.receiveIntact header body).atl.lamp = s.atl.lamp := by
  unfold State.receiveIntact
  (repeat' split) <;> simp

@[simp] theorem State.breakOwnFrame_lamps (s : State) (high : Nat) :
    (s.breakOwnFrame high).atl.lamp = s.atl.lamp := by simp [State.breakOwnFrame]

@[simp] theorem State.enterStuck_lamps (s : State) (matched : Bool) : (s.enterStuck matched).atl.lamp = s.atl.lamp := by
  unfold State.enterStuck
  dsimp only
  (repeat' split) <;> simp

@[simp] theorem State.sampleIfIn_lamps (levels : BitVec 16) (slot : Nat) (s : State) (n : InputNo) :
    (State.sampleIfIn levels slot s n).atl.lamp = s.atl.lamp := by
  unfold State.sampleIfIn
  split <;> simp

@[simp] theorem State.sampleSlot_lamps (s : State) (levels : BitVec 16) : (s.sampleSlot levels).atl.lamp = s.atl.lamp := by
  have sampled (l : List InputNo) (x : Nat) : ∀ t : State, (l.foldl (State.sampleIfIn levels x) t).atl.lamp = t.atl.lamp := by
    induction l with
    | nil => exact fun _ => rfl
    | cons n l ih => intro t; rw [List.foldl_cons, ih]; simp
  simp [State.sampleSlot, sampled]

/-! ### Inputs and speed -/

@[simp] theorem State.firstSampled_lamps (s : State) (n : InputNo) (level : Bool) (stamp : Stamp) :
    (s.firstSampled n level stamp).atl.lamp = s.atl.lamp := by
  unfold State.firstSampled
  split <;> simp

@[simp] theorem State.handByRole_lamps (s : State) (n : InputNo) (level : Bool) (change : Stamp) :
    (s.handByRole n level change).atl.lamp = s.atl.lamp := by
  unfold State.handByRole
  split <;> simp

@[simp] theorem State.recordChange_lamps (s : State) (n : InputNo) (level : Bool) (change : Stamp) :
    (s.recordChange n level change).atl.lamp = s.atl.lamp := by
  unfold State.recordChange
  (repeat' split) <;> simp

@[simp] theorem State.handOn_lamps (s : State) (n : InputNo) (level : Bool) (change : Stamp) :
    (s.handOn n level change).atl.lamp = s.atl.lamp := by simp [State.handOn]

@[simp] theorem State.lockInput_lamps (s : State) (n : InputNo) (level : Bool) (change : Stamp) (expiry : Nat) :
    (s.lockInput n level change expiry).atl.lamp = s.atl.lamp := rfl

@[simp] theorem State.qualified_lamps (s : State) (n : InputNo) (level : Bool) (first : Start) :
    (s.qualified n level first).atl.lamp = s.atl.lamp := by
  unfold State.qualified
  dsimp only
  (repeat' split) <;> simp

@[simp] theorem State.release_lamps (s : State) (n : InputNo) (suppressed : BitVec 16) (last : Option Stamp) :
    (s.release n suppressed last).atl.lamp = s.atl.lamp := by
  unfold State.release
  dsimp only
  (repeat' split) <;> simp

@[simp] theorem State.windowCloses_lamps (s : State) (n : InputNo) : (s.windowCloses n).atl.lamp = s.atl.lamp := by
  unfold State.windowCloses
  split <;> simp

@[simp] theorem State.phaseEdge_lamps (s : State) : s.phaseEdge.atl.lamp = s.atl.lamp := by
  unfold State.phaseEdge
  (repeat' split) <;> simp

@[simp] theorem State.acceptEdge_lamps (s : State) : s.acceptEdge.atl.lamp = s.atl.lamp := by simp [State.acceptEdge]

@[simp] theorem State.declareSilence_lamps (s : State) : s.declareSilence.atl.lamp = s.atl.lamp := by
  unfold State.declareSilence
  split <;> simp

@[simp] theorem State.beginSpeedSilent_lamps (s : State) : s.beginSpeedSilent.atl.lamp = s.atl.lamp := rfl

/-! ### OPEN, supplies, the store check -/

@[simp] theorem State.openNodeState_lamps (s : State) : s.openNodeState.atl.lamp = s.atl.lamp := rfl

@[simp] theorem State.openClock_lamps (s : State) : s.openClock.atl.lamp = s.atl.lamp := rfl

@[simp] theorem State.recordOpened_lamps (s : State) : s.recordOpened.atl.lamp = s.atl.lamp := rfl

@[simp] theorem State.startSweep_lamps (s : State) : s.startSweep.atl.lamp = s.atl.lamp := rfl

@[simp] theorem State.startRun_lamps (s : State) : s.startRun.atl.lamp = s.atl.lamp := rfl

@[simp] theorem State.startChecks_lamps (s : State) : s.startChecks.atl.lamp = s.atl.lamp := rfl

@[simp] theorem State.openTo_lamps (s : State) (n : Nat) : (s.openTo n).atl.lamp = s.atl.lamp := by
  refine State.openTo_keeps (fun t => t.atl.lamp = s.atl.lamp) (fun step h t kept => ?_) s rfl n
  simp only [openStepList, List.mem_cons, List.not_mem_nil, or_false] at h
  rcases h with rfl | rfl | rfl | rfl | rfl | rfl | rfl | rfl <;> simp [kept]

@[simp] theorem State.openSteps_lamps (s : State) : s.openSteps.atl.lamp = s.atl.lamp := by simp [State.openSteps]

@[simp] theorem State.midOpen_lamps (s : State) (reached : Option Nat) : (s.midOpen reached).atl.lamp = s.atl.lamp := by
  unfold State.midOpen
  (repeat' split) <;> simp

@[simp] theorem State.lossTreatment_lamps (s : State) : s.lossTreatment.atl.lamp = s.atl.lamp := by simp [State.lossTreatment]

@[simp] theorem State.backToKeepAlive_lamps (s : State) : s.backToKeepAlive.atl.lamp = s.atl.lamp := rfl

@[simp] theorem State.reportFailure_lamps (s : State) (area : StoreArea) (index : Nat) :
    (s.reportFailure area index).atl.lamp = s.atl.lamp := rfl

@[simp] theorem State.takeFailure_lamps (s : State) (area : StoreArea) (reported : Bool) :
    (s.takeFailure area reported).atl.lamp = s.atl.lamp := by
  unfold State.takeFailure
  split <;> simp

@[simp] theorem State.testTally_lamps (s : State) : s.testTally.atl.lamp = s.atl.lamp := by
  unfold State.testTally State.when
  split <;> simp

@[simp] theorem State.testBaseline_lamps (s : State) : s.testBaseline.atl.lamp = s.atl.lamp := by
  unfold State.testBaseline State.when
  split <;> simp

@[simp] theorem State.testUnitShift_lamps (s : State) (p : Nat) : (s.testUnitShift p).atl.lamp = s.atl.lamp := by
  unfold State.testUnitShift
  (repeat' split) <;> simp

@[simp] theorem State.testEvent_lamps (s : State) (p : Nat) : (s.testEvent p).atl.lamp = s.atl.lamp := by
  unfold State.testEvent
  (repeat' split) <;> simp

@[simp] theorem State.testAt_lamps (s : State) (c : Cursor) : (s.testAt c).atl.lamp = s.atl.lamp := by
  unfold State.testAt
  split <;> simp

@[simp] theorem State.beginPass_lamps (s : State) : s.beginPass.atl.lamp = s.atl.lamp := rfl

@[simp] theorem State.testStep_lamps (s : State) (c : Cursor) : (s.testStep c).atl.lamp = s.atl.lamp := by simp [State.testStep]

@[simp] theorem State.takeFinding_lamps (s : State) (finding : Option (StoreArea × Bool)) :
    (s.takeFinding finding).atl.lamp = s.atl.lamp := by
  unfold State.takeFinding
  split <;> simp

/-! ### The Local Port -/

@[simp] theorem State.done_lamps (s : State) (c : CommandCode) (data : List Byte) : (s.done c data).atl.lamp = s.atl.lamp := rfl

@[simp] theorem State.refuse_lamps (s : State) (c : CommandCode) (r : Reason) : (s.refuse c r).atl.lamp = s.atl.lamp := rfl

@[simp] theorem State.empty_lamps (s : State) (c : CommandCode) : (s.empty c).atl.lamp = s.atl.lamp := rfl

@[simp] theorem State.configure_lamps (block : List Byte) (s : State) : (State.configure block s).atl.lamp = s.atl.lamp := by
  unfold State.configure
  (repeat' split) <;> simp

@[simp] theorem State.openCommand_lamps (s : State) : s.openCommand.atl.lamp = s.atl.lamp := by
  unfold State.openCommand
  split <;> simp

@[simp] theorem State.timeSet_lamps (s : State) (d : Date) : (s.timeSet d).atl.lamp = s.atl.lamp := by simp [State.timeSet]

@[simp] theorem State.setTimeCommand_lamps (day : Day) (us : Nat) (s : State) :
    (State.setTimeCommand day us s).atl.lamp = s.atl.lamp := by
  unfold State.setTimeCommand
  (repeat' split) <;> simp

@[simp] theorem State.presetCommand_lamps (f : TallyFields) (s : State) : (State.presetCommand f s).atl.lamp = s.atl.lamp := by
  unfold State.presetCommand
  (repeat' split) <;> simp

@[simp] theorem State.acceptCommand_lamps (finding : Bool) (s : State) :
    (State.acceptCommand finding s).atl.lamp = s.atl.lamp := by simp [State.acceptCommand]

@[simp] theorem State.acknowledge_lamps (s : State) (mask : BitVec 16) : (s.acknowledge mask).atl.lamp = s.atl.lamp := rfl

@[simp] theorem State.ackCommand_lamps (mask : BitVec 16) (s : State) : (State.ackCommand mask s).atl.lamp = s.atl.lamp := rfl

@[simp] theorem State.readStatusCommand_lamps (s : State) : s.readStatusCommand.atl.lamp = s.atl.lamp := rfl

@[simp] theorem State.removeHead_lamps (s : State) (rest : List Record) : (s.removeHead rest).atl.lamp = s.atl.lamp := rfl

@[simp] theorem State.readEventCommand_lamps (s : State) : s.readEventCommand.atl.lamp = s.atl.lamp := by
  unfold State.readEventCommand
  split <;> simp

@[simp] theorem State.readCascadeCommand_lamps (s : State) : s.readCascadeCommand.atl.lamp = s.atl.lamp := by
  unfold State.readCascadeCommand
  split <;> simp

@[simp] theorem State.readRoundCommand_lamps (s : State) : s.readRoundCommand.atl.lamp = s.atl.lamp := by
  unfold State.readRoundCommand
  split <;> simp

@[simp] theorem State.readTallyCommand_lamps (s : State) : s.readTallyCommand.atl.lamp = s.atl.lamp := rfl

@[simp] theorem State.readShiftCommand_lamps (position : Nat) (s : State) :
    (State.readShiftCommand position s).atl.lamp = s.atl.lamp := by
  unfold State.readShiftCommand
  (repeat' split) <;> simp

@[simp] theorem State.readStationCommand_lamps (s : State) : s.readStationCommand.atl.lamp = s.atl.lamp := by
  unfold State.readStationCommand
  split <;> simp

@[simp] theorem State.runCommand_lamps (s : State) (c : CommandCode) (args : List Byte) :
    (s.runCommand c args).atl.lamp = s.atl.lamp := by
  unfold State.runCommand
  split <;> simp

@[simp] theorem State.refuseCode_lamps (s : State) (code : Byte) (r : Reason) : (s.refuseCode code r).atl.lamp = s.atl.lamp := rfl

@[simp] theorem State.examine_lamps (s : State) (code : Byte) (bytes : List Byte) (insideByte : Bool) :
    (s.examine code bytes insideByte).atl.lamp = s.atl.lamp := by
  unfold State.examine
  dsimp only
  (repeat' split) <;> simp

@[simp] theorem State.readOut_lamps (s : State) (clocked : Nat) (busy : Bool) :
    (s.readOut clocked busy).atl.lamp = s.atl.lamp := by
  unfold State.readOut
  (repeat' split) <;> simp

@[simp] theorem State.transact_lamps (s : State) (bytes : List Byte) (insideByte whileExecuting : Bool) :
    (s.transact bytes insideByte whileExecuting).atl.lamp = s.atl.lamp := by
  unfold State.transact
  (repeat' split) <;> simp

/-! ### Every command -/

/-- Which lamps the end of a command finds: those from before it; or one of them toggled by its blink's half-period; or, at a
reset, every lamp off from now on, in a main domain that does not work or whose blocks are at their initial values. -/
def LampsAtEnd (c : Instr) (s m : State) : Prop :=
  m.atl.lamp = s.atl.lamp
  ∨ (∃ w lamp half, c = .lampBlinkPhase w lamp ∧ (s.atl.lamp lamp).pattern.halfPeriod = some half
      ∧ m.atl = s.atl.setLamp lamp ((s.atl.lamp lamp).toggle half))
  ∨ ((∀ l, m.atl.lamp l = ⟨.off, false, m.time.elapsed⟩)
      ∧ (m.working = false
        ∨ (m.clu.state = .solo ∧ m.lif.view = .quiet ∧ m.atl.flashUntil = none ∧ m.cfg.postRole = false)))

/-- A step of the table that leaves the lamps, if it occurs. -/
theorem LampsAtEnd.of_when {c : Instr} {s a x : State} {b : Bool} (ha : a.atl.lamp = s.atl.lamp) (hx : x.atl.lamp = s.atl.lamp) :
    LampsAtEnd c s (a.when b x) := .inl (ite_holds (p := fun m : State => m.atl.lamp = s.atl.lamp) hx ha)

/-- A command of the Local Port that leaves the lamps, if it is taken. -/
theorem LampsAtEnd.of_viaPort {c : Instr} {s a : State} {f : State → State} (ha : a.atl.lamp = s.atl.lamp)
    (hf : (f a).atl.lamp = s.atl.lamp) : LampsAtEnd c s (a.viaPort f) :=
  .inl (ite_holds (p := fun m : State => m.atl.lamp = s.atl.lamp) hf ha)

/-- Both supplies lost: every lamp off. -/
theorem LampsAtEnd.of_toOff (c : Instr) (s a : State) : LampsAtEnd c s a.toOff :=
  .inr (.inr ⟨fun l => by simp [State.toOff, Atl.initial_lamp], .inl (by simp [State.toOff, State.working])⟩)

/-- The reset pin asserted: every lamp off. -/
theorem LampsAtEnd.of_assertReset (c : Instr) (s a : State) : LampsAtEnd c s a.assertReset :=
  .inr (.inr ⟨fun l => by simp [State.assertReset, Atl.initial_lamp], .inl (by simp [State.assertReset, State.working])⟩)

/-- The loss of main supply: every lamp off, or in RESTORING, where the main domain does not work, left as it is. -/
theorem LampsAtEnd.of_vddLost (c : Instr) {s a : State} (h : a.atl.lamp = s.atl.lamp) : LampsAtEnd c s a.vddLost := by
  unfold State.vddLost
  split
  · split
    · exact .inr (.inr ⟨fun l => by simp [State.toKeepAlive, Atl.initial_lamp], .inl (by simp [State.toKeepAlive, State.working])⟩)
    · exact .of_toOff ..
  · split
    · exact .inl h
    · exact .of_toOff ..
  · exact .inl h
  · exact .inl h

/-- The end of the RESTORING wait: every lamp off. -/
theorem LampsAtEnd.of_endRestore (c : Instr) (s a : State) (id : NodeNo) (sp : BitVec 2) :
    LampsAtEnd c s (a.endRestore id sp) := by
  unfold State.endRestore
  dsimp only
  split
  · split
    · exact .of_assertReset ..
    · exact .inr (.inr ⟨fun l => by simp [State.toRun, Atl.initial_lamp], .inr (by
        simp [State.toRun, State.readStraps, State.cfg, Clu.initial, Lif.initial, Atl.initial, Lpt.initial, NodeConfig.none])⟩)
  · refine .inr (.inr ⟨fun l => by simp [State.toRun, Atl.initial_lamp], .inr ?_⟩)
    simp [State.toRun, State.readStraps, State.cfg, Clu.initial, Lif.initial, Atl.initial, Lpt.initial, NodeConfig.none,
      State.startRestorePass, State.requestNow, State.request]

/-- The release of the reset pin: every lamp off. -/
theorem LampsAtEnd.of_releaseReset (c : Instr) (s a : State) (id : NodeNo) (sp : BitVec 2) :
    LampsAtEnd c s ((a.releaseReset id sp).setRstn false) := by
  refine .inr (.inr ⟨fun l => by simp [State.releaseReset, State.setRstn, Atl.initial_lamp], .inr ?_⟩)
  simp [State.releaseReset, State.setRstn, State.readStraps, State.cfg, Clu.initial, Lif.initial, Atl.initial, Lpt.initial,
    NodeConfig.none, State.requestNow, State.request]

/-- Every command that answers a next state ends with `finish`, which finds the lamps as `LampsAtEnd` says (R183). -/
theorem exec_lamps {c : Instr} {s t : State} (h : exec c s = .next t) : ∃ m : State, t = m.finish ∧ LampsAtEnd c s m := by
  cases c <;> (
    simp only [exec, execConfigure, execOpenNode, execSetTime, execPresetTally, execAcceptTally, execReadStatus,
      execReadEvent, execReadCascade, execReadRound, execReadTally, execReadShift, execReadStationShift,
      execAckAttention, execCommandTransaction, execReadTransaction, execStartCondition, execLineIdle,
      execFrameAbandoned, execSendBegin, execContentionJoin, execArbitrationLoss, execDriverFault, execAttemptEnd,
      execFrameReceivedIntact, execCheckError, execFormError, execLineStuck, execLineStuckLeft, execOscillatorSecond,
      execRoundBoundary, execRoundClose, execRefsecEdge, execRefsecSilence, execFirstSample, execQualifiedChange,
      execChatterWindowExpiry, execCascadeClose, execStopDeadline, execSpdEdge, execSpeedSilence, execSpeedSilent,
      execOscillatorTenth, execShiftBoundaryReached, execEarlyMark, execGraceExpiry, execPairingTimeout,
      execGatherExpiry, execMainSupplyLoss, execBackupSupplyLoss, execMainSupplyReturn, execRestoreWaitEnd,
      execColdStart, execRstnAssert, execRstnRelease, execStoreCheckPassStart, execStoreCheckTest,
      execStoreCheckPassEnd, execLampBlinkPhase, execLampFlashEnd, execSampleSlot, execNotAStart,
      execBackupSupplyReturn, State.take, Host.Outcome.next.injEq] at h
    refine ⟨_, h.symm, ?_⟩)
  case mainSupplyLoss => exact .of_vddLost _ (by simp)
  case backupSupplyLoss =>
    unfold State.vbkLost
    split
    · exact .of_toOff ..
    · exact .inl (by simp)
    · exact .inl (by simp)
    · exact .inl (by simp)
  case restoreWaitEnd => exact ite_holds (.of_endRestore ..) (.inl (by simp))
  case coldStart returned =>
    refine ite_holds (.inr (.inr ⟨fun l => ?_, .inl ?_⟩)) (.inl (by simp))
    · cases returned <;> simp [State.leaveOff, Atl.initial_lamp]
    · cases returned <;> simp [State.leaveOff, State.working]
  case rstnAssert =>
    unfold State.when
    split
    · exact .of_assertReset ..
    · exact .inl (by simp [State.setRstn])
  case rstnRelease =>
    unfold State.when
    split
    · exact .of_releaseReset ..
    · exact .inl (by simp [State.setRstn])
  case storeCheckPassEnd =>
    refine ite_holds ?_ (.inl (by simp))
    unfold State.endPass
    exact ite_holds (.of_assertReset ..) (.inl (by simp))
  case lampBlinkPhase w lamp =>
    unfold State.when State.blink
    split
    · split
      · exact .inl (by simp)
      · rename_i half due
        refine .inr (.inl ⟨w, lamp, half, rfl, ?_, by simp⟩)
        simp only [LampState.phaseDue] at due
        split at due
        · cases due
        · split at due <;> simp_all
    · exact .inl (by simp)
  all_goals first
    | (apply LampsAtEnd.of_when <;> simp; done)
    | (apply LampsAtEnd.of_viaPort <;> simp; done)
    | (left; (repeat' split) <;> first | (simp; done) | (unfold State.when; split <;> simp))

end Sys2Proof.Machine
end

