-- ==== Sys2Proof/WellFormed.lean ====
section
/-! DEFINITION. Well-formed commands: the operands a row of the table can have. -/

namespace Sys2Proof

open Machine

/-- The longest frame from its first header bit to its last check bit: a TALLY (Table 1-3). -/
def longestFrameBits : Nat := 136

/-- A command's operands are ones its row can have: a CONFIGURE block has 129 bytes (R187); an intact frame's check
matches over a body of its kind's length and a check error's differs (R8, R17); a form error of invalid kind has a
header of no kind (R17); a bit place lies within the longest frame (R10); a boundary index is 0 to 5 (R139); OPEN has
eight steps (R179); the line goes IDLE once both wires have been high for 80 µs (R6). -/
def Instr.wellFormed : Instr → Bool
  | .configure _ block => decide (block.length = 129)
  | .lineIdle arrival => decide (80 ≤ arrival.high)
  | .arbitrationLoss _ bit => decide (bit < longestFrameBits)
  | .driverFault _ bit => decide (bit < longestFrameBits)
  | .frameReceivedIntact _ header body check => frameChecks header body check
  | .checkError _ header body check _ => checkDiffers header body check
  | .formError _ (.invalidKind header) => (headerKind header).isNone
  | .gatherExpiry _ key => decide (key.index ≤ 5)
  | .mainSupplyLoss arrival | .rstnAssert arrival => decide (arrival.midOpen.getD 0 ≤ 8)
  | _ => true

end Sys2Proof
end

