-- ==== Sys2Proof/Laws/PerInstr.lean ====
section
/-! SUPPORT. Per command: the wait of a command stands beside its operands. -/

namespace Sys2Proof.Laws

/-- How long after the command before it a command comes (log 1). -/
def waitOf : Instr → Nat
  | .configure wait _ => wait
  | .openNode wait => wait
  | .setTime wait _ _ => wait
  | .presetTally wait _ => wait
  | .acceptTally arrival => arrival.wait
  | .readStatus wait => wait
  | .readEvent wait => wait
  | .readCascade wait => wait
  | .readRound wait => wait
  | .readTally wait => wait
  | .readShift wait _ => wait
  | .readStationShift wait => wait
  | .ackAttention wait _ => wait
  | .commandTransaction wait _ _ _ => wait
  | .readTransaction wait _ _ => wait
  | .startCondition wait => wait
  | .lineIdle arrival => arrival.wait
  | .frameAbandoned arrival => arrival.wait
  | .sendBegin wait => wait
  | .contentionJoin wait => wait
  | .arbitrationLoss wait _ => wait
  | .driverFault wait _ => wait
  | .attemptEnd wait _ => wait
  | .frameReceivedIntact wait _ _ _ => wait
  | .checkError wait _ _ _ _ => wait
  | .formError wait _ => wait
  | .lineStuck arrival => arrival.wait
  | .lineStuckLeft wait => wait
  | .oscillatorSecond wait => wait
  | .roundBoundary wait => wait
  | .roundClose wait => wait
  | .refsecEdge wait => wait
  | .refsecSilence wait => wait
  | .firstSample wait _ _ => wait
  | .qualifiedChange wait _ => wait
  | .chatterWindowExpiry wait _ => wait
  | .cascadeClose wait => wait
  | .stopDeadline wait => wait
  | .spdEdge wait => wait
  | .speedSilence wait => wait
  | .speedSilent wait => wait
  | .oscillatorTenth wait => wait
  | .shiftBoundaryReached wait => wait
  | .earlyMark wait => wait
  | .graceExpiry wait => wait
  | .pairingTimeout wait => wait
  | .gatherExpiry wait _ => wait
  | .mainSupplyLoss arrival => arrival.wait
  | .backupSupplyLoss wait => wait
  | .mainSupplyReturn wait => wait
  | .restoreWaitEnd wait _ _ => wait
  | .coldStart wait _ => wait
  | .rstnAssert arrival => arrival.wait
  | .rstnRelease wait _ _ => wait
  | .storeCheckPassStart wait => wait
  | .storeCheckTest wait => wait
  | .storeCheckPassEnd wait => wait
  | .lampBlinkPhase wait _ => wait
  | .lampFlashEnd wait => wait
  | .sampleSlot wait _ => wait
  | .notAStart wait => wait
  | .backupSupplyReturn wait => wait

/-- A command with another wait and the same operands. -/
def withWait (n : Nat) : Instr → Instr
  | .configure _ block => .configure n block
  | .openNode _ => .openNode n
  | .setTime _ day us => .setTime n day us
  | .presetTally _ fields => .presetTally n fields
  | .acceptTally arrival => .acceptTally { arrival with wait := n }
  | .readStatus _ => .readStatus n
  | .readEvent _ => .readEvent n
  | .readCascade _ => .readCascade n
  | .readRound _ => .readRound n
  | .readTally _ => .readTally n
  | .readShift _ position => .readShift n position
  | .readStationShift _ => .readStationShift n
  | .ackAttention _ mask => .ackAttention n mask
  | .commandTransaction _ bytes insideByte whileExecuting => .commandTransaction n bytes insideByte whileExecuting
  | .readTransaction _ clocked whileExecuting => .readTransaction n clocked whileExecuting
  | .startCondition _ => .startCondition n
  | .lineIdle arrival => .lineIdle { arrival with wait := n }
  | .frameAbandoned arrival => .frameAbandoned { arrival with wait := n }
  | .sendBegin _ => .sendBegin n
  | .contentionJoin _ => .contentionJoin n
  | .arbitrationLoss _ bit => .arbitrationLoss n bit
  | .driverFault _ bit => .driverFault n bit
  | .attemptEnd _ heard => .attemptEnd n heard
  | .frameReceivedIntact _ header body check => .frameReceivedIntact n header body check
  | .checkError _ header body check stopped => .checkError n header body check stopped
  | .formError _ cause => .formError n cause
  | .lineStuck arrival => .lineStuck { arrival with wait := n }
  | .lineStuckLeft _ => .lineStuckLeft n
  | .oscillatorSecond _ => .oscillatorSecond n
  | .roundBoundary _ => .roundBoundary n
  | .roundClose _ => .roundClose n
  | .refsecEdge _ => .refsecEdge n
  | .refsecSilence _ => .refsecSilence n
  | .firstSample _ input high => .firstSample n input high
  | .qualifiedChange _ input => .qualifiedChange n input
  | .chatterWindowExpiry _ input => .chatterWindowExpiry n input
  | .cascadeClose _ => .cascadeClose n
  | .stopDeadline _ => .stopDeadline n
  | .spdEdge _ => .spdEdge n
  | .speedSilence _ => .speedSilence n
  | .speedSilent _ => .speedSilent n
  | .oscillatorTenth _ => .oscillatorTenth n
  | .shiftBoundaryReached _ => .shiftBoundaryReached n
  | .earlyMark _ => .earlyMark n
  | .graceExpiry _ => .graceExpiry n
  | .pairingTimeout _ => .pairingTimeout n
  | .gatherExpiry _ key => .gatherExpiry n key
  | .mainSupplyLoss arrival => .mainSupplyLoss { arrival with wait := n }
  | .backupSupplyLoss _ => .backupSupplyLoss n
  | .mainSupplyReturn _ => .mainSupplyReturn n
  | .restoreWaitEnd _ id sp => .restoreWaitEnd n id sp
  | .coldStart _ returned => .coldStart n returned
  | .rstnAssert arrival => .rstnAssert { arrival with wait := n }
  | .rstnRelease _ id sp => .rstnRelease n id sp
  | .storeCheckPassStart _ => .storeCheckPassStart n
  | .storeCheckTest _ => .storeCheckTest n
  | .storeCheckPassEnd _ => .storeCheckPassEnd n
  | .lampBlinkPhase _ lamp => .lampBlinkPhase n lamp
  | .lampFlashEnd _ => .lampFlashEnd n
  | .sampleSlot _ levels => .sampleSlot n levels
  | .notAStart _ => .notAStart n
  | .backupSupplyReturn _ => .backupSupplyReturn n

/-- The wait of a command is free of its operands: it can be replaced, which changes no other part of the command, and a
command is well-formed with every wait or with none. -/
def Wait.Statement (i : Instr) : Prop :=
  (∀ n, waitOf (withWait n i) = n ∧ (withWait n i).wellFormed = i.wellFormed) ∧ withWait (waitOf i) i = i

theorem Wait.configure (wait : Nat) (block : List Byte) : Wait.Statement (.configure wait block) := ⟨fun _ => ⟨rfl, rfl⟩, rfl⟩

theorem Wait.openNode (wait : Nat) : Wait.Statement (.openNode wait) := ⟨fun _ => ⟨rfl, rfl⟩, rfl⟩

theorem Wait.setTime (wait : Nat) (day : Day) (us : BitVec 40) : Wait.Statement (.setTime wait day us) := ⟨fun _ => ⟨rfl, rfl⟩, rfl⟩

theorem Wait.presetTally (wait : Nat) (fields : TallyFields) : Wait.Statement (.presetTally wait fields) := ⟨fun _ => ⟨rfl, rfl⟩, rfl⟩

theorem Wait.acceptTally (arrival : AcceptArrival) : Wait.Statement (.acceptTally arrival) := ⟨fun _ => ⟨rfl, rfl⟩, rfl⟩

theorem Wait.readStatus (wait : Nat) : Wait.Statement (.readStatus wait) := ⟨fun _ => ⟨rfl, rfl⟩, rfl⟩

theorem Wait.readEvent (wait : Nat) : Wait.Statement (.readEvent wait) := ⟨fun _ => ⟨rfl, rfl⟩, rfl⟩

theorem Wait.readCascade (wait : Nat) : Wait.Statement (.readCascade wait) := ⟨fun _ => ⟨rfl, rfl⟩, rfl⟩

theorem Wait.readRound (wait : Nat) : Wait.Statement (.readRound wait) := ⟨fun _ => ⟨rfl, rfl⟩, rfl⟩

theorem Wait.readTally (wait : Nat) : Wait.Statement (.readTally wait) := ⟨fun _ => ⟨rfl, rfl⟩, rfl⟩

theorem Wait.readShift (wait : Nat) (position : Byte) : Wait.Statement (.readShift wait position) := ⟨fun _ => ⟨rfl, rfl⟩, rfl⟩

theorem Wait.readStationShift (wait : Nat) : Wait.Statement (.readStationShift wait) := ⟨fun _ => ⟨rfl, rfl⟩, rfl⟩

theorem Wait.ackAttention (wait : Nat) (mask : BitVec 16) : Wait.Statement (.ackAttention wait mask) := ⟨fun _ => ⟨rfl, rfl⟩, rfl⟩

theorem Wait.commandTransaction (wait : Nat) (bytes : List Byte) (insideByte : Bool) (whileExecuting : Bool) : Wait.Statement (.commandTransaction wait bytes insideByte whileExecuting) := ⟨fun _ => ⟨rfl, rfl⟩, rfl⟩

theorem Wait.readTransaction (wait : Nat) (clocked : Nat) (whileExecuting : Bool) : Wait.Statement (.readTransaction wait clocked whileExecuting) := ⟨fun _ => ⟨rfl, rfl⟩, rfl⟩

theorem Wait.startCondition (wait : Nat) : Wait.Statement (.startCondition wait) := ⟨fun _ => ⟨rfl, rfl⟩, rfl⟩

theorem Wait.lineIdle (arrival : HighArrival) : Wait.Statement (.lineIdle arrival) := ⟨fun _ => ⟨rfl, rfl⟩, rfl⟩

theorem Wait.frameAbandoned (arrival : BreakArrival) : Wait.Statement (.frameAbandoned arrival) := ⟨fun _ => ⟨rfl, rfl⟩, rfl⟩

theorem Wait.sendBegin (wait : Nat) : Wait.Statement (.sendBegin wait) := ⟨fun _ => ⟨rfl, rfl⟩, rfl⟩

theorem Wait.contentionJoin (wait : Nat) : Wait.Statement (.contentionJoin wait) := ⟨fun _ => ⟨rfl, rfl⟩, rfl⟩

theorem Wait.arbitrationLoss (wait : Nat) (bit : Nat) : Wait.Statement (.arbitrationLoss wait bit) := ⟨fun _ => ⟨rfl, rfl⟩, rfl⟩

theorem Wait.driverFault (wait : Nat) (bit : Nat) : Wait.Statement (.driverFault wait bit) := ⟨fun _ => ⟨rfl, rfl⟩, rfl⟩

theorem Wait.attemptEnd (wait : Nat) (heard : Bool) : Wait.Statement (.attemptEnd wait heard) := ⟨fun _ => ⟨rfl, rfl⟩, rfl⟩

theorem Wait.frameReceivedIntact (wait : Nat) (header : Byte) (body : List Byte) (check : BitVec 16) : Wait.Statement (.frameReceivedIntact wait header body check) := ⟨fun _ => ⟨rfl, rfl⟩, rfl⟩

theorem Wait.checkError (wait : Nat) (header : Byte) (body : List Byte) (check : BitVec 16) (stopped : Bool) : Wait.Statement (.checkError wait header body check stopped) := ⟨fun _ => ⟨rfl, rfl⟩, rfl⟩

theorem Wait.formError (wait : Nat) (cause : FormErrorCause) : Wait.Statement (.formError wait cause) := by
  cases cause <;> exact ⟨fun _ => ⟨rfl, rfl⟩, rfl⟩

theorem Wait.lineStuck (arrival : BreakArrival) : Wait.Statement (.lineStuck arrival) := ⟨fun _ => ⟨rfl, rfl⟩, rfl⟩

theorem Wait.lineStuckLeft (wait : Nat) : Wait.Statement (.lineStuckLeft wait) := ⟨fun _ => ⟨rfl, rfl⟩, rfl⟩

theorem Wait.oscillatorSecond (wait : Nat) : Wait.Statement (.oscillatorSecond wait) := ⟨fun _ => ⟨rfl, rfl⟩, rfl⟩

theorem Wait.roundBoundary (wait : Nat) : Wait.Statement (.roundBoundary wait) := ⟨fun _ => ⟨rfl, rfl⟩, rfl⟩

theorem Wait.roundClose (wait : Nat) : Wait.Statement (.roundClose wait) := ⟨fun _ => ⟨rfl, rfl⟩, rfl⟩

theorem Wait.refsecEdge (wait : Nat) : Wait.Statement (.refsecEdge wait) := ⟨fun _ => ⟨rfl, rfl⟩, rfl⟩

theorem Wait.refsecSilence (wait : Nat) : Wait.Statement (.refsecSilence wait) := ⟨fun _ => ⟨rfl, rfl⟩, rfl⟩

theorem Wait.firstSample (wait : Nat) (input : InputNo) (high : Bool) : Wait.Statement (.firstSample wait input high) := ⟨fun _ => ⟨rfl, rfl⟩, rfl⟩

theorem Wait.qualifiedChange (wait : Nat) (input : InputNo) : Wait.Statement (.qualifiedChange wait input) := ⟨fun _ => ⟨rfl, rfl⟩, rfl⟩

theorem Wait.chatterWindowExpiry (wait : Nat) (input : InputNo) : Wait.Statement (.chatterWindowExpiry wait input) := ⟨fun _ => ⟨rfl, rfl⟩, rfl⟩

theorem Wait.cascadeClose (wait : Nat) : Wait.Statement (.cascadeClose wait) := ⟨fun _ => ⟨rfl, rfl⟩, rfl⟩

theorem Wait.stopDeadline (wait : Nat) : Wait.Statement (.stopDeadline wait) := ⟨fun _ => ⟨rfl, rfl⟩, rfl⟩

theorem Wait.spdEdge (wait : Nat) : Wait.Statement (.spdEdge wait) := ⟨fun _ => ⟨rfl, rfl⟩, rfl⟩

theorem Wait.speedSilence (wait : Nat) : Wait.Statement (.speedSilence wait) := ⟨fun _ => ⟨rfl, rfl⟩, rfl⟩

theorem Wait.speedSilent (wait : Nat) : Wait.Statement (.speedSilent wait) := ⟨fun _ => ⟨rfl, rfl⟩, rfl⟩

theorem Wait.oscillatorTenth (wait : Nat) : Wait.Statement (.oscillatorTenth wait) := ⟨fun _ => ⟨rfl, rfl⟩, rfl⟩

theorem Wait.shiftBoundaryReached (wait : Nat) : Wait.Statement (.shiftBoundaryReached wait) := ⟨fun _ => ⟨rfl, rfl⟩, rfl⟩

theorem Wait.earlyMark (wait : Nat) : Wait.Statement (.earlyMark wait) := ⟨fun _ => ⟨rfl, rfl⟩, rfl⟩

theorem Wait.graceExpiry (wait : Nat) : Wait.Statement (.graceExpiry wait) := ⟨fun _ => ⟨rfl, rfl⟩, rfl⟩

theorem Wait.pairingTimeout (wait : Nat) : Wait.Statement (.pairingTimeout wait) := ⟨fun _ => ⟨rfl, rfl⟩, rfl⟩

theorem Wait.gatherExpiry (wait : Nat) (key : ShiftKey) : Wait.Statement (.gatherExpiry wait key) := ⟨fun _ => ⟨rfl, rfl⟩, rfl⟩

theorem Wait.mainSupplyLoss (arrival : ResetArrival) : Wait.Statement (.mainSupplyLoss arrival) := ⟨fun _ => ⟨rfl, rfl⟩, rfl⟩

theorem Wait.backupSupplyLoss (wait : Nat) : Wait.Statement (.backupSupplyLoss wait) := ⟨fun _ => ⟨rfl, rfl⟩, rfl⟩

theorem Wait.mainSupplyReturn (wait : Nat) : Wait.Statement (.mainSupplyReturn wait) := ⟨fun _ => ⟨rfl, rfl⟩, rfl⟩

theorem Wait.restoreWaitEnd (wait : Nat) (id : NodeNo) (sp : BitVec 2) : Wait.Statement (.restoreWaitEnd wait id sp) := ⟨fun _ => ⟨rfl, rfl⟩, rfl⟩

theorem Wait.coldStart (wait : Nat) (returned : SupplyReturned) : Wait.Statement (.coldStart wait returned) := ⟨fun _ => ⟨rfl, rfl⟩, rfl⟩

theorem Wait.rstnAssert (arrival : ResetArrival) : Wait.Statement (.rstnAssert arrival) := ⟨fun _ => ⟨rfl, rfl⟩, rfl⟩

theorem Wait.rstnRelease (wait : Nat) (id : NodeNo) (sp : BitVec 2) : Wait.Statement (.rstnRelease wait id sp) := ⟨fun _ => ⟨rfl, rfl⟩, rfl⟩

theorem Wait.storeCheckPassStart (wait : Nat) : Wait.Statement (.storeCheckPassStart wait) := ⟨fun _ => ⟨rfl, rfl⟩, rfl⟩

theorem Wait.storeCheckTest (wait : Nat) : Wait.Statement (.storeCheckTest wait) := ⟨fun _ => ⟨rfl, rfl⟩, rfl⟩

theorem Wait.storeCheckPassEnd (wait : Nat) : Wait.Statement (.storeCheckPassEnd wait) := ⟨fun _ => ⟨rfl, rfl⟩, rfl⟩

theorem Wait.lampBlinkPhase (wait : Nat) (lamp : Lamp) : Wait.Statement (.lampBlinkPhase wait lamp) := ⟨fun _ => ⟨rfl, rfl⟩, rfl⟩

theorem Wait.lampFlashEnd (wait : Nat) : Wait.Statement (.lampFlashEnd wait) := ⟨fun _ => ⟨rfl, rfl⟩, rfl⟩

theorem Wait.sampleSlot (wait : Nat) (levels : BitVec 16) : Wait.Statement (.sampleSlot wait levels) := ⟨fun _ => ⟨rfl, rfl⟩, rfl⟩

theorem Wait.notAStart (wait : Nat) : Wait.Statement (.notAStart wait) := ⟨fun _ => ⟨rfl, rfl⟩, rfl⟩

theorem Wait.backupSupplyReturn (wait : Nat) : Wait.Statement (.backupSupplyReturn wait) := ⟨fun _ => ⟨rfl, rfl⟩, rfl⟩

end Sys2Proof.Laws
end

