-- ==== Sys2Proof/Laws/Tables.lean ====
section
/-! SUPPORT. The tables kept in node-number order: what putting an entry in leaves of them (R35, R158), and the entries with
which gathering ends (R159). -/

namespace Sys2Proof.Machine

/-! ### Putting an entry in -/

/-- What stands in a station shift record after an entry is put in comes from it or was there. -/
theorem of_mem_putEntry {e x : StationEntry} {l : List StationEntry} (h : x ∈ putEntry e l) : x = e ∨ x ∈ l := by
  induction l with
  | nil => exact .inl (List.mem_singleton.mp h)
  | cons y ys ih =>
    unfold putEntry at h
    split at h
    · rcases List.mem_cons.mp h with h | h
      · exact .inl h
      · exact .inr (List.mem_cons_of_mem _ h)
    · split at h
      · exact List.mem_cons.mp h
      · rcases List.mem_cons.mp h with h | h
        · exact .inr (h ▸ List.mem_cons_self ..)
        · exact (ih h).imp id (List.mem_cons_of_mem _)

/-- An entry for a node that has none yet joins those that were there. -/
theorem mem_putEntry_new {e x : StationEntry} {l : List StationEntry} (new : ∀ y ∈ l, y.node ≠ e.node) :
    x ∈ putEntry e l ↔ x = e ∨ x ∈ l := by
  induction l with
  | nil => simp [putEntry]
  | cons y ys ih =>
    unfold putEntry
    rw [if_neg (new y (List.mem_cons_self ..))]
    split
    · exact List.mem_cons
    · rw [List.mem_cons, ih fun z hz => new z (List.mem_cons_of_mem _ hz), List.mem_cons]
      exact or_left_comm

/-- Putting an entry in keeps node-number order, with one entry at most for a node (R158). -/
theorem putEntry_ordered (e : StationEntry) {l : List StationEntry} (h : l.Pairwise fun x y => x.node < y.node) :
    (putEntry e l).Pairwise fun x y => x.node < y.node := by
  induction l with
  | nil => exact List.pairwise_singleton ..
  | cons y ys ih =>
    obtain ⟨first, rest⟩ := List.pairwise_cons.mp h
    unfold putEntry
    split
    · rename_i same
      exact List.pairwise_cons.mpr ⟨fun x hx => same ▸ first x hx, rest⟩
    · rename_i other
      split
      · rename_i before
        refine List.pairwise_cons.mpr ⟨fun x hx => ?_, h⟩
        rcases List.mem_cons.mp hx with rfl | hx
        · exact before
        · exact Fin.lt_trans before (first x hx)
      · rename_i notBefore
        refine List.pairwise_cons.mpr ⟨fun x hx => ?_, ih rest⟩
        rcases of_mem_putEntry hx with rfl | hx
        · exact Nat.lt_of_le_of_ne (Nat.le_of_not_lt notBefore) fun same => other (Fin.ext same)
        · exact first x hx

/-- What stands in a round table after an entry is put in comes from it or was there. -/
theorem of_mem_putRoundEntry {e x : RoundEntry} {l : List RoundEntry} (h : x ∈ putRoundEntry e l) : x = e ∨ x ∈ l := by
  induction l with
  | nil => exact .inl (List.mem_singleton.mp h)
  | cons y ys ih =>
    unfold putRoundEntry at h
    split at h
    · exact List.mem_cons.mp h
    · rcases List.mem_cons.mp h with h | h
      · exact .inr (h ▸ List.mem_cons_self ..)
      · exact (ih h).imp id (List.mem_cons_of_mem _)

/-- An entry for a node that has none yet keeps a round table's node-number order (R35). -/
theorem putRoundEntry_ordered {e : RoundEntry} {l : List RoundEntry} (new : ∀ y ∈ l, y.node ≠ e.node)
    (h : l.Pairwise fun x y => x.node < y.node) : (putRoundEntry e l).Pairwise fun x y => x.node < y.node := by
  induction l with
  | nil => exact List.pairwise_singleton ..
  | cons y ys ih =>
    obtain ⟨first, rest⟩ := List.pairwise_cons.mp h
    have other := new y (List.mem_cons_self ..)
    unfold putRoundEntry
    split
    · rename_i before
      refine List.pairwise_cons.mpr ⟨fun x hx => ?_, h⟩
      rcases List.mem_cons.mp hx with rfl | hx
      · exact before
      · exact Fin.lt_trans before (first x hx)
    · rename_i notBefore
      refine List.pairwise_cons.mpr ⟨fun x hx => ?_, ih (fun z hz => new z (List.mem_cons_of_mem _ hz)) rest⟩
      rcases of_mem_putRoundEntry hx with rfl | hx
      · exact Nat.lt_of_le_of_ne (Nat.le_of_not_lt notBefore) fun same => other (Fin.ext same)
      · exact first x hx

/-- A sender without an entry enters a round table in its place (R35). -/
theorem Round.enter_ordered {r : Round} {sender : NodeNo} (m : MarkBody) (new : r.hasEntry sender = false) (h : r.ordered) :
    (r.enter sender m).ordered :=
  putRoundEntry_ordered (fun y hy same => by simp_all [Round.hasEntry]) h

/-! ### The end of gathering -/

/-- The entries after the node numbers of a list have been gone through: those that were there, and an ABSENT one for each
expected unit of the list that had none (R159). -/
theorem mem_addAbsent_fold (mask : BitVec 16) (nodes : List NodeNo) (l : List StationEntry) (x : StationEntry) :
    x ∈ nodes.foldl (addAbsent mask) l ↔
      x ∈ l ∨ (x = ⟨x.node, none, false⟩ ∧ x.node ∈ nodes ∧ mask.getLsbD x.node.val = true ∧ ∀ y ∈ l, y.node ≠ x.node) := by
  induction nodes generalizing l with
  | nil => simp
  | cons n ns ih =>
    rw [List.foldl_cons, ih]
    unfold addAbsent
    split
    · rename_i given
      obtain ⟨expected, noEntry⟩ : mask.getLsbD n.val = true ∧ ∀ y ∈ l, y.node ≠ n := by simpa using given
      have mem (z : StationEntry) : z ∈ putEntry ⟨n, none, false⟩ l ↔ z = ⟨n, none, false⟩ ∨ z ∈ l := mem_putEntry_new noEntry
      simp only [mem, List.mem_cons]
      constructor
      · rintro ((rfl | h) | ⟨absent, h, listed, without⟩)
        · exact .inr ⟨rfl, .inl rfl, expected, noEntry⟩
        · exact .inl h
        · exact .inr ⟨absent, .inr h, listed, fun y hy => without y (.inr hy)⟩
      · rintro (h | ⟨absent, h, listed, without⟩)
        · exact .inl (.inr h)
        · by_cases same : x.node = n
          · exact .inl (.inl (same ▸ absent))
          · exact .inr ⟨absent, h.resolve_left same, listed, fun y hy => by
              rcases hy with rfl | hy
              · exact fun e => same e.symm
              · exact without y hy⟩
    · rename_i notGiven
      have present : mask.getLsbD n.val = true → ∃ y ∈ l, y.node = n := by simpa using notGiven
      constructor
      · rintro (h | ⟨absent, h, listed, without⟩)
        · exact .inl h
        · exact .inr ⟨absent, List.mem_cons_of_mem _ h, listed, without⟩
      · rintro (h | ⟨absent, h, listed, without⟩)
        · exact .inl h
        · rcases List.mem_cons.mp h with same | h
          · obtain ⟨y, hy, e⟩ := present (same ▸ listed)
            exact absurd (e.trans same.symm) (without y hy)
          · exact .inr ⟨absent, h, listed, without⟩

/-- Every node number is gone through. -/
theorem mem_allInputs (n : NodeNo) : n ∈ allInputs := by revert n; decide

/-- The end of gathering keeps a record's entries in node-number order, with one entry at most for a node (R159). -/
theorem StationRecord.endGathering_ordered {r : StationRecord} (mask : BitVec 16) (h : r.ordered) : (r.endGathering mask).ordered := by
  suffices ∀ (nodes : List NodeNo) (l : List StationEntry), (l.Pairwise fun x y => x.node < y.node) →
      (nodes.foldl (addAbsent mask) l).Pairwise fun x y => x.node < y.node from this allInputs r.entries h
  intro nodes
  induction nodes with
  | nil => exact fun _ h => h
  | cons n ns ih => exact fun l h => ih _ (ite_holds (putEntry_ordered _ h) h)

/-! ### The station shift list -/

/-- The entries of every station shift record stand in order (R158). -/
def Shu.ordered (u : Shu) : Prop := ∀ r ∈ u.records, r.ordered

/-- Every record of a list still stands in order after some of them are replaced by ones that do. -/
theorem ordered_map {l : List StationRecord} {f : StationRecord → StationRecord} (h : ∀ r ∈ l, r.ordered)
    (kept : ∀ r ∈ l, r.ordered → (f r).ordered) : ∀ r ∈ l.map f, r.ordered := by
  intro r hr
  obtain ⟨x, hx, rfl⟩ := List.mem_map.mp hr
  exact kept x hx (h x hx)

/-- Giving a result leaves the entries (R154). -/
theorem State.giveResult_ordered {s : State} (k : ShiftKey) (r : Result) (h : s.shu.ordered) : (s.giveResult k r).shu.ordered := by
  unfold State.giveResult
  split
  · exact h
  · exact ordered_map h fun x _ hx => ite_holds (p := StationRecord.ordered) hx hx

/-- A record is created without entries (R157). -/
theorem State.createRecord_ordered {s : State} (k : ShiftKey) (h : s.shu.ordered) : (s.createRecord k).shu.ordered := by
  unfold State.createRecord
  split
  · intro r hr
    rcases List.mem_append.mp hr with hr | hr
    · split at hr
      · exact h r (List.mem_of_mem_drop hr)
      · exact h r hr
    · rw [List.mem_singleton.mp hr]
      exact List.Pairwise.nil
  · exact h

/-- A TALLY frame's entry goes to its place (R158). -/
theorem State.enterTally_ordered {s : State} (n : NodeNo) (k : ShiftKey) (v : TallyValues) (h : s.shu.ordered) :
    (s.enterTally n k v).shu.ordered := by
  unfold State.enterTally
  split
  · exact h
  · exact ordered_map h fun x _ hx => ite_holds (p := StationRecord.ordered) (putEntry_ordered _ hx) hx

/-- So does the whole of a TALLY frame (R158). -/
theorem State.tallyReceived_ordered {s : State} (n : NodeNo) (k : ShiftKey) (v : TallyValues) (h : s.shu.ordered) :
    (s.tallyReceived n k v).shu.ordered := by
  unfold State.tallyReceived
  (repeat' split) <;> first
    | exact h
    | exact State.enterTally_ordered n k v h
    | exact State.enterTally_ordered n k v (State.createRecord_ordered k h)

/-- The end of gathering of one key's record (R159). -/
theorem State.endGathering_keeps_order {s : State} {k : ShiftKey} {r : StationRecord} (given : r.ordered) (h : s.shu.ordered) :
    (s.endGathering k r).shu.ordered :=
  ordered_map h fun _ _ hx =>
    ite_holds (p := StationRecord.ordered) (StationRecord.endGathering_ordered _ given) hx

end Sys2Proof.Machine
end

