-- ==== Sys2Proof/Tests/Slice0.lean ====
section
/-! SUPPORT. The model's own tests: ill-formed commands refused, the manual's worked figures, one small step for most
commands, and for every statement of Obligations.lean with hypotheses a state and operands that meet them. -/

namespace Sys2Proof.Tests

open Sys2Proof Machine

set_option Elab.async false
set_option maxRecDepth 4000

/-! ### Helpers -/

/-- The next state of an outcome; the model has no other outcome. -/
def ran : Host.Outcome State Fault Refusal → State
  | .next t => t
  | .fault _ => State.reset
  | .refused _ => State.reset

/-- An option that is none has no element to speak about. -/
theorem none_all {α : Type} {x : Option α} {p : α → Prop} (h : x = none) : ∀ a, x = some a → p a := by
  intro a ha
  rw [h] at ha
  cases ha

/-- What holds of the one element of an option holds of every. -/
theorem some_all {α : Type} {x : Option α} {p : α → Prop} {b : α} (h : x = some b) (hb : p b) : ∀ a, x = some a → p a := by
  intro a ha
  rw [h] at ha
  cases ha
  exact hb

def noInput : InputConfig := ⟨true, .none, false, false, .none⟩

/-- IN0 the breaker, IN1 and IN2 the keys, IN3 a cascade input that is active low. -/
def inputs : Vector InputConfig 16 :=
  #v[⟨true, .both, true, false, .breaker⟩, ⟨true, .none, false, false, .handKey⟩, ⟨true, .rising, false, false, .takeKey⟩,
    ⟨false, .rising, true, false, .none⟩, noInput, noInput, noInput, noInput, noInput, noInput, noInput, noInput, noInput, noInput,
    noInput, noInput]

/-- A unit node that is a post too. -/
def cfg : NodeConfig where
  unitRole := true
  postRole := true
  qFast := 2
  qNormal := 2
  chatterMs := 50
  chatterCount := 3
  trim := 1
  quorum := 3
  boundUs := 1000
  slewUs := 100
  shortLimit := 3
  formationWait := 3
  spanMs := 1000
  settleMs := 500
  pulsesPerRev := 16
  standstill := 100
  spin := 200
  boundaries := [360, 840, 1320]
  earlyMin := 10
  graceMin := 15
  pairingS := 30
  gatherS := 60
  expectedUnits := 0x0006
  enableMask := 0xFFFF
  mapA := 0x0001
  mapB := 0x2000
  inputs := inputs

/-- The same node with neither role. -/
def cfgPlain : NodeConfig := { cfg with unitRole := false, postRole := false }

/-- 05:50:00, ten minutes before the first boundary. -/
def date0 : Date := ⟨100, 21000000000⟩

/-- A second before and a second after `date0`. -/
def dateAtUs (us : Nat) : Date := ⟨100, us⟩

def stamp0 : Stamp := ⟨date0, .agreed⟩

def start0 : Start := ⟨date0, .agreed, 50000000⟩

/-- The node ACTIVE and AGREED, 50 s after its oscillator began to count. -/
def on : State :=
  { State.reset with
    time := ⟨50000000, 50000000, 0, 0, none⟩
    clock := ⟨date0, true⟩
    clu := { Clu.initial 50000000 with state := .agreed }
    isc := Isc.initial 50000000
    spu := Spu.initial 50000000
    run := Run.initial 50000000
    chk := Chk.initial 50000000
    lpt := ⟨.active, some cfg, none, []⟩ }

/-- CONFIGURED, the time valid. -/
def conf : State := { State.reset with lpt := ⟨.configured, some cfg, none, []⟩, clock := ⟨date0, true⟩ }

def onLif (f : Lif → Lif) : State := { on with lif := f on.lif }
def onClu (f : Clu → Clu) : State := { on with clu := f on.clu }
def onCsu (f : Csu → Csu) : State := { on with csu := f on.csu }
def onSpu (f : Spu → Spu) : State := { on with spu := f on.spu }
def onRun (f : Run → Run) : State := { on with run := f on.run }
def onTal (f : Tallies → Tallies) : State := { on with tallies := f on.tallies }
def onShu (f : Shu → Shu) : State := { on with shu := f on.shu }
def onSup (f : Sup → Sup) : State := { on with sup := f on.sup }
def onChk (f : Chk → Chk) : State := { on with chk := f on.chk }
def onEvq (q : Evq) : State := { on with evq := q }
def onCfg (c : NodeConfig) : State := { on with lpt := ⟨.active, some c, none, []⟩ }

def keyA : ShiftKey := ⟨100, 0⟩
def keyB : ShiftKey := ⟨100, 1⟩

/-! ### Ill-formed commands -/

theorem test_wf_configure_short : (Instr.configure 0 (List.replicate 128 0x00#8)).wellFormed = false := by decide

theorem test_wf_bit_beyond_longest_frame :
    (Instr.arbitrationLoss 0 136).wellFormed = false ∧ (Instr.driverFault 0 136).wellFormed = false
      ∧ (Instr.arbitrationLoss 0 135).wellFormed = true := by decide

theorem test_wf_intact_frame_of_wrong_check : (Instr.frameReceivedIntact 0 0x13#8 (List.replicate 9 0x00#8) 0).wellFormed = false := by
  decide +kernel

theorem test_wf_intact_frame_of_wrong_length :
    (Instr.frameReceivedIntact 0 0x13#8 (List.replicate 8 0x00#8) (crc16 (0x13#8 :: List.replicate 8 0x00#8))).wellFormed = false := by
  decide +kernel

theorem test_wf_check_error_whose_check_matches :
    (Instr.checkError 0 0x13#8 (List.replicate 9 0x00#8) (crc16 (0x13#8 :: List.replicate 9 0x00#8)) true).wellFormed = false := by
  decide +kernel

theorem test_wf_invalid_kind_of_a_valid_header : (Instr.formError 0 (.invalidKind 0x21#8)).wellFormed = false := by decide

theorem test_wf_idle_before_its_gap : (Instr.lineIdle ⟨0, 79⟩).wellFormed = false ∧ (Instr.lineIdle ⟨0, 80⟩).wellFormed = true := by decide

theorem test_wf_gather_of_no_boundary : (Instr.gatherExpiry 0 ⟨0, 6⟩).wellFormed = false := by decide

/-! ### The manual's figures -/

/-- The check of the Station Line (R8): the register over the nine digits, as this generator gives it. -/
theorem test_crc16_of_digits :
    crc16 [0x31#8, 0x32#8, 0x33#8, 0x34#8, 0x35#8, 0x36#8, 0x37#8, 0x38#8, 0x39#8] = 0x29B1#16 := by decide +kernel

/-- The record check (R73) over the nine digits. -/
theorem test_crc8_of_digits :
    crc8 [0x31#8, 0x32#8, 0x33#8, 0x34#8, 0x35#8, 0x36#8, 0x37#8, 0x38#8, 0x39#8] = 0xF4#8 := by decide +kernel

/-- Table 1-8: the headers of node 5's HANDOVER and of the MARKs of nodes 3 and 7. -/
theorem test_headers : headerByte .handover 5 = 0x25#8 ∧ headerByte .mark 3 = 0x33#8 ∧ headerByte .mark 7 = 0x37#8
    ∧ headerKind 0x25#8 = some .handover ∧ headerNode 0x37#8 = 7 := by decide

/-- Table 2-7 and Table 2-8: the midpoint −135 of the four eligible readings, and the trim. -/
theorem test_midpoint : midpointOf (sortReadings [-95, -295, 85, -175]) (trimOf 1 4) = -135 ∧ trimOf 3 2 = 0 := by decide

/-- Table 2-9: −220 is worked off as −100, −100, −20. -/
theorem test_slew_amounts : slewAmount (-220) 100 = -100 ∧ slewAmount (-20) 100 = -20 ∧ slewAmount 0 100 = 0 := by decide

/-- R26: the first cycles of a backup run and the whole run. -/
theorem test_backup_cycles : backupUs 0 1 = 30 ∧ backupUs 1 1 = 31 ∧ backupUs 0 32768 = 1000000 := by decide

/-- Table 6-2. -/
theorem test_speeds : speedOf 25000 16 = 1500 ∧ speedOf 200000 16 = 187 ∧ speedOf 7500 8 = 10000 ∧ speedOf 2000000 64 = 4
    ∧ speedOf 20 1 = 30000000 := by decide

/-- R1: day 65,535 is earlier than day 0, and the difference across it is one day. -/
theorem test_day_circle : (Date.mk 65535 0).earlier ⟨0, 0⟩ = true ∧ (Date.mk 0 0).minus ⟨65535, 0⟩ = 86400000000
    ∧ (Date.mk 65535 86399999999).plus 1 = ⟨0, 0⟩ ∧ (Date.mk 0 0).plus (-1) = ⟨65535, 86399999999⟩ := by decide

/-- R1: a key kept on day 65,535 has, on day 32,768, keys later than it up to day 32,766, half the circle on. -/
theorem test_keys_half_a_circle_on :
    ({ on with clock := ⟨⟨32768, 0⟩, true⟩ } : State).keysSince ⟨65535, 2⟩ =
      [⟨32765, 1⟩, ⟨32765, 2⟩, ⟨32766, 0⟩, ⟨32766, 1⟩, ⟨32766, 2⟩] := by decide +kernel

/-- Table 1-1 and figure 1-1. -/
theorem test_line_timing : (bitPeriodUs 0 = 20 ∧ bitPeriodUs 3 = 26) ∧ (idleGapUs 0 = 80 ∧ idleGapUs 3 = 104) := by decide

/-- Table 4-1: the units of a step amount. -/
theorem test_step_amounts : stepAmount 2147483647 = (0, 2147483647) ∧ stepAmount (-2147483648) = (1, -2147483)
    ∧ stepAmount 2147483647001 = (2, 35791) := by decide

/-- R142: the latest key at or before a date, also before the day's first boundary. -/
theorem test_latest_key : latestKeyAt cfg.boundaries date0 = ⟨99, 2⟩ ∧ latestKeyAt cfg.boundaries (dateAtUs 21600000000) = keyA
    ∧ nextKey cfg.boundaries ⟨99, 2⟩ = keyA := by decide

/-! ### The configuration block -/

def blockHead : List Byte :=
  [0x03#8, 0x02#8, 0x02#8, 0x00#8, 0x32#8, 0x03#8, 0x01#8, 0x03#8, 0x03#8, 0xE8#8, 0x00#8, 0x64#8, 0x03#8, 0x03#8, 0x03#8, 0xE8#8,
    0x01#8, 0xF4#8, 0x10#8, 0x00#8, 0x64#8, 0x00#8, 0xC8#8, 0x03#8]
  ++ [0x01#8, 0x68#8, 0x03#8, 0x48#8, 0x05#8, 0x28#8, 0x00#8, 0x00#8, 0x00#8, 0x00#8, 0x00#8, 0x00#8, 0x0A#8, 0x0F#8, 0x00#8, 0x1E#8,
    0x3C#8, 0x00#8, 0x06#8, 0xFF#8, 0xFF#8, 0x00#8, 0x01#8, 0x20#8, 0x00#8]

def blockKeys : List Byte :=
  [0x01#8, 0x03#8, 0x01#8, 0x00#8, 0x01#8] ++ [0x01#8, 0x00#8, 0x00#8, 0x00#8, 0x02#8] ++ [0x01#8, 0x01#8, 0x00#8, 0x00#8, 0x03#8]
  ++ [0x00#8, 0x01#8, 0x01#8, 0x00#8, 0x00#8]

/-- Inputs 4 to 15, with nothing selected. -/
def blockRest : List Byte := (List.replicate 12 [0x01#8, 0x00#8, 0x00#8, 0x00#8, 0x00#8]).flatten

/-- The block of `cfg`. -/
def block : List Byte := blockHead ++ blockKeys ++ blockRest

theorem test_block_gives_cfg : block.length = 129 ∧ configOf (valuesOf block) = cfg := by decide +kernel

theorem test_block_has_no_failing_field : firstFailing (valuesOf block) = none := by decide +kernel

/-- Field 1 above 3; a Tc of 55 ms; the keys on a unit node; no TAKE KEY on a post. -/
theorem test_failing_fields :
    firstFailing (valuesOf (0x04#8 :: block.drop 1)) = some 1
      ∧ firstFailing (valuesOf (block.set 4 0x37#8)) = some 4
      ∧ firstFailing (valuesOf (0x01#8 :: block.drop 1)) = some 49
      ∧ firstFailing (valuesOf (block.set 63 0x00#8)) = some 120 := by decide +kernel

/-! ### Hypotheses met: steps, queue, Local Port

Each theorem shows states and operands that meet the hypotheses of the statement it is named after, clause by clause. -/

/-- A due step (the second that has run out) and a state in which none is due, with a step of a pass beside it. -/
theorem test_meets_EmptyQueueTicks :
    (State.reset.pending = [] ∧ State.reset.dueTimed = [])
    ∧ (({ State.reset with time := { State.reset.time with elapsed := 1000000 } } : State).pending = []
      ∧ ({ State.reset with time := { State.reset.time with elapsed := 1000000 } } : State).dueTimed ≠ [])
    ∧ (({ State.reset with chk := { State.reset.chk with pass := some .tally } } : State).after 1).dueCheck ≠ [] := by decide +kernel

def kept : State := onSup fun u => { u with state := .keepAlive, backupPhase := 32767 }

/-- A second that slews by −100 µs, half of it passed: 50 of its points lie behind. -/
def slewingSecond : State := { on with time := ⟨50500000, 50000000, -100, 50, none⟩ }

/-- 1 µs before the boundary of `keyA`, the last reached key the one before. -/
def beforeKey : State :=
  { onShu (fun u => { u with lastReached := some ⟨99, 2⟩ }) with clock := ⟨dateAtUs 21599999999, true⟩ }

theorem test_meets_TimePasses : (on.sup.state = .run ∧ on.active = true ∧ on.clock.valid = true ∧ on.shu.lastReached = none)
    ∧ (slewingSecond.sup.state = .run ∧ (slewingSecond.after 10000).time.spreadDone = 51
      ∧ (slewingSecond.after 10000).clock.date = dateAtUs 21000009999)
    ∧ ((beforeKey.after 1).clock.date.second ≠ beforeKey.clock.date.second
      ∧ (beforeKey.after 1).clock.date.day = beforeKey.clock.date.day)
    ∧ (beforeKey.active = true ∧ beforeKey.clock.valid = true ∧ beforeKey.shu.lastReached = some ⟨99, 2⟩
      ∧ beforeKey.shu.keyDue = none
      ∧ (boundaryTime beforeKey.cfg.boundaries (nextKey beforeKey.cfg.boundaries ⟨99, 2⟩)).minus beforeKey.clock.date = 1)
    ∧ (beforeKey.after 1).shu.keyDue.isSome = true
    ∧ kept.sup.state = .keepAlive
    ∧ (onSup fun u => { u with state := .restoring, freshMark := true }).sup.state = .restoring
    ∧ (onSup fun u => { u with state := .off }).sup.state = .off ∧ 32767 < 32768 := by decide +kernel

/-- Every state that a step leads from and to in the four invariants. -/
theorem test_meets_Kept : (∃ t, step on.finish = .next t)
    ∧ on.finish.attends ∧ (on.finish.evq.sound ∧ on.finish.evq.chained) ∧ on.finish.coherent ∧ on.finish.balanced
    ∧ on.finish.bounded := by
  refine ⟨⟨_, rfl⟩, ⟨?_, ?_, ?_, fun l => by cases l <;> rfl⟩, ⟨?_, trivial⟩, ?_, ?_, ?_⟩
  · unfold State.outputsFollow
    decide +kernel
  · unfold State.levelsSet
    decide +kernel
  · rw [if_pos (by decide)]
    decide +kernel
  · unfold Evq.sound
    decide +kernel
  · unfold State.coherent
    decide +kernel
  · unfold State.balanced
    decide +kernel
  · refine ⟨by decide, by decide, by decide, ?_, none_all rfl, by decide, by decide, ?_, none_all rfl⟩
    · intro c hc
      exact absurd hc (by decide +revert)
    · intro r hr
      exact absurd hr (by decide +revert)

/-- The node in KEEP-ALIVE shows nothing: a state of the first invariant in which the main domain does not work. -/
theorem test_meets_Kept_attends_in_keep_alive : kept.finish.working = false ∧ kept.finish.attends := by
  refine ⟨by decide, ?_, fun h => absurd h (by decide), ?_, fun l => by cases l <;> rfl⟩
  · unfold State.outputsFollow
    decide +kernel
  · show ∀ l, (kept.finish.atl.lamp l).pattern = .off
    intro l
    cases l <;> rfl

def aRecord : Record := Evq.recordFor ⟨[], 0⟩ .speedSilent stamp0 0 0

def queueOf (n : Nat) : Evq := ⟨List.replicate n aRecord, 0⟩

def queueLost (n : Nat) : Evq := ⟨List.replicate n aRecord ++ [overflowFor aRecord], 0⟩

theorem test_meets_RecordRequestIsPlaced : (onEvq (queueOf 254)).evq.records.length < 255
    ∧ (255 ≤ (onEvq (queueOf 255)).evq.records.length ∧ (onEvq (queueOf 255)).evq.openOverflow = none)
    ∧ (255 ≤ (onEvq (queueLost 254)).evq.records.length ∧ (onEvq (queueLost 254)).evq.openOverflow = some (overflowFor aRecord))
    ∧ (255 ≤ (onEvq (queueLost 255)).evq.records.length ∧ (onEvq (queueLost 255)).evq.openOverflow = some (overflowFor aRecord)) := by
  decide +kernel

theorem test_meets_ConfigureAnswers :
    ((State.reset.after 0).portOpen = true ∧ (State.reset.after 0).lpt.nodeState = .unconfigured ∧ block.length = 129
      ∧ firstFailing (valuesOf block) = none)
    ∧ (block.drop 1).length ≠ 129
    ∧ ((conf.after 0).portOpen = true ∧ (conf.after 0).lpt.nodeState = .configured)
    ∧ ((on.after 0).portOpen = true ∧ (on.after 0).lpt.nodeState = .active)
    ∧ ((0x04#8 :: block.drop 1).length = 129 ∧ firstFailing (valuesOf (0x04#8 :: block.drop 1)) = some 1)
    ∧ (valuesOf block 41 ≤ 3 ∧ valuesOf block 44 ≤ 3) := by decide +kernel

def confPlain : State := { conf with lpt := ⟨.configured, some cfgPlain, none, []⟩, clock := ⟨date0, false⟩ }

/-- CONFIGURED with the monitor LOCKED, the last closed and the last accepted key four boundaries back. -/
def confLocked : State :=
  { conf with
    clu := { conf.clu with monitor := .locked 0 }
    tallies := { conf.tallies with lastClosed := some ⟨98, 1⟩ }
    lastAccepted := some ⟨98, 1⟩ }

theorem test_meets_OpenAnswers :
    ((conf.after 0).portOpen = true ∧ (conf.after 0).lpt.nodeState = .configured ∧ (conf.after 0).clu.state = .solo
      ∧ (conf.after 0).clock.valid = true ∧ (conf.after 0).evq.records.length < 253
      ∧ ((conf.after 0).clu.monitor.isLocked && (conf.after 0).clock.valid) = false)
    ∧ ((confLocked.after 0).portOpen = true ∧ (confLocked.after 0).lpt.nodeState = .configured ∧ (confLocked.after 0).clu.state = .solo
      ∧ ((confLocked.after 0).clu.monitor.isLocked && (confLocked.after 0).clock.valid) = true)
    ∧ ((confPlain.after 0).portOpen = true ∧ (confPlain.after 0).lpt.nodeState = .configured ∧ (confPlain.after 0).clu.state = .solo
      ∧ (confPlain.after 0).clock.valid = false ∧ (confPlain.after 0).cfg.unitRole = false ∧ (confPlain.after 0).cfg.postRole = false)
    ∧ (State.reset.after 0).lpt.nodeState = .unconfigured ∧ (on.after 0).lpt.nodeState = .active
    ∧ (conf.clock.valid = true ∧ conf.cfg.postRole = true ∧ conf.lastAccepted = none)
    ∧ (confLocked.cfg.postRole = true ∧ confLocked.lastAccepted = some ⟨98, 1⟩
      ∧ confLocked.keysSince ⟨98, 1⟩ = [⟨98, 2⟩, ⟨99, 0⟩, ⟨99, 1⟩, ⟨99, 2⟩])
    ∧ (conf.keysSince ⟨99, 2⟩ = [] ∧ (boundaryTime cfg.boundaries ⟨99, 2⟩).later conf.clock.date = false)
    ∧ (cfg.boundaries ≠ [] ∧ cfg.boundaries.Pairwise (· < ·) ∧ (∀ m ∈ cfg.boundaries, m < 1440)
      ∧ conf.clock.date.us < 86400000000)
    ∧ ((conf.keysSince ⟨97, 2⟩).length = 5 ∧ conf.keysSince ⟨97, 2⟩ = [⟨98, 1⟩, ⟨98, 2⟩, ⟨99, 0⟩, ⟨99, 1⟩, ⟨99, 2⟩]
      ∧ (ShiftKey.mk 98 0).later ⟨97, 2⟩ = true ∧ (boundaryTime cfg.boundaries ⟨98, 0⟩).later conf.clock.date = false) := by
  decide +kernel

def joining : State := onClu fun u => { u with state := .joining }

def roundKey0 : RoundKey := ⟨100, 21000⟩

def round0 : Round := ⟨roundKey0, none, 0, none, []⟩

/-- A round with its own reading and three eligible entries of other nodes. -/
def roundFull : Round :=
  let e (n : NodeNo) : RoundEntry := ⟨n, ⟨2, true⟩, roundKey0, 100, 1, .eligible⟩
  ⟨roundKey0, some stamp0, 1, some 85, [e 1, e 2, e 3]⟩

theorem test_meets_SetTimeAnswers :
    ((joining.after 0).portOpen = true ∧ (joining.after 0).clu.state ≠ .agreed ∧ (joining.after 0).clu.state ≠ .referenced
      ∧ (86399999999#40).toNat ≤ 86399999999 ∧ (joining.after 0).clu.round = none)
    ∧ ((conf.after 0).portOpen = true ∧ (conf.after 0).clu.state = .solo ∧ (conf.after 0).active = false)
    ∧ ((onClu fun u => { u with state := .holdover, round := some round0 }).after 0).clu.round = some round0
    ∧ (joining.after 0).evq.records.length < 255
    ∧ ((on.after 0).portOpen = true ∧ (on.after 0).clu.state = .agreed)
    ∧ 86399999999 < (86400000000#40).toNat := by decide

def preset0 : TallyFields := ⟨0, 0, 0, 5, 4, 1, 3, 0⟩

theorem test_meets_PresetTallyAnswers :
    ((conf.after 0).portOpen = true ∧ (conf.after 0).lpt.nodeState ≠ .active
      ∧ preset0.trips.toNat + preset0.normalStops.toNat = preset0.syncs.toNat)
    ∧ (on.after 0).lpt.nodeState = .active
    ∧ ({ preset0 with trips := 2 } : TallyFields).trips.toNat + preset0.normalStops.toNat ≠ preset0.syncs.toNat := by decide

/-- The hypothesis that the statements about the commands of the Local Port share. -/
theorem test_meets_portOpen : (on.after 0).portOpen = true := by decide

/-- A pass that stands at a tally, or at a baseline, whose check is wrong. -/
def wrongTally : State :=
  { onTal (fun t => { t with tally := { t.tally with check := 0 } }) with chk := { on.chk with pass := some .tally } }

def wrongBaseline (suspect : Bool) : State :=
  { onTal (fun t => { t with baseline := { t.baseline with check := 0 }, tally := { t.tally with suspect := suspect } }) with
    chk := { on.chk with pass := some .baseline } }

theorem test_meets_AcceptTallyAccepts : ((on.after 0).portOpen = true ∧ (on.after 0).chk.pass = none)
    ∧ ((wrongTally.after 0).portOpen = true ∧ (wrongTally.after 0).chk.pass = some .tally
      ∧ tallyCheck (wrongTally.after 0).tallies.tally ≠ (wrongTally.after 0).tallies.tally.check)
    ∧ (∀ suspect, ((wrongBaseline suspect).after 0).portOpen = true
      ∧ ((wrongBaseline suspect).after 0).chk.pass = some .baseline
      ∧ baselineCheck ((wrongBaseline suspect).after 0).tallies.baseline.fields
        ≠ ((wrongBaseline suspect).after 0).tallies.baseline.check
      ∧ ((wrongBaseline suspect).after 0).tallies.tally.suspect = suspect) := by decide +kernel

def closed0 : ClosedRound := closedRoundOf roundFull .agreed ⟨[], false, 0, 0, 0, 0⟩ .none

def unitShift0 : UnitShift := unitShiftFor Tallies.initial .agreed ⟨keyA, false, false, false⟩

def accepted0 : UnitShift := { unitShift0 with acceptance := some ⟨.onTime, stamp0, 7, 3⟩ }

def member0 : Member := ⟨3, 3, true, stamp0, true, stamp0⟩

def cascade0 : Cascade := cascadeOf member0

/-- A node with something in every item that READ STATUS gives. -/
def reporting : State :=
  { (on.setInput 3 ⟨some true, 0, none, .locked 51000000 2 none, .none⟩).setInput 9 ⟨some false, 0, none, .quiet, .none⟩ with
    csu := ⟨some ⟨{ cascade0 with doubtful := true, late := true }, 51500999⟩, some member0, [], 1, 2⟩
    run := { on.run with state := .spinning, stop := some ⟨stamp0, 48400000, .waiting 50002500⟩ }
    spu := { on.spu with phase := .measuring 49000000, silent := true }
    shu := { on.shu with
      lastReached := some ⟨99, 2⟩
      mode := .due
      target := some keyA
      grace := some ⟨2000000, 49000000⟩
      held := some ⟨.take, stamp0, 49000000, keyA⟩
      heldResult := some (keyB, ⟨.onTime, stamp0, 7, some 3, none, true⟩)
      records := [⟨⟨99, 1⟩, [], none, 0, .complete⟩, ⟨⟨99, 2⟩, [], none, 0, .gathering⟩]
      lastCreated := some ⟨99, 2⟩ }
    lastAccepted := some ⟨99, 2⟩
    sup := { on.sup with firstFailure := some (.unitShift, 3), failureOverflow := true } }

/-- Table 12-12 on that node: inputs, cascade, slot, stop, phase, post and first failure. -/
theorem test_status_places :
    let at_ := fieldAt (statusData reporting)
    (at_ 19 2 = 2 ^ 3 + 2 ^ 9 ∧ at_ 21 2 = 2 ^ 3 ∧ at_ 23 2 = 2 ^ 3)
      ∧ (at_ 35 1 = 1 + 2 + 8 + 16 + 32 ∧ at_ 46 2 = 1500 ∧ at_ 48 1 = 0x33 ∧ at_ 49 2 = 100 ∧ at_ 51 5 = 21000000000)
      ∧ (at_ 61 2 = 100 ∧ at_ 63 5 = 21000000000 ∧ at_ 68 1 = 2 ∧ at_ 69 2 = 2 ∧ at_ 71 1 = 2 + 4)
      ∧ (at_ 83 3 = 99 * 256 + 2 ∧ at_ 86 1 = 2 + 4 + 8 ∧ at_ 87 3 = 100 * 256 ∧ at_ 90 3 = 3 ∧ at_ 93 3 = 29000)
      ∧ (at_ 96 3 = 99 * 256 + 2 ∧ at_ 99 3 = 99 * 256 + 2 ∧ at_ 102 3 = 100 * 256 + 1 ∧ at_ 105 1 = 2 ∧ at_ 106 2 = 3 + 4)
      ∧ (at_ 117 1 = 2 ∧ at_ 118 1 = 3) := by decide +kernel

/-- A grace timer of 16,777,216 s and more shows the low 24 bits of its seconds (log 27). -/
theorem test_long_grace_shows_low_bits :
    fieldAt (statusData (onShu fun u => { u with grace := some ⟨16777221999999, 50000000⟩ })) 90 3 = 5 := by decide +kernel

theorem test_meets_ReadsAnswer : (on.after 0).clu.lastClosed = none
    ∧ ((onClu fun u => { u with lastClosed := some closed0 }).after 0).clu.lastClosed = some closed0
    ∧ 3 < (4#8).toNat ∧ ((3#8).toNat ≤ 3 ∧ (on.after 0).tallies.unitShifts[(3#8).toNat]? = none)
    ∧ ((onTal fun t => { t with unitShifts := [unitShift0] }).after 0).tallies.unitShifts[(0#8).toNat]? = some unitShift0
    ∧ (on.csu.current = none ∧ on.cfg.unitRole = true ∧ on.cfg.postRole = true ∧ on.shu.lastReached = none
      ∧ on.evq.openOverflow = none)
    ∧ ((onCfg cfgPlain).cfg.unitRole = false ∧ (onCfg cfgPlain).cfg.postRole = false)
    ∧ (onShu fun u => { u with lastReached := some keyA }).shu.lastReached = some keyA
    ∧ (on.tallies.lastClosed = none ∧ (onTal fun t => { t with lastClosed := some keyA }).tallies.lastClosed = some keyA)
    ∧ (unitShift0.acceptance = none ∧ accepted0.acceptance = some ⟨.onTime, stamp0, 7, 3⟩)
    ∧ (on.csu.slot = none ∧ on.run.stop = none ∧ on.shu.held = none ∧ on.shu.grace = none ∧ on.sup.firstFailure = none)
    ∧ (reporting.csu.slot = some member0 ∧ reporting.cfg.unitRole = true
      ∧ reporting.run.stop = some ⟨stamp0, 48400000, .waiting 50002500⟩ ∧ reporting.cfg.postRole = true
      ∧ reporting.shu.held = some ⟨.take, stamp0, 49000000, keyA⟩ ∧ reporting.shu.grace = some ⟨2000000, 49000000⟩
      ∧ reporting.sup.firstFailure = some (.unitShift, 3) ∧ reporting.shu.records.length < 8)
    ∧ (closed0.edge = some stamp0 ∧ ({ closed0 with edge := none } : ClosedRound).edge = none)
    ∧ ({ closed0 with entries := roundFull.entries } : ClosedRound).entries[2]? = some
        ⟨3, ⟨2, true⟩, roundKey0, 100, 1, .eligible⟩ := by
  decide +kernel


def station (k : ShiftKey) (st : RecordStatus) : StationRecord := ⟨k, [], none, 0, st⟩

/-- A result received from node 3. -/
def result0 : Result := ⟨.onTime, stamp0, 7, some 3, none, true⟩

def values0 : TallyValues := ⟨1, 2, 3, 4, 5, 6, 0⟩

/-- A TALLY frame with no last created key creates its key's record (R158, log 54). -/
theorem test_first_tally_creates_a_record :
    let t := on.tallyReceived 3 keyB values0
    t.shu.lastCreated = some keyB ∧ t.shu.records.map StationRecord.key = [keyB] ∧ t.shu.unmatched = 0 := by decide +kernel

theorem test_meets_ReadsThatRemove : ((onEvq (queueOf 2)).after 0).evq.records = aRecord :: [aRecord]
    ∧ (on.after 0).evq.records = [] ∧ ((onCsu fun u => { u with list := [cascade0] }).after 0).csu.list = cascade0 :: []
    ∧ (on.after 0).csu.list = []
    ∧ (((onShu fun u => { u with records := [station keyA .gathering, station keyB .complete] }).after 0).shu.records
          = [station keyA .gathering] ++ station keyB .complete :: []
        ∧ (∀ y ∈ [station keyA .gathering], y.status ≠ .complete) ∧ (station keyB .complete).status = .complete)
    ∧ (∀ y ∈ (on.after 0).shu.records, y.status ≠ .complete)
    ∧ (cascade0.members = member0 :: [] ∧ cascade0.members[0]? = some member0)
    ∧ ((station keyA .complete).result = none
      ∧ ({ station keyA .complete with result := some result0 } : StationRecord).result = some result0)
    ∧ ({ station keyA .complete with entries := [⟨1, none, false⟩, ⟨2, some values0, true⟩] } : StationRecord).entries[1]?
        = some ⟨2, some values0, true⟩ := by decide +kernel

def restoring : State := onChk fun c => { c with pass := some .tally, restorePass := true }

theorem test_meets_CommandTransactionIsExamined : (on.after 0).portPowered = true ∧ 0x0B#8 ≠ 0x00#8
    ∧ ((restoring.after 0).portPowered = true ∧ (restoring.after 0).portOpen = false)
    ∧ ((on.after 0).portOpen = true ∧ wellFramed (0x0B#8 :: [0x02#8, 0x00#8]) false = false ∧ wellFramed (0x0B#8 :: []) false = false)
    ∧ (wellFramed (0x0E#8 :: [0x00#8]) false = true ∧ 13 < (0x0E#8).toNat)
    ∧ (wellFramed (0x0B#8 :: [0x00#8]) false = true ∧ 0x0B#8 = CommandCode.readShift.byte
        ∧ (([0x00#8] : List Byte).drop 1).length ≠ CommandCode.readShift.arguments)
    ∧ (wellFramed (0x0B#8 :: [0x01#8, 0x03#8]) false = true
        ∧ (([0x01#8, 0x03#8] : List Byte).drop 1).length = CommandCode.readShift.arguments) := by decide

theorem test_meets_ReadsAndBusyPort : (on.after 0).portPowered = true ∧ (on.after 0).portOpen = true
    ∧ (on.after 0).lpt.response = none ∧ (restoring.after 0).portOpen = false
    ∧ (({ on with lpt := { on.lpt with response := some [0x03#8, 0x07#8] } } : State).after 0).lpt.response = some [0x03#8, 0x07#8] := by
  decide

/-! ### Hypotheses met: the Station Line -/

def inView (v : LineView) : State := onLif fun l => { l with view := v }

/-- Both wires high since a moment, at the fastest strapping. -/
def highSince (t : Nat) : State := onLif fun l => { l with view := .stuck, highFrom := t }

def inFrame : State := onLif fun l => { l with view := .frame, start := some start0, joinable := true }

/-- QUIET with both wires high since a moment, at the slowest strapping, a frame listed. -/
def atRest (t : Nat) : State := onLif fun l => { l with
  view := .quiet, highFrom := t, lineSpeed := 3, sendList := [⟨.trip stamp0 3 true, 0, 0, false, false⟩] }

/-- The own idle gap of 104 µs runs on through LINE_IDLE (R3, R9, R19). -/
theorem test_idle_gap_runs_on : Goes (exec (.lineIdle ⟨0, 104⟩) (atRest 49999896)) fun t => t.maySend = true :=
  ⟨_, rfl, by decide +kernel⟩

theorem test_meets_LineViewMoves : (on.after 0).working = true ∧ ((inView .quiet).after 0).lif.view = .quiet
    ∧ ((inView .idle).after 0).lif.view = .idle ∧ ((inView .stuck).after 0).lif.view = .stuck
    ∧ ((inFrame.after 0).lif.view = .frame ∧ (inFrame.after 0).lif.send = none ∧ (inFrame.after 0).lif.start = some start0
      ∧ (inFrame.after 0).lif.highFrom + 80 ≤ (inFrame.after 0).time.elapsed)
    ∧ (((atRest 49999896).after 0).lif.view = .quiet ∧ 80 ≤ 104
      ∧ ((atRest 49999896).after 0).lif.highFrom + 104 ≤ ((atRest 49999896).after 0).time.elapsed
      ∧ ((atRest 49999896).after 0).time.elapsed < ((atRest 49999896).after 0).lif.highFrom + 105)
    ∧ (((highSince 49999920).after 0).lif.highFrom + 80 ≤ ((highSince 49999920).after 0).time.elapsed
      ∧ ((highSince 49999921).after 0).time.elapsed < ((highSince 49999921).after 0).lif.highFrom + 80)
    ∧ (let gap (s : State) : Nat := 8 * (10 + s.lif.lineSpeed.toNat)
      ((highSince 49999920).after 0).lif.highFrom + gap (highSince 49999920) ≤ ((highSince 49999920).after 0).time.elapsed
        ∧ ((highSince 49999921).after 0).time.elapsed < ((highSince 49999921).after 0).lif.highFrom + gap (highSince 49999921)) := by
  decide

def tripContent : FrameContent := .trip stamp0 3 true

def queued (c : FrameContent) (n : Nat) (sending asked : Bool) : QueuedFrame := ⟨c, 0, n, sending, asked⟩

/-- A TRIP frame in a send, with an attempt count and a removal asked or not. -/
def tripSend : Send := ⟨frameBytes .trip 0 (tripBody stamp0 3 true), start0⟩

def sendingOf (f : QueuedFrame) : State := onLif fun l => { l with
  view := .frame, start := some start0, send := some tripSend, sendList := [f], ldatDriven := true }

theorem test_meets_LineSticks : ((on.after 0).working = true ∧ (on.after 0).lif.view ≠ .stuck ∧ (on.after 0).lif.send = none
      ∧ (on.after 0).lif.view ≠ .frame)
    ∧ ((inFrame.after 0).lif.send = none ∧ (inFrame.after 0).lif.view = .frame ∧ (inFrame.after 0).lif.start.isSome = true)
    ∧ (((sendingOf (queued tripContent 0 true false)).after 0).lif.view ≠ .stuck
      ∧ ((sendingOf (queued tripContent 0 true false)).after 0).lif.send = some tripSend
      ∧ ((sendingOf (queued tripContent 0 true false)).after 0).lif.frameInSend = some (queued tripContent 0 true false)
      ∧ ((sendingOf (queued tripContent 0 true false)).after 0).lif.waitingMark = none
      ∧ (queued tripContent 0 true false).removalAsked = false)
    ∧ (((sendingOf (queued tripContent 0 true true)).after 0).lif.frameInSend = some (queued tripContent 0 true true)
      ∧ (queued tripContent 0 true true).removalAsked = true)
    ∧ (onLif fun l => { l with view := .frame }).lif.start = none := by decide +kernel

def waitingTrip (v : LineView) : State := onLif fun l => { l with
  view := v, start := some start0, joinable := true, sendList := [queued tripContent 0 false false] }

/-- A start condition seen so long ago, at the moment `on` stands at. -/
def startSeenAgo (us : Nat) : State := onLif fun l => { l with
  view := .frame, start := some { start0 with osc := 50000000 - us }, joinable := true
  sendList := [queued tripContent 0 false false] }

theorem test_meets_SendBegins : ((waitingTrip .idle).after 0).active = true
    ∧ ((waitingTrip .idle).after 0).lif.sendList = queued tripContent 0 false false :: []
    ∧ (((waitingTrip .idle).after 0).lif.send = none ∧ ((waitingTrip .idle).after 0).lif.view = .idle
      ∧ ((waitingTrip .idle).after 0).lif.highFrom + 8 * (10 + ((waitingTrip .idle).after 0).lif.lineSpeed.toNat)
        ≤ ((waitingTrip .idle).after 0).time.elapsed)
    ∧ (((startSeenAgo 13).after 0).active = true ∧ ((startSeenAgo 13).after 0).lif.view = .frame
      ∧ ((startSeenAgo 13).after 0).lif.send = none ∧ ((startSeenAgo 13).after 0).lif.joinable = true
      ∧ ((startSeenAgo 13).after 0).lif.start = some { start0 with osc := 49999987 }
      ∧ ((startSeenAgo 13).after 0).time.elapsed ≤ 49999987 + 13)
    ∧ (((startSeenAgo 14).after 0).lif.start = some { start0 with osc := 49999986 }
      ∧ 49999986 + 13 < ((startSeenAgo 14).after 0).time.elapsed)
    ∧ (((sendingOf (queued tripContent 0 true false)).after 0).active = true
      ∧ ((sendingOf (queued tripContent 0 true false)).after 0).lif.sendList = queued tripContent 0 true false :: []
      ∧ ((sendingOf (queued tripContent 0 true false)).after 0).lif.send = some tripSend) := by decide +kernel

def markFrame (k : RoundKey) (sending : Bool) : QueuedFrame := queued (.mark k) 0 sending false

def withMark (sending : Bool) (waiting : Option RoundKey) : State := onLif fun l => { l with
  sendList := [markFrame roundKey0 sending], waitingMark := waiting }

theorem test_meets_OwnMarkHandled :
    ((onClu fun u => { u with round := some roundFull }).clu.round = some roundFull ∧ roundFull.key = roundKey0
      ∧ roundFull.ownReading = some 85)
    ∧ (∀ r, on.clu.round = some r → r.key = roundKey0 → r.ownReading = none)
    ∧ conf.active = false ∧ (on.active = true ∧ on.lif.sendList.find? QueuedFrame.isMark = none)
    ∧ ((withMark false none).lif.sendList.find? QueuedFrame.isMark = some (markFrame roundKey0 false)
      ∧ (markFrame roundKey0 false).inSend = false)
    ∧ ((withMark true none).lif.sendList.find? QueuedFrame.isMark = some (markFrame roundKey0 true)
      ∧ (markFrame roundKey0 true).inSend = true)
    ∧ (withMark true (some roundKey0)).lif.waitingMark = some roundKey0
    ∧ ((withMark false none).lif.waitingMark ≠ some roundKey0
      ∧ (withMark false none).lif.sendList.find? (QueuedFrame.isMarkOf roundKey0) = some (markFrame roundKey0 false))
    ∧ (on.lif.waitingMark ≠ some roundKey0 ∧ on.lif.sendList.find? (QueuedFrame.isMarkOf roundKey0) = none) := by
  refine ⟨by decide +kernel, none_all rfl, ?_⟩
  decide +kernel

theorem test_meets_SendBreaksOff : ((sendingOf (queued tripContent 0 true false)).after 0).working = true
    ∧ ((sendingOf (queued tripContent 0 true false)).after 0).lif.send = some tripSend
    ∧ ((sendingOf (queued tripContent 0 true false)).after 0).lif.frameInSend = some (queued tripContent 0 true false)
    ∧ (frameBits tripSend.bytes)[0]? = some false ∧ (frameBits tripSend.bytes)[3]? = some true
    ∧ (frameBits tripSend.bytes).length = 96 ∧ (frameBits tripSend.bytes)[96]? = none ∧ (7 : Nat) < 8 := by decide +kernel

/-- A LOCAL result of `keyA` with an own frame state, and the post that holds it. -/
def ownResult (own : Option OwnFrame) : Result := ⟨.onTime, stamp0, 7, none, own, false⟩

def withResult (own : Option OwnFrame) : State :=
  { onShu (fun u => { u with heldResult := some (keyA, ownResult own) }) with lastAccepted := some keyA }

theorem test_meets_AttemptEnds : ((sendingOf (queued tripContent 1 true false)).after 0).working = true
    ∧ ((sendingOf (queued tripContent 1 true false)).after 0).lif.send = some tripSend
    ∧ ((sendingOf (queued tripContent 1 true false)).after 0).lif.frameInSend = some (queued tripContent 1 true false)
    ∧ (queued tripContent 1 true false).kind ≠ .mark
    ∧ ((queued tripContent 1 true false).removalAsked = false ∧ (queued tripContent 1 true false).attempts + 1 < 3)
    ∧ 3 ≤ (queued tripContent 2 true false).attempts + 1 ∧ (queued tripContent 0 true true).removalAsked = true
    ∧ (tripContent.kind ≠ .handover ∧ on.shu.resultOf keyA = none)
    ∧ ((withResult (some .heard)).shu.resultOf keyA = some (ownResult (some .heard)) ∧ (ownResult (some .heard)).own ≠ some .pending)
    ∧ ((withResult (some .pending)).shu.resultOf keyA = some (ownResult (some .pending))
      ∧ (ownResult (some .pending)).own = some .pending)
    ∧ (on.shu.recordOf keyA = none
      ∧ (onShu fun u => { u with records := [station keyA .awaitingAcceptance] }).shu.recordOf keyA
        = some (station keyA .awaitingAcceptance))
    ∧ (tripContent = .trip stamp0 3 true ∧ FrameContent.handover keyA .onTime date0 7 = .handover keyA .onTime date0 7
      ∧ FrameContent.tally keyA values0 = .tally keyA values0) := by decide +kernel

theorem test_meets_MarkAttemptEnds : ((sendingOf (markFrame roundKey0 true)).after 0).working = true
    ∧ ((sendingOf (markFrame roundKey0 true)).after 0).lif.send = some tripSend
    ∧ ((sendingOf (markFrame roundKey0 true)).after 0).lif.frameInSend = some (markFrame roundKey0 true)
    ∧ (markFrame roundKey0 true).content = .mark roundKey0 := by decide +kernel

def tripBody0 : List Byte := tripBody stamp0 3 true

def tallyBody0 (k : ShiftKey) : List Byte := tallyBody k values0

/-- A MARK of the round of a boundary second, from a sender in AGREED or JOINING, with its reading. -/
def markBody0 (second : Nat) (code : BitVec 3) (reading : Int) : List Byte := markBody ⟨100, second⟩ ⟨code, true⟩ reading 2

/-- An edge of node 2 in the start list, dated at `date0` and so old. -/
def withEdge (age : Nat) (state : ClockState) : State :=
  onClu fun u => { u with state := state, startList := u.startList.set 2 (some { start0 with osc := 50000000 - age }) }

theorem test_meets_IntactFrameReceived : ((inFrame.after 0).working = true ∧ (inFrame.after 0).lif.view = .frame
      ∧ (inFrame.after 0).lif.send = none ∧ (inFrame.after 0).lif.start = some start0 ∧ (inFrame.after 0).lif.counted = false)
    ∧ (headerKind 0x13#8 = some .trip ∧ tripBody0.length = FrameKind.trip.bodyLength
      ∧ headerNode 0x10#8 = (inFrame.after 0).lif.nodeNumber ∧ headerNode 0x13#8 ≠ (inFrame.after 0).lif.nodeNumber)
    ∧ (inFrame.after 0).active = true
    ∧ (({ inFrame with lpt := Lpt.initial } : State).after 0).active = false
    ∧ (ClockState.agreed.code = fieldAt tripBody0 7 1 ∧ fieldAt tripBody0 2 5 < 86400000000
      ∧ 4 < fieldAt (tripBody0.set 7 0x05#8) 7 1 ∧ 86400000000 ≤ fieldAt (tripBody0.set 2 0xFF#8) 2 5) := by decide +kernel

/-- A HANDOVER body at the ends of the ranges of its fields, and past them. -/
theorem test_meets_IntactFrameReceived_fields :
    let sound := handoverBody ⟨100, 2⟩ .missed ⟨100, 86399999999⟩ 7
    (HandoverOutcome.missed.code = fieldAt sound 3 1 ∧ fieldAt sound 2 1 < 3 ∧ fieldAt sound 6 5 < 86400000000)
      ∧ fieldAt (sound.set 3 0x00#8) 3 1 = 0 ∧ 4 < fieldAt (sound.set 3 0x05#8) 3 1 ∧ 3 ≤ fieldAt (sound.set 2 0x03#8) 2 1
      ∧ 86400000000 ≤ fieldAt (handoverBody keyA .onTime ⟨100, 86400000000⟩ 7) 6 5 := by decide +kernel

/-- The unit list of the hypotheses on a HANDOVER at the Run Unit: one record of the key accepted already, the next not. -/
theorem test_meets_IntactFrameReceived_handover :
    readHandover on.cfg.boundaries.length (handoverBody ⟨100, 3⟩ .onTime date0 7) = none
    ∧ readHandover on.cfg.boundaries.length (handoverBody keyA .onTime date0 7) = some (keyA, .onTime, date0, 7)
    ∧ (∀ u ∈ on.tallies.unitShifts, u.key = keyA → u.acceptance.isSome = true)
    ∧ ((onTal fun t => { t with unitShifts := [accepted0, unitShift0] }).tallies.unitShifts = [accepted0] ++ unitShift0 :: []
      ∧ (∀ x ∈ [accepted0], x.key = keyA → x.acceptance.isSome = true) ∧ unitShift0.key = keyA ∧ unitShift0.acceptance = none) := by
  decide +kernel

theorem test_meets_IntactFrameReceived_tally : (onCfg cfgPlain).cfg.postRole = false
    ∧ (on.cfg.postRole = true ∧ on.cfg.boundaries.length ≤ (readTallyBody (tallyBody0 ⟨100, 3⟩)).1.index)
    ∧ ((readTallyBody (tallyBody0 keyA)).1 = keyA ∧ keyA.index < on.cfg.boundaries.length
      ∧ keyA.laterThan on.shu.lastCreated = true ∧ (on.createRecord keyA).shu.recordOf keyA = some ⟨keyA, [], none, 50000000, .gathering⟩)
    ∧ (let s := onShu fun u => { u with records := [station keyA .gathering, station keyB .complete], lastCreated := some keyB }
      keyA.laterThan s.shu.lastCreated = false ∧ keyB.laterThan s.shu.lastCreated = false
        ∧ s.shu.recordOf keyA = some (station keyA .gathering) ∧ s.shu.recordOf keyB = some (station keyB .complete)) := by
  decide +kernel

/-- An early opening at the boundary and 200 ms before it, and not 1 µs earlier; an entry held already; both dispositions of
a reading at its limits. -/
theorem test_meets_IntactFrameReceived_mark :
    (on.clu.round = none ∧ (readMark (markBody0 21000 2 (-200000))).key = ⟨100, 21000⟩
      ∧ (⟨100, 21000⟩ : RoundKey).boundary.minus on.clock.date = 0 ∧ on.clu.lastKey ≠ some ⟨100, 21000⟩)
    ∧ ((⟨100, 21000⟩ : RoundKey).boundary.minus (dateAtUs 20999800000) = 200000
      ∧ (⟨100, 21000⟩ : RoundKey).boundary.minus (dateAtUs 20999799999) = 200001)
    ∧ ((readMark (markBody0 21000 2 (-200000))).reading = -200000 ∧ (readMark (markBody0 21000 2 400001)).reading = 400001
      ∧ (readMark (markBody0 21000 2 0)).status.sound = true ∧ (readMark (markBody0 21000 1 0)).status.sound = false
      ∧ (readMark (markBody0 21000 2 0)).edgeSender = 2)
    ∧ ((onClu fun u => { u with round := some round0 }).clu.round = some round0 ∧ (∀ e ∈ round0.entries, e.node ≠ (2 : NodeNo)))
    ∧ ((onClu fun u => { u with round := some roundFull }).clu.round = some roundFull ∧ ∃ e ∈ roundFull.entries, e.node = (2 : NodeNo)) := by
  decide +kernel

/-- The time test: an edge 1 s old, an implied time 200,001 µs from it, and the limits just inside. -/
theorem test_meets_IntactFrameReceived_time :
    (let s := withEdge 1000000 .joining
      let m := readMark (markBody0 21000 2 200001)
      m.status.sound = true ∧ m.key.second ≤ 86399 ∧ s.clu.startList[m.edgeSender.val] = some { start0 with osc := 49000000 }
        ∧ s.time.elapsed - 49000000 ≤ 1000000 ∧ 200000 < ((m.key.boundary.plus m.reading).minus start0.date).natAbs
        ∧ s.clu.state = .joining)
    ∧ (withEdge 0 .agreed).clu.state = .agreed
    ∧ ((withEdge 0 .holdover).clu.state ≠ .joining ∧ (withEdge 0 .holdover).clu.state ≠ .agreed)
    ∧ (∀ e, on.clu.startList[(readMark (markBody0 21000 2 0)).edgeSender.val] ≠ some e) := by
  refine ⟨by decide +kernel, by decide +kernel, by decide +kernel, fun e he => ?_⟩
  have none : on.clu.startList[(readMark (markBody0 21000 2 0)).edgeSender.val] = .none := by decide +kernel
  rw [none] at he
  cases he

def countedFrame : State := onLif fun l => { l with view := .frame, start := some start0, counted := true }

/-- The acknowledge bit of a frame stays driven in what the node keeps of it, through the rows that end the frame (R12). -/
theorem test_acknowledge_stays :
    (Goes (exec (.formError 0 .clockAfterAck) inFrame) fun t => t.lif.acked = true ∧ t.lif.counted = true)
      ∧ Goes (exec (.frameAbandoned ⟨80, true⟩) (onLif fun l => { l with
          view := .frame, start := some start0, counted := true, acked := true })) fun t =>
        t.lif.acked = true ∧ t.lif.view = .quiet :=
  ⟨⟨_, rfl, by decide +kernel⟩, ⟨_, rfl, by decide +kernel⟩⟩

theorem test_meets_FaultyFrameCounted : checkDiffers 0x13#8 tripBody0 0 = true ∧ headerKind 0x53#8 = none ∧ headerKind 0x0F#8 = none
    ∧ ((inFrame.after 0).lif.counted = false ∧ (countedFrame.after 0).lif.counted = true ∧ (countedFrame.after 0).working = true
      ∧ (countedFrame.after 0).lif.view = .frame ∧ (countedFrame.after 0).lif.send = none
      ∧ (countedFrame.after 0).lif.start = some start0)
    ∧ (let own (asked : Bool) : State := (sendingOf (queued tripContent 0 true asked)).after 0
      (own false).working = true ∧ (own false).lif.view = .frame ∧ (own false).lif.send = some tripSend
        ∧ (own false).lif.frameInSend = some (queued tripContent 0 true false) ∧ (own false).lif.highFrom + 80 ≤ (own false).time.elapsed
        ∧ (own true).lif.frameInSend = some (queued tripContent 0 true true) ∧ (queued tripContent 0 true true).removalAsked = true) := by
  decide +kernel

/-- A fall of LDAT with LCLK high within the own frame: QUIET, a form error, and the frame kept for another send (R6, log 41). -/
theorem test_own_frame_broken_by_ldat :
    let t := ran (exec (.formError 0 (.ldatFall true)) (sendingOf (queued tripContent 1 true false)))
    t.lif.view = .quiet ∧ t.lif.counters.formErrors = 1 ∧ t.lif.send = none ∧ t.lif.ldatDriven = false
      ∧ t.lif.sendList = [queued tripContent 1 false false] ∧ t.lif.acked = false := by decide +kernel

def fullList (c : FrameContent) : State := onLif fun l => { l with sendList := List.replicate 7 (queued c 0 false false) }

def handoverContent : FrameContent := .handover keyA .onTime date0 0

def tallyContent : FrameContent := .tally keyA values0

theorem test_meets_QueueRequestTaken : tripContent.kind ≠ .mark ∧ conf.active = false
    ∧ (fullList handoverContent).alreadyListed handoverContent = true
    ∧ (on.active = true ∧ on.alreadyListed tripContent = false ∧ (on.lif.sendList.filter fun f => !f.isMark).length < 7)
    ∧ ((fullList handoverContent).active = true ∧ (fullList handoverContent).alreadyListed tripContent = false
      ∧ 7 ≤ ((fullList handoverContent).lif.sendList.filter fun f => !f.isMark).length
      ∧ (fullList handoverContent).lif.sendList
          = List.replicate 6 (queued handoverContent 0 false false) ++ queued handoverContent 0 false false :: []
      ∧ displaceable tripContent.kind (queued handoverContent 0 false false) = true)
    ∧ ((fullList tallyContent).lif.sendList = List.replicate 6 (queued tallyContent 0 false false) ++ queued tallyContent 0 false false :: []
      ∧ displaceable tripContent.kind (queued tallyContent 0 false false) = true ∧ tallyContent = .tally keyA values0)
    ∧ ((∀ f ∈ (fullList tripContent).lif.sendList, displaceable handoverContent.kind f = false)
      ∧ (fullList tripContent).alreadyListed handoverContent = false
      ∧ (∀ f ∈ (fullList tripContent).lif.sendList, displaceable tallyContent.kind f = false))
    ∧ (7 ≤ ((fullList tripContent).lif.sendList.filter fun f => !f.isMark).length
      ∧ ∀ f ∈ (fullList tripContent).lif.sendList, displaceable tripContent.kind f = false) := by decide +kernel

/-- The bodies of the four kinds, byte by byte (Tables 12-1 to 12-4), and a MARK with a negative reading read back. -/
theorem test_frame_bodies :
    tripBody ⟨⟨258, 5⟩, .agreed⟩ 3 true = [0x01#8, 0x02#8, 0, 0, 0, 0, 5, 2, 0x31#8]
      ∧ handoverBody ⟨258, 1⟩ .late ⟨259, 256⟩ 513 = [0x01#8, 0x02#8, 1, 3, 0x01#8, 0x03#8, 0, 0, 0, 1, 0, 2, 1]
      ∧ markBody ⟨258, 43200⟩ ⟨2, true⟩ (-2) 7 = [0x01#8, 0x02#8, 0, 0xA8#8, 0xC0#8, 0x82#8, 0xFF#8, 0xFF#8, 0xFF#8, 0xFE#8, 7]
      ∧ tallyBody ⟨258, 1⟩ ⟨1, 2, 3, 4, 5, 6, 0x80#8⟩ = [0x01#8, 0x02#8, 1, 0, 0, 1, 0, 0, 2, 3, 4, 5, 6, 0x80#8]
      ∧ readMark (markBody ⟨258, 43200⟩ ⟨2, true⟩ (-2) 7) = ⟨⟨258, 43200⟩, ⟨2, true⟩, -2, 7⟩
      ∧ readTallyBody (tallyBody ⟨258, 1⟩ ⟨1, 2, 3, 4, 5, 6, 0x80#8⟩) = (⟨258, 1⟩, ⟨1, 2, 3, 4, 5, 6, 0x80#8⟩) := by decide +kernel

/-! ### Hypotheses met: the clock -/

/-- The clock at `date0`, the last reached and the last accepted key given. -/
def reachedKey (last accepted : Option ShiftKey) : State :=
  { onShu (fun u => { u with lastReached := last }) with lastAccepted := accepted }

/-- A step over one boundary, over four and over six, of which five show; one that goes back; one over none. -/
theorem test_meets_StepsAndStateChanges : (conf.active = false ∧ on.active = true ∧ on.shu.lastReached = none)
    ∧ ((dateAtUs 21600000000).later date0 = true ∧ date0.later (dateAtUs 21600000000) = false)
    ∧ ((reachedKey (some ⟨99, 2⟩) none).crossedKeys ⟨99, 2⟩ date0 (dateAtUs 21600000000) = [] ++ [keyA]
      ∧ (reachedKey (some ⟨99, 2⟩) none).crossedKeys ⟨99, 2⟩ date0 (dateAtUs 21599999999) = []
      ∧ (reachedKey (some ⟨99, 2⟩) none).crossedKeys ⟨99, 2⟩ date0 ⟨101, 21600000000⟩ = [keyA, keyB, ⟨100, 2⟩] ++ [⟨101, 0⟩]
      ∧ (reachedKey (some ⟨99, 2⟩) none).crossedKeys ⟨99, 2⟩ date0 ⟨101, 86399999999⟩
        = [keyB, ⟨100, 2⟩, ⟨101, 0⟩, ⟨101, 1⟩] ++ [⟨101, 2⟩])
    ∧ (keyA.later ⟨99, 2⟩ = true ∧ (boundaryTime cfg.boundaries keyA).later date0 = true
      ∧ (boundaryTime cfg.boundaries keyA).later ⟨101, 86399999999⟩ = false ∧ keyA.index < cfg.boundaries.length)
    ∧ (on.cfg.unitRole = true ∧ on.cfg.postRole = true ∧ (onCfg cfgPlain).cfg.postRole = false)
    ∧ ([keyA, keyB].length ≤ 4 ∧ [⟨99, 2⟩, keyA, keyB, ⟨100, 2⟩, ⟨101, 0⟩] = [(⟨99, 2⟩ : ShiftKey)] ++ keyA :: [keyB, ⟨100, 2⟩, ⟨101, 0⟩])
    ∧ on.missIfDue.shu.held = none
    ∧ ((keyB.later keyA = true ∧ ∀ k, some keyA = some k → keyB.later k = true)
      ∧ (reachedKey (some ⟨99, 2⟩) none).crossedAfter ⟨99, 2⟩ date0 ⟨101, 21600000000⟩ (some keyA) = [keyB, ⟨100, 2⟩, ⟨101, 0⟩])
    ∧ ((2147483647 : Int).natAbs ≤ 2147483647 ∧ 2147483647 < (-2147483648 : Int).natAbs
      ∧ (2147483647000 : Int).natAbs ≤ 2147483647000 ∧ 2147483647000 < (2147483647001 : Int).natAbs) := by
  refine ⟨by decide +kernel, by decide +kernel, by decide +kernel, by decide +kernel, by decide +kernel, by decide +kernel,
    by decide +kernel, ⟨⟨by decide, some_all rfl (by decide)⟩, by decide +kernel⟩, by decide⟩

/-- The keys L where the crossed ones run past the half circle on from the last accepted key: those before it count alone (R1,
R151). -/
theorem test_crossed_keys_past_the_half_circle :
    (reachedKey (some ⟨96, 2⟩) none).crossedAfter ⟨96, 2⟩ ⟨97, 0⟩ ⟨101, 0⟩ (some ⟨32867, 2⟩)
      = [⟨97, 1⟩, ⟨97, 2⟩, ⟨98, 0⟩, ⟨98, 1⟩, ⟨98, 2⟩] := by decide +kernel

/-- A key whose boundary lies a day ahead is DUE with a timer below 0, and READ STATUS shows 0 (R1, R152, log 27). -/
theorem test_key_ahead_is_due :
    let t := on.targetLast ⟨101, 0⟩
    t.shu.mode = .due ∧ t.shu.grace = some ⟨-87000000000, 50000000⟩ ∧ t.graceSeconds = 0 := by decide +kernel

def heldEarly : State := onShu fun u => { u with
  mode := .early, lastReached := some ⟨99, 2⟩, held := some ⟨.hand, stamp0, 20000000, keyA⟩ }

/-- A press held before a step: its key the new target, and not. -/
theorem test_meets_StepsAndStateChanges_press :
    (heldEarly.missIfDue.shu.held = some ⟨.hand, stamp0, 20000000, keyA⟩
      ∧ (heldEarly.missIfDue.handleKeys []).target = some keyA ∧ (heldEarly.missIfDue.handleKeys [keyB]).target ≠ some keyA)
    ∧ ((dateAtUs 22499999999).minus (boundaryTime cfg.boundaries keyA) < ((cfg.graceMin * 60000000 : Nat) : Int)
      ∧ ((cfg.graceMin * 60000000 : Nat) : Int) ≤ (dateAtUs 22500000000).minus (boundaryTime cfg.boundaries keyA)) := by decide +kernel

def slewing (p : Int) : State := { onClu (fun u => { u with p := p }) with time := ⟨50000000, 49000000, 0, 0, none⟩ }

theorem test_meets_OscillatorSecondBegins : ((slewing (-220)).after 0).working = true
    ∧ ((slewing (-220)).after 0).time.secondStart + 1000000 ≤ ((slewing (-220)).after 0).time.elapsed
    ∧ ((slewing (-220)).after 0).clu.p ≤ 0 ∧ 0 ≤ ((slewing 30).after 0).clu.p := by decide

def atBoundary (f : Clu → Clu) : State := { onClu f with time := ⟨50000000, 50000000, 0, 0, some roundKey0⟩ }

def otherRound : Round := { round0 with key := ⟨100, 20999⟩ }

theorem test_meets_RoundBoundaryTaken : (((atBoundary id).after 0).active = true ∧ ((atBoundary id).after 0).clu.state ≠ .solo
      ∧ ((atBoundary id).after 0).time.boundaryDue = some roundKey0)
    ∧ (((atBoundary id).after 0).clu.round = none ∧ ((atBoundary id).after 0).clu.lastKey ≠ some roundKey0)
    ∧ (((atBoundary fun u => { u with round := some round0 }).after 0).clu.round = some round0 ∧ round0.key = roundKey0)
    ∧ (((atBoundary fun u => { u with round := some otherRound }).after 0).clu.round = some otherRound ∧ otherRound.key ≠ roundKey0)
    ∧ ((atBoundary fun u => { u with lastKey := some roundKey0 }).after 0).clu.lastKey = some roundKey0 := by decide

/-- The clock 400 ms past the boundary of an open round. -/
def closing (state : ClockState) (r : Round) : State :=
  { onClu (fun u => { u with state := state, round := some r }) with clock := ⟨dateAtUs 21000400000, true⟩ }

theorem test_meets_RoundCloses : ((closing .agreed roundFull).after 0).active = true
    ∧ ((closing .agreed roundFull).after 0).clu.round = some roundFull
    ∧ 400000 ≤ ((closing .agreed roundFull).after 0).clock.date.minus roundFull.key.boundary
    ∧ ¬ 400000 ≤ (dateAtUs 21000399999).minus roundFull.key.boundary
    ∧ decide (((closing .agreed roundFull).after 0).cfg.quorum
        ≤ ((((closing .agreed roundFull).after 0).tableAtClose roundFull).filter RoundEntry.eligible).length) = true
    ∧ decide (((closing .agreed round0).after 0).cfg.quorum
        ≤ ((((closing .agreed round0).after 0).tableAtClose round0).filter RoundEntry.eligible).length) = false
    ∧ (((closing .referenced round0).after 0).clu.state = .referenced ∧ ((closing .solo round0).after 0).clu.state = .solo)
    ∧ (closing .agreed roundFull).clu.state = .agreed := by decide +kernel

/-- At a close in AGREED: as many foreign senders as given, the split, short and outlier counters so far. -/
def agreedWith (foreign split short outlier : Nat) (latest : Option ForeignMark) : State := onClu fun u => { u with
  foreignSenders := List.replicate foreign 9, split := split, short := short, outlier := outlier, latestForeign := latest }

/-- The own group of `round0` is the node alone, that of `roundFull` four: the split counter at 2 and at 3, the SPLIT flag of equal
groups; a short round below and at the limit of 3, the bound of 1 ms, the first and the second outlier. -/
theorem test_meets_RoundCloses_agreed :
    ((agreedWith 2 2 0 0 none).clu.state = .agreed ∧ (agreedWith 2 2 0 0 none).clu.foreignSenders.length = 2
      ∧ (round0.entries.filter RoundEntry.eligible).length + 1 = 1
      ∧ (agreedWith 2 2 0 0 none).clu.split + 1 = 3 ∧ (agreedWith 2 2 0 0 none).clu.latestForeign = none
      ∧ (agreedWith 2 2 0 0 (some ⟨date0, 0⟩)).clu.latestForeign = some ⟨date0, 0⟩)
    ∧ ((agreedWith 2 1 0 0 none).clu.split + 1 < 3 ∧ (roundFull.entries.filter RoundEntry.eligible).length + 1 = 4
      ∧ (agreedWith 4 2 0 0 none).clu.foreignSenders.length = 4)
    ∧ ((agreedWith 0 0 1 0 none).clu.short + 1 < cfg.shortLimit ∧ cfg.shortLimit ≤ (agreedWith 0 0 2 0 none).clu.short + 1)
    ∧ ((1000 : Int).natAbs ≤ (agreedWith 0 0 0 0 none).cfg.boundUs ∧ (agreedWith 0 0 0 0 none).cfg.boundUs < (-1001 : Int).natAbs)
    ∧ ((agreedWith 0 0 0 0 none).clu.outlier + 1 < 2 ∧ 2 ≤ (agreedWith 0 0 0 1 none).clu.outlier + 1) := by decide +kernel

/-- A step for a round close to be full with a correction, or short. -/
def found (full : Bool) (c : Int) : CloseValues := ⟨[], full, 0, 0, 0, c⟩

theorem test_meets_HoldoverRoundClose : (closing .holdover roundFull).clu.state = .holdover
    ∧ (found false 0).full = false
    ∧ ((found true (-1000)).full = true ∧ (found true (-1000)).correction.natAbs ≤ (closing .holdover roundFull).cfg.boundUs)
    ∧ (closing .holdover roundFull).cfg.boundUs < (found true 1001).correction.natAbs := by decide

def lockedInvalid : State :=
  { onClu (fun u => { u with state := .joining, monitor := .locked 0 }) with clock := ⟨date0, false⟩ }

theorem test_meets_JoiningRoundClose : joining.clu.state = .joining ∧ (found true 1001).full = true
    ∧ joining.cfg.boundUs < (found true 1001).correction.natAbs ∧ (joining.clock.valid = true ∨ joining.clu.monitor.isLocked = false)
    ∧ (lockedInvalid.clu.state = .joining ∧ lockedInvalid.clock.valid = false ∧ lockedInvalid.clu.monitor.isLocked = true)
    ∧ (found true 1000).correction.natAbs ≤ joining.cfg.boundUs ∧ (found false 0).full = false
    ∧ (∃ e ∈ roundFull.entries, e.status.sound = true) ∧ (∀ e ∈ round0.entries, e.status.sound = false) := by decide

/-- A reference edge timed so long ago, the monitor and the clock state. -/
def timed (interval : Nat) (m : Monitor) (state : ClockState) (valid : Bool) : State :=
  { onClu (fun u => { u with refEdge := some (50000000 - interval), monitor := m, state := state }) with clock := ⟨date0, valid⟩ }

/-- The premises of a clause on an interval. -/
def timedAs (interval : Nat) (m : Monitor) (state : ClockState) (valid : Bool) : Bool :=
  let a := (timed interval m state valid).after 0
  a.working && decide (a.clu.refEdge = some (50000000 - interval)) && decide (a.time.elapsed - (50000000 - interval) = interval)
    && decide (a.clu.monitor = m) && decide (a.clu.state = state) && decide (a.clock.valid = valid)

theorem test_meets_ReferenceEdgeTaken : ((on.after 0).working = true ∧ (on.after 0).clu.refEdge = none)
    ∧ (timedAs 999900 (.searching 2) .joining true ∧ timedAs 1000100 (.locked 1) .agreed true
      ∧ timedAs 1000000 (.searching 3) .joining false ∧ timedAs 1000000 (.searching 3) .solo true
      ∧ timedAs 1000000 (.searching 3) .holdover true ∧ timedAs 1000000 (.locked 0) .referenced true)
    ∧ (timedAs 999899 (.searching 3) .joining true ∧ timedAs 1000101 (.locked 0) .referenced true
      ∧ timedAs 1000101 (.locked 1) .referenced true)
    ∧ ((offsetOf on.clock.date.us).natAbs ≤ on.cfg.boundUs
      ∧ on.cfg.boundUs < (offsetOf (dateAtUs 21000998999).us).natAbs ∧ on.clu.round = none)
    ∧ (∀ us ∈ [21000398000, 21000600000], on.cfg.boundUs < (offsetOf (dateAtUs us).us).natAbs)
    ∧ (let landed (us : Nat) : Int := ((dateAtUs us).plus (-(offsetOf us))).minus round0.key.boundary
      400000 ≤ landed 21000600000 ∧ landed 21000398000 < 400000) := by decide

def silentMonitor (m : Monitor) (state : ClockState) : State :=
  onClu fun u => { u with refMark := 48500000, monitor := m, state := state }

theorem test_meets_ReferenceSilenceTaken : ((silentMonitor (.searching 1) .agreed).after 0).working = true
    ∧ ((silentMonitor (.searching 1) .agreed).after 0).clu.refMark + 1500000
        ≤ ((silentMonitor (.searching 1) .agreed).after 0).time.elapsed
    ∧ ((silentMonitor (.locked 0) .agreed).after 0).clu.monitor = .locked 0
    ∧ (((silentMonitor (.locked 1) .referenced).after 0).clu.monitor = .locked 1
      ∧ (silentMonitor (.locked 1) .referenced).clu.state = .referenced)
    ∧ on.clu.state ≠ .referenced := by decide

/-! ### Hypotheses met: contact inputs -/

def withInput (n : InputNo) (i : InputState) : State := on.setInput n i

def settled (level : Bool) : InputState := ⟨some level, 0, none, .quiet, .none⟩

/-- One sample short of two, the first kept. -/
def running (level : Bool) (c : Chatter) : InputState := ⟨some level, 1, some start0, c, .none⟩

/-- The completing sample is taken; QUALIFIED_CHANGE is owed. -/
def completing (level : Bool) (c : Chatter) : InputState := { running level c with owed := .change start0 }

/-- One fast input. -/
def cfgFast : NodeConfig := { cfg with inputs := inputs.set 5 { noInput with fast := true } }

theorem test_meets_SamplesTaken :
    ((on.after 0).active = true ∧ (on.after 0).isc.nextSlotAt ≤ (on.after 0).time.elapsed)
    ∧ (on.after 0).cfg.samples (on.after 0).isc.slot 4 = false ∧ ((on.after 0).input 0).level = none
    ∧ ((on.after 0).cfg.samples (on.after 0).isc.slot 3 = true
      ∧ (((withInput 3 (settled true)).after 0).input 3).level = some (levelOf ((on.after 0).inputCfg 3) false))
    ∧ ((((withInput 3 (settled false)).after 0).input 3).level = some (!levelOf ((on.after 0).inputCfg 3) false)
      ∧ (((withInput 3 (settled false)).after 0).input 3).run + 1 < (on.after 0).qualCount 3)
    ∧ (on.after 0).qualCount 3 ≤ (((withInput 3 (running false .quiet)).after 0).input 3).run + 1
    ∧ ((on.after 0).inputCfg 3).role ≠ .breaker ∧ ((on.after 0).inputCfg 0).role = .breaker
    ∧ ((((withInput 3 (completing false .quiet)).after 0).input 3).owed ≠ .none ∧ ((on.after 0).input 3).owed = .none)
    ∧ (((withInput 3 { settled false with owed := .first true stamp0 }).after 0).input 3).owed = .first true stamp0
    ∧ ((∀ n : InputNo, cfg.inputs[n.val].fast = false) ∧ cfgFast.inputs[(5 : InputNo).val].fast = true) := by decide +kernel

theorem test_meets_ChangeQualifies :
    ((withInput 3 (completing false (.counting 1 2))).after 0).active = true
    ∧ (((withInput 3 (completing false (.counting 1 2))).after 0).input 3).level = some false
    ∧ (((withInput 3 (completing false (.counting 1 2))).after 0).input 3).owed = .change start0
    ∧ (((withInput 3 (completing false (.counting 1 2))).after 0).input 3).locked = false
    ∧ ((on.inputCfg 0).role = .breaker ∧ (on.inputCfg 1).role = .handKey ∧ (on.inputCfg 2).role = .takeKey
      ∧ (on.inputCfg 3).role = .none) := by decide +kernel

def lockedInput (level : Bool) (last : Option Stamp) : InputState := ⟨some level, 1, some start0, .locked 50000000 2 last, .change start0⟩

theorem test_meets_ChatterSuppressesAndReleases :
    (((withInput 0 (lockedInput true (some stamp0))).after 0).active = true
      ∧ (((withInput 0 (lockedInput true (some stamp0))).after 0).input 0).level = some true
      ∧ (((withInput 0 (lockedInput true (some stamp0))).after 0).input 0).owed = .change start0
      ∧ (((withInput 0 (lockedInput true (some stamp0))).after 0).input 0).chatter = .locked 50000000 2 (some stamp0))
    ∧ ((((withInput 0 (running true (.counting 50000000 1))).after 0).input 0).chatter = .counting 50000000 1
      ∧ 50000000 ≤ ((withInput 0 (running true (.counting 50000000 1))).after 0).time.elapsed)
    ∧ ((on.after 0).inputCfg 3).role ≠ .breaker
    ∧ (((on.after 0).inputCfg 0).role = .breaker ∧ true ≠ (on.after 0).run.breakerClosed) := by decide +kernel

/-! ### Hypotheses met: cascades and stops -/

def memberAt (us : Nat) : Member := { member0 with stamp := ⟨dateAtUs us, .agreed⟩ }

def open0 : OpenCascade := ⟨cascade0, 50000000⟩

/-- A cascade with no place left. -/
def fullCascade : Cascade := { cascade0 with members := List.replicate 24 member0 }

/-- The span of `cascade0` is `date0` ± 1 s, both ends included. -/
theorem test_meets_MemberIsPlaced :
    (on.csu.current = none ∧ (onCsu fun u => { u with list := [cascade0] }).csu.list.any
        (fun c => c.covers on.cfg.spanMs (memberAt 20999000000).stamp.date) = true)
    ∧ on.csu.list.any (fun c => c.covers on.cfg.spanMs (memberAt 21000000000).stamp.date) = false
    ∧ ((onCsu fun u => { u with current := some open0 }).csu.current = some open0
      ∧ open0.cascade.covers on.cfg.spanMs (memberAt 21001000000).stamp.date = true)
    ∧ (open0.cascade.covers on.cfg.spanMs (memberAt 21001000001).stamp.date = false
      ∧ (memberAt 21001000001).stamp.date.later (open0.cascade.spanEnd on.cfg.spanMs) = true)
    ∧ (open0.cascade.covers on.cfg.spanMs (memberAt 20998999999).stamp.date = false
      ∧ (memberAt 20998999999).stamp.date.later (open0.cascade.spanEnd on.cfg.spanMs) = false)
    ∧ ((onCsu fun u => { u with current := some open0, list := [cascadeOf (memberAt 21002000000)] }).csu.list.any
        (fun c => c.covers on.cfg.spanMs (memberAt 21001000001).stamp.date) = true)
    ∧ (cascade0.members = [member0] ∧ (memberAt 21000000001).stamp.date ≠ member0.stamp.date)
    ∧ (fullCascade.members.length = 24 ∧ ∀ x ∈ fullCascade.members, (memberAt 21000000001).stamp.date ≠ x.stamp.date)
    ∧ (on.csu.slot = none ∧ (onCsu fun u => { u with slot := some member0 }).csu.slot = some member0)
    ∧ ((memberAt 20999999999).stamp.date.earlier member0.stamp.date = true
      ∧ (memberAt 21000000001).stamp.date.earlier member0.stamp.date = false) := by decide

def withOpen (n : Nat) (slot : Option Member) : State := onCsu fun u => { u with
  current := some open0, list := List.replicate n cascade0, slot := slot }

theorem test_meets_CascadeCloses : (((withOpen 3 none).after 0).active = true ∧ ((withOpen 3 none).after 0).csu.current = some open0
      ∧ open0.closeAt ≤ ((withOpen 3 none).after 0).time.elapsed)
    ∧ ((withOpen 3 none).after 0).csu.list.length < 4 ∧ 4 ≤ ((withOpen 4 none).after 0).csu.list.length
    ∧ ((withOpen 3 none).after 0).csu.slot = none ∧ ((withOpen 3 (some member0)).after 0).csu.slot = some member0
    ∧ ((withOpen 3 none).after 0).run.stop = none ∧ ((withOpen 3 none).after 0).evq.records.length < 255
    ∧ (((withOpen 3 none).after 0).cfg.unitRole = true ∧ (onCfg cfgPlain).cfg.unitRole = false) := by decide

def stopWaiting : Stop := ⟨stamp0, 48400000, .waiting 50000000⟩

def stopAwaiting : Stop := ⟨stamp0, 48400000, .awaitingClose date0 3⟩

def stopped (x : Stop) : State := onRun fun r => { r with stop := some x }

/-- A cascade of nothing but the own node's breaker. -/
def cascadeOwn : Cascade := cascadeOf { member0 with node := 0, input := 0 }

theorem test_meets_CloseNoticeDecides : on.run.stop = none
    ∧ ((stopped stopWaiting).run.stop = some stopWaiting ∧ stopWaiting.phase = .waiting 50000000
      ∧ cascade0.covers (stopped stopWaiting).cfg.spanMs stopWaiting.stamp.date = true ∧ (stopped stopWaiting).qualifies cascade0 = true)
    ∧ (stopped stopWaiting).qualifies cascadeOwn = false
    ∧ (cascadeOf (memberAt 21001000001)).covers (stopped stopWaiting).cfg.spanMs stopWaiting.stamp.date = false
    ∧ ((stopped stopAwaiting).run.stop = some stopAwaiting ∧ stopAwaiting.phase = .awaitingClose date0 3
      ∧ cascade0.opening.date = date0 ∧ cascade0.opener = 3 ∧ (stopped stopAwaiting).qualifies cascade0 = true)
    ∧ ((cascadeOf { member0 with node := 0, input := 0 }).opener ≠ 3) := by decide +kernel

def stoppedWith (f : Csu → Csu) : State := { stopped stopWaiting with csu := f on.csu }

theorem test_meets_StopDeadlineDecides : (((stopped stopWaiting).after 0).active = true
      ∧ ((stopped stopWaiting).after 0).run.stop = some stopWaiting ∧ 50000000 ≤ ((stopped stopWaiting).after 0).time.elapsed)
    ∧ (((stoppedWith fun u => { u with current := some open0 }).after 0).csu.current = some open0
      ∧ open0.cascade.covers (on.after 0).cfg.spanMs stopWaiting.stamp.date = true)
    ∧ (∀ o, ((stoppedWith fun u => { u with list := [cascadeOwn, cascade0] }).after 0).csu.current = some o →
        o.cascade.covers (on.after 0).cfg.spanMs stopWaiting.stamp.date = false)
    ∧ (((stoppedWith fun u => { u with list := [cascadeOwn, cascade0] }).after 0).csu.list = [cascadeOwn] ++ cascade0 :: []
      ∧ (cascade0.covers (on.after 0).cfg.spanMs stopWaiting.stamp.date && (on.after 0).qualifies cascade0) = true
      ∧ ∀ d ∈ [cascadeOwn], (d.covers (on.after 0).cfg.spanMs stopWaiting.stamp.date && (on.after 0).qualifies d) = false)
    ∧ (∀ d ∈ (on.after 0).csu.list, (d.covers (on.after 0).cfg.spanMs stopWaiting.stamp.date && (on.after 0).qualifies d) = false)
    ∧ on.evq.records.length < 255 := by
  refine ⟨by decide, by decide +kernel, none_all rfl, ?_⟩
  decide +kernel

/-! ### Hypotheses met: speed, run state, tally -/

def phased (p : SpeedPhase) : State := onSpu fun u => { u with phase := p, revPulses := 15 }

theorem test_meets_SpeedEdgeTaken :
    (((phased (.measuring 49999981)).after 0).active = true
      ∧ ((phased (.measuring 49999981)).after 0).spu.phase.edge = some 49999981
      ∧ ((phased (.measuring 49999981)).after 0).time.elapsed < 49999981 + 20)
    ∧ (∀ e, ((phased (.measuring 49999980)).after 0).spu.phase.edge = some e →
        e + 20 ≤ ((phased (.measuring 49999980)).after 0).time.elapsed)
    ∧ (∀ e, ((phased .noEdge).after 0).spu.phase.edge = some e → e + 20 ≤ ((phased .noEdge).after 0).time.elapsed)
    ∧ ((phased (.measuring 49999980)).after 0).spu.phase = .measuring 49999980
    ∧ ((phased .noEdge).after 0).spu.phase = .noEdge ∧ ((phased (.firstPeriod 49000000)).after 0).spu.phase = .firstPeriod 49000000
    ∧ ((phased .noEdge).after 0).cfg.unitRole = true ∧ (onCfg cfgPlain).cfg.unitRole = false
    ∧ ((phased .noEdge).after 0).cfg.pulsesPerRev ≤ ((phased .noEdge).after 0).spu.revPulses + 1 := by
  refine ⟨by decide, some_all rfl (by decide), none_all rfl, ?_⟩
  decide

def atSpeed (speed : Nat) (state : RunState) (turning : Bool) : State :=
  { onRun (fun r => { r with state := state, turning := turning }) with spu := { on.spu with speed := speed } }

theorem test_meets_RunStateMoves :
    (speedCondition cfg 200 false = true ∧ speedCondition cfg 199 false = false ∧ speedCondition cfg 100 true = true
      ∧ speedCondition cfg 99 true = false)
    ∧ ((atSpeed 200 .standstill false).run.state = .standstill ∧ (atSpeed 200 .standstill false).run.turning = false
      ∧ (atSpeed 200 .standstill false).run.breakerClosed = false ∧ (atSpeed 200 .standstill false).cfg.spin ≤ 200)
    ∧ ((atSpeed 99 .spinning true).run.state = .spinning ∧ (atSpeed 99 .spinning true).run.turning = true
      ∧ 99 < (atSpeed 99 .spinning true).cfg.standstill)
    ∧ (atSpeed 99 .online true).run.state = .online
    ∧ (on.run.state ≠ .online ∧ on.run.stop = none)
    ∧ ((stopped stopAwaiting).run.state ≠ .online ∧ (stopped stopAwaiting).run.stop = some stopAwaiting)
    ∧ (on.run.state = .standstill ∧ (onRun fun r => { r with breakerClosed := true }).run.breakerClosed = true)
    ∧ ((onSpu fun u => { u with silent := true }).spu.silent = true ∧ on.spu.silent = false ∧ on.run.silentSince = none
      ∧ (onRun fun r => { r with silentSince := some 48000000 }).run.silentSince = some 48000000)
    ∧ on.evq.records.length < 254 := by decide

/-- A closing with the silent mark set starts the SPEED SILENT timing, and the opening ends it (R117). -/
theorem test_breaker_times_silence :
    let closed := (onSpu fun u => { u with silent := true }).breakerLevel true stamp0
    closed.run.silentSince = some 50000000 ∧ (closed.breakerLevel false stamp0).run.silentSince = none := by decide +kernel

def silent (silentSince : Option Nat) (state : RunState) : State :=
  { onRun (fun r => { r with state := state, silentSince := silentSince, tenthStart := 49900000 }) with
    spu := { on.spu with silenceSince := 48000000 } }

theorem test_meets_SilenceAndTenths : (((silent none .online).after 0).active = true ∧ ((silent none .online).after 0).spu.silent = false
      ∧ ((silent none .online).after 0).spu.silenceSince + 2000000 ≤ ((silent none .online).after 0).time.elapsed)
    ∧ ((silent none .online).after 0).cfg.unitRole = true ∧ ((onCfg cfgPlain).after 0).cfg.unitRole = false
    ∧ (((silent (some 48000000) .online).after 0).run.silentSince = some 48000000
      ∧ ((silent (some 48000000) .online).after 0).run.speedSilent = false
      ∧ 48000000 + 2000000 ≤ ((silent (some 48000000) .online).after 0).time.elapsed)
    ∧ ((silent none .spinning).after 0).run.tenthStart + 100000 ≤ ((silent none .spinning).after 0).time.elapsed := by decide

theorem test_meets_UnitShiftCloses :
    on.tallies.baseline.fields.online.toNat ≤ (sixOf on.tallies.tally.fields).online.toNat
    ∧ (sixOf on.tallies.tally.fields).trips.toNat
        < ((onTal fun t => { t with baseline := ⟨⟨1, 1, 1, 1, 1, 1⟩, 0⟩ }).tallies.baseline.fields.trips).toNat
    ∧ (confPlain.cfg.postRole = false ∧ confPlain.active = false)
    ∧ (on.cfg.postRole = true ∧ on.active = true ∧ on.evq.records.length < 255) := by decide

/-! ### Hypotheses met: shift handover -/

/-- The post in a state of its machine, the last reached key and the key come to given, the clock at a microsecond of day. -/
def post (m : PostState) (last come target : Option ShiftKey) (us : Nat) : State :=
  { onShu (fun u => { u with
      mode := m, lastReached := last, keyDue := come, target := target, grace := some ⟨0, 50000000 - 900000000 / 18⟩ }) with
    clock := ⟨dateAtUs us, true⟩ }

def keyBefore : ShiftKey := ⟨99, 2⟩

def press0 : HeldPress := ⟨.hand, stamp0, 20000000, keyA⟩

def graceRun : State := onShu fun u => { u with mode := .due, lastReached := some keyA, target := some keyA, grace := some ⟨850000000, 0⟩ }

theorem test_meets_ShiftMomentsTaken :
    (((post .onWatch (some keyBefore) (some keyA) none 21600000000).after 0).active = true
      ∧ ((post .onWatch (some keyBefore) (some keyA) none 21600000000).after 0).clock.valid = true
      ∧ ((post .onWatch (some keyBefore) (some keyA) none 21600000000).after 0).shu.lastReached = some keyBefore
      ∧ ((post .onWatch (some keyBefore) (some keyA) none 21600000000).after 0).shu.keyDue = some keyA
      ∧ keyA.later keyBefore = true
      ∧ ((post .onWatch (some keyBefore) (some keyA) none 21600000000).after 0).cfg.postRole = true ∧ cfgPlain.postRole = false)
    ∧ (((post .onWatch (some keyBefore) none none 21000000000).after 0).shu.mode = .onWatch
      ∧ ((post .onWatch (some keyBefore) none none 21000000000).after 0).target = some keyA
      ∧ keyA.laterThan ((post .onWatch (some keyBefore) none none 21000000000).after 0).lastAccepted = true
      ∧ (dateAtUs 21000000000).earlier
          ((boundaryTime cfg.boundaries keyA).plus (-((cfg.earlyMin * 60000000 : Nat) : Int))) = false
      ∧ (dateAtUs 21000000000).earlier (boundaryTime cfg.boundaries keyA) = true)
    ∧ ((graceRun.after 0).shu.mode = .due ∧ (graceRun.after 0).shu.grace = some ⟨850000000, 0⟩
      ∧ (((graceRun.after 0).cfg.graceMin * 60000000 : Nat) : Int) ≤ 850000000 + (((graceRun.after 0).time.elapsed - 0 : Nat) : Int))
    ∧ (((onShu fun u => { u with held := some press0 }).after 0).shu.held = some press0
      ∧ press0.since + (on.after 0).cfg.pairingS * 1000000 ≤ (on.after 0).time.elapsed)
    ∧ (graceRun.shu.mode = .due ∧ graceRun.shu.target = some keyA ∧ on.shu.mode = .onWatch)
    ∧ (keyA.laterThan on.lastAccepted = true ∧ keyA.laterThan (some keyA) = false)
    ∧ (keyA.laterThan on.shu.lastCreated = true ∧ keyA.laterThan (onShu fun u => { u with lastCreated := some keyA }).shu.lastCreated = false
      ∧ on.shu.records.length < 8
      ∧ 8 ≤ (onShu fun u => { u with records := List.replicate 8 (station keyB .gathering) }).shu.records.length)
    ∧ (let s := post .onWatch (some keyBefore) none none 20999999999
      s.shu.mode = .onWatch ∧ s.shu.lastReached.map (nextKey s.cfg.boundaries) = some keyA
        ∧ s.clock.date.earlier ((boundaryTime s.cfg.boundaries keyA).plus (-((s.cfg.earlyMin * 60000000 : Nat) : Int))) = true) := by
  decide +kernel

def gathering : State :=
  { onShu (fun u => { u with records := [station keyA .gathering, station keyB .complete] }) with time := ⟨60000000, 60000000, 0, 0, none⟩ }

/-- Unit 2 has reported, and unit 4 without being expected; units 1 and 2 are expected. -/
def reported : StationRecord := { station keyA .gathering with entries := [⟨2, some values0, false⟩, ⟨4, some values0, true⟩] }

/-- A record and an open round with entries, in node-number order, as the invariant has them. -/
theorem test_meets_ordered : reported.ordered
    ∧ Round.ordered ⟨roundKey0, none, 4, none, [⟨1, ⟨2, true⟩, roundKey0, -95, 4, .eligible⟩, ⟨6, ⟨2, true⟩, roundKey0, -175, 4, .eligible⟩]⟩ := by
  unfold StationRecord.ordered Round.ordered
  decide

/-- The end of gathering: an ABSENT entry for unit 1 alone, in its place (R159, Table 8-5). -/
theorem test_gathering_ends_with_absent_entries :
    let s : State := { gathering with shu := { gathering.shu with records := [reported] } }
    (ran (exec (.gatherExpiry 0 keyA) s)).shu.records =
      [{ reported with
        entries := [⟨1, none, false⟩, ⟨2, some values0, false⟩, ⟨4, some values0, true⟩], status := .awaitingAcceptance }] := by
  decide +kernel

theorem test_meets_GatheringEnds : (gathering.after 0).postActive = true
    ∧ (gathering.after 0).shu.recordOf keyA = some (station keyA .gathering) ∧ (station keyA .gathering).status = .gathering
    ∧ (station keyA .gathering).gatherSince + (gathering.after 0).cfg.gatherS * 1000000 ≤ (gathering.after 0).time.elapsed := by decide

theorem test_meets_PressIsTaken : on.shu.mode = .onWatch ∧ on.target = none
    ∧ (graceRun.shu.mode ≠ .onWatch ∧ graceRun.target = some keyA ∧ (∀ p, graceRun.shu.held = some p → p.key = .take))
    ∧ (({ graceRun with shu := { graceRun.shu with held := some press0 } } : State).shu.held = some press0 ∧ press0.key ≠ .take) := by
  refine ⟨by decide, by decide, ⟨by decide, by decide, none_all rfl⟩, by decide⟩

def handoverBody0 : List Byte := handoverBody keyA .onTime date0 7

theorem test_meets_HandoverReceivedAtPost :
    (readHandover on.cfg.boundaries.length (handoverBody ⟨100, 3⟩ .onTime date0 7) = none)
    ∧ readHandover on.cfg.boundaries.length handoverBody0 = some (keyA, .onTime, date0, 7)
    ∧ (keyA.laterThan on.lastAccepted = true ∧ on.target ≠ some keyA)
    ∧ (keyA.laterThan graceRun.lastAccepted = true ∧ graceRun.target = some keyA)
    ∧ (keyA.laterThan ({ on with lastAccepted := some keyA } : State).lastAccepted = false ∧ on.shu.resultOf keyA = none)
    ∧ (∀ own, (withResult own).shu.resultOf keyA = some (ownResult own) ∧ (ownResult own).elsewhere = none
      ∧ (ownResult own).own = own ∧ keyA.laterThan (withResult own).lastAccepted = false)
    ∧ (result0.elsewhere.isSome = true
      ∧ (onShu fun u => { u with heldResult := some (keyA, result0) }).shu.resultOf keyA = some result0)
    ∧ (on.lif.sendList.find? (QueuedFrame.isHandoverOf keyA) = none
      ∧ (fullList handoverContent).lif.sendList.find? (QueuedFrame.isHandoverOf keyA) = some (queued handoverContent 0 false false)
      ∧ (sendingOf (queued handoverContent 0 true false)).lif.sendList.find? (QueuedFrame.isHandoverOf keyA)
        = some (queued handoverContent 0 true false)) := by
  refine ⟨by decide +kernel, by decide +kernel, by decide +kernel, by decide +kernel, by decide +kernel, fun own => ?_, by decide +kernel⟩
  exact ⟨rfl, rfl, rfl, rfl⟩

/-! ### Hypotheses met: supplies, store check, lamps -/

def online : State := onRun fun r => { r with state := .online, breakerClosed := true }

theorem test_meets_MainSupplyLost : ((online.after 0).sup.state = .run ∧ (online.after 0).sup.vbkPresent = true
      ∧ ((online.after 0).midOpen none).evq.records.length < 254 ∧ (onEvq (queueOf 253)).evq.records.length < 254)
    ∧ ((conf.after 0).sup.state = .run ∧ (conf.after 0).sup.vbkPresent = true
      ∧ ((conf.after 0).midOpen (some 3)).active = true ∧ ((conf.after 0).midOpen (some 3)).cfg.unitRole = true
      ∧ ((conf.after 0).midOpen (some 3)).evq.records.length < 254)
    ∧ (conf.portOpen = true ∧ conf.lpt.nodeState = .configured ∧ on.lpt.nodeState ≠ .configured)
    ∧ (((online.after 0).midOpen none).run.stop = none ∧ ((online.after 0).midOpen none).run.state = .online
      ∧ ((on.after 0).midOpen none).run.stop = none ∧ ((on.after 0).midOpen none).run.state ≠ .online
      ∧ (((stopped stopWaiting).after 0).midOpen none).run.stop = some stopWaiting) := by decide +kernel

/-- A stop taken 1.6 s before the loss is closed out with OUTAGE and its 1,600 ms (R121). -/
theorem test_stop_closed_out :
    (ran (exec (.mainSupplyLoss ⟨0, none⟩) (stopped stopWaiting))).evq.records.map
        (fun r => (r.kind, r.detailA, r.detailB, r.stamp)) =
      [(.powerLoss, 0x02#8, 0, stamp0), (.stopClassified, 0x04#8, 1600, stamp0)] := by decide +kernel

def supplyIn (st : SupplyState) (vbk : Bool) : State := { State.reset with sup := { Sup.initial with state := st, vbkPresent := vbk } }

theorem test_meets_SupplyStatesMove :
    (((supplyIn .run false).after 0).sup.state = .run ∧ ((supplyIn .run false).after 0).sup.vbkPresent = false)
    ∧ (((supplyIn .restoring true).after 0).sup.state = .restoring ∧ ((supplyIn .restoring true).after 0).sup.vbkPresent = true)
    ∧ ((supplyIn .restoring false).after 0).sup.vbkPresent = false ∧ ((supplyIn .keepAlive true).after 0).sup.state = .keepAlive
    ∧ ((supplyIn .off false).after 0).sup.state = .off := by decide

/-- The wait of 65,536 main-oscillator cycles is 525 backup cycles. -/
def restored (n : Nat) (fresh : Bool) : State :=
  { State.reset with sup := { Sup.initial with state := .restoring, restoreCycles := n, freshMark := fresh, creditMark := !fresh } }

theorem test_meets_RestoreEnds : ((restored 525 false).after 0).sup.state = .restoring
    ∧ 65536 ≤ 125 * ((restored 525 false).after 0).sup.restoreCycles ∧ ¬ 65536 ≤ 125 * ((restored 524 false).after 0).sup.restoreCycles
    ∧ ((restored 525 true).after 0).sup.freshMark = true ∧ ((restored 525 false).after 0).sup.freshMark = false
    ∧ ((restored 525 false).after 0).evq.records.length < 255
    ∧ (({ restored 525 true with pins := { State.reset.pins with rstnLow := true } } : State).after 0).pins.rstnLow = true := by decide

def held : State := onSup fun u => { u with rstnHeld := true }

/-- The restore pass, begun at this very moment, or 1 µs ago. -/
def restorePassSince (t : Nat) : State := onChk fun k => { k with pass := some .tally, restorePass := true, passStart := t }

theorem test_meets_ResetPin : ((online.after 0).sup.state = .run ∧ (online.after 0).sup.rstnHeld = false
      ∧ (online.after 0).pins.rstnLow = false ∧ (online.after 0).chk.restorePass = false
      ∧ ((online.after 0).midOpen none).run.state = .online)
    ∧ (((on.after 0).midOpen none).run.state ≠ .online ∧ ((on.after 0).midOpen none).run.stop = none)
    ∧ (((online.after 0).midOpen none).evq.records.length < 255 ∧ ((online.after 0).midOpen none).run.stop = none
      ∧ (((stopped stopWaiting).after 0).midOpen none).run.stop = some stopWaiting)
    ∧ ((held.after 0).sup.state = .run ∧ (held.after 0).sup.rstnHeld = true ∧ (held.after 0).evq.records.length < 255)
    ∧ (((restorePassSince 50000000).after 0).chk.restorePass = true
      ∧ ((restorePassSince 50000000).after 0).chk.passStart = ((restorePassSince 50000000).after 0).time.elapsed)
    ∧ (((restorePassSince 49999999).after 0).sup.state = .run
      ∧ ((restorePassSince 49999999).after 0).chk.passStart ≠ ((restorePassSince 49999999).after 0).time.elapsed)
    ∧ (kept.after 0).sup.state ≠ .run := by decide

def passAt (c : Cursor) : State := onChk fun k => { k with pass := some c }

def damagedTally : Tally := { on.tallies.tally with check := 0 }

def checking (c : Cursor) (t : Tallies) (q : Evq) : State := { passAt c with tallies := t, evq := q }

theorem test_meets_StoreCheckRuns :
    (((onChk fun k => { k with passStart := 40000000 }).after 0).active = true
      ∧ ((onChk fun k => { k with passStart := 40000000 }).after 0).chk.pass = none
      ∧ ((onChk fun k => { k with passStart := 40000000 }).after 0).chk.passStart + 10000000 ≤ (on.after 0).time.elapsed)
    ∧ (((passAt .tally).after 0).working = true ∧ ((passAt .tally).after 0).chk.pass = some .tally
      ∧ tallyCheck ((passAt .tally).after 0).tallies.tally = ((passAt .tally).after 0).tallies.tally.check)
    ∧ baselineCheck ((passAt .baseline).after 0).tallies.baseline.fields = ((passAt .baseline).after 0).tallies.baseline.check
    ∧ (((checking (.unitShift 3) { on.tallies with unitShifts := List.replicate 4 unitShift0 } on.evq).after 0).tallies.unitShifts[3]?
          = some unitShift0 ∧ unitShiftCheck unitShift0 = unitShift0.check)
    ∧ (((checking (.event 0) on.tallies (queueOf 1)).after 0).evq.records[0]? = some aRecord ∧ recordCheck aRecord = aRecord.check)
    ∧ tallyCheck damagedTally ≠ damagedTally.check
    ∧ (on.tallies.tally.suspect = false ∧ baselineCheck on.tallies.baseline.fields ≠ 0)
    ∧ (({ unitShift0 with check := 0 } : UnitShift).corrupt = false
      ∧ unitShiftCheck { unitShift0 with check := 0 } ≠ ({ unitShift0 with check := 0 } : UnitShift).check)
    ∧ (({ aRecord with check := 0 } : Record).corrupt = false
      ∧ recordCheck { aRecord with check := 0 } ≠ ({ aRecord with check := 0 } : Record).check)
    ∧ ((checking (.event 1) on.tallies (queueOf 1)).after 0).evq.records.length ≤ 1
    ∧ (((checking (.unitShift 0) on.tallies (queueOf 1)).after 0).chk.pass = some (.unitShift 0)
      ∧ ((checking (.unitShift 0) on.tallies (queueOf 1)).after 0).tallies.unitShifts.length ≤ 0
      ∧ ((checking (.unitShift 0) on.tallies (queueOf 1)).after 0).evq.records[0]? = some aRecord)
    ∧ (on.evq.records = [] ∧ ((passAt (.unitShift 0)).after 0).tallies.unitShifts.length ≤ 0)
    ∧ (((wrongBaseline true).after 0).tallies.tally.suspect = true ∧ ((wrongBaseline true).after 0).working = true)
    ∧ (let s : State := { restorePassSince 49999999 with pins := { on.pins with rstnLow := true } }
      (s.after 0).chk.restorePass = true ∧ (s.after 0).pins.rstnLow = true ∧ (s.after 0).working = true) := by decide +kernel

def lit (p : LampPattern) (since : Nat) : State := { on with atl := { on.atl with lamp0 := ⟨p, true, since⟩, flashUntil := some 50000000 } }

theorem test_meets_LampsMove : ((lit .slowBlink 49500000).after 0).working = true
    ∧ (((lit .slowBlink 49500000).after 0).atl.lamp .l0).pattern = .slowBlink
    ∧ (((lit .slowBlink 49500000).after 0).atl.lamp .l0).since + 500000 ≤ ((lit .slowBlink 49500000).after 0).time.elapsed
    ∧ (((lit .fastBlink 49875000).after 0).atl.lamp .l0).pattern = .fastBlink
    ∧ (((lit .fastBlink 49875000).after 0).atl.lamp .l0).since + 125000 ≤ ((lit .fastBlink 49875000).after 0).time.elapsed
    ∧ ¬ (((lit .fastBlink 49875001).after 0).atl.lamp .l0).since + 125000 ≤ ((lit .fastBlink 49875001).after 0).time.elapsed
    ∧ ((lit .slowBlink 49500000).after 0).atl.flashUntil = some 50000000
    ∧ ((lit .slowBlink 49500000).after 0).time.elapsed = 50000000
    ∧ on.atl.flashUntil = none := by decide

/-- OPEN makes L0 change from OFF to its fast blink, lit from that moment on (R183, Table 11-3). -/
theorem test_open_starts_the_fast_blink : (conf.atl.lamp .l0).pattern = .off
    ∧ (ran (exec (.openNode 7) conf)).atl.lamp .l0 = ⟨.fastBlink, true, 7⟩ ∧ (ran (exec (.openNode 7) conf)).time.elapsed = 7 := by
  decide +kernel

/-- A blink goes on through a command that leaves its pattern (R183). -/
theorem test_blink_goes_on :
    let s : State := { onClu fun c => { c with state := .holdover } with atl := { on.atl with lamp0 := ⟨.slowBlink, false, 49900000⟩ } }
    (ran (exec (.readEvent 5) s)).atl.lamp .l0 = ⟨.slowBlink, false, 49900000⟩ := by decide +kernel

/-! ### Small steps -/

/-- `on` with a command waiting. -/
def asked (c : Instr) (s : State) : State := { s with pending := [c] }

theorem test_step_takes_the_front_command :
    (ran (step (asked (.readEvent 5) on))).lpt.response = some [0x03#8, 0x07#8]
      ∧ (ran (step (asked (.readEvent 5) on))).pending = [] ∧ (ran (step (asked (.readEvent 5) on))).time.elapsed = 50000005 := by
  decide +kernel

theorem test_tick_of_a_node_at_rest : (ran (step State.reset)).time.elapsed = 1 ∧ (ran (step State.reset)).clock.date = ⟨0, 1⟩
    ∧ (ran (step State.reset)).pending = [] := by decide +kernel

theorem test_configure_is_taken : (ran (exec (.configure 0 block) State.reset)).lpt = ⟨.configured, some cfg, some [0x01#8, 0x01#8], []⟩ := by
  decide +kernel

/-- OPEN by a transaction: the records CLOCK STATE and OPENED, and the clock state JOINING. -/
theorem test_open_by_transaction :
    let t := ran (exec (.commandTransaction 0 [0x02#8, 0x00#8] false false) conf)
    t.lpt.nodeState = .active ∧ t.clu.state = .joining ∧ t.lpt.lsdo = [0x00#8]
      ∧ t.evq.records.map Record.kind = [.clockState, .opened] ∧ t.shu.lastReached = some keyBefore := by decide +kernel

/-- A full round of the manual's example at node 4: P becomes −220 (Table 2-8). -/
theorem test_round_close_of_the_example :
    let e (n : NodeNo) (x : Int) (st : BitVec 3) (d : Disposition) : RoundEntry := ⟨n, ⟨st, true⟩, roundKey0, x, 4, d⟩
    let r : Round := ⟨roundKey0, some stamp0, 4, some 85,
      [e 1 (-95) 2 .eligible, e 2 (-295) 2 .eligible, e 6 (-175) 2 .eligible, e 9 (-2215) 1 .notSound]⟩
    let s := { closing .agreed r with lif := { on.lif with nodeNumber := 4 } }
    let t := ran (exec (.roundClose 0) s)
    t.clu.p = -220 ∧ t.clu.state = .agreed ∧ t.clu.lastClosed.map (fun c => (c.full, c.used, c.trim, c.midpoint, c.correction))
      = some (true, 4, 1, -135, 220) := by decide +kernel

/-- A TRIP notice from node 3 opens a cascade and is acknowledged. -/
theorem test_trip_notice_opens_a_cascade :
    let t := ran (exec (.frameReceivedIntact 0 0x13#8 tripBody0 (crc16 (0x13#8 :: tripBody0))) inFrame)
    t.csu.current.map (fun o => o.cascade.members.length) = some 1 ∧ t.lif.acked = true ∧ t.lif.counters.intact = 1
      ∧ t.lif.view = .quiet := by decide +kernel

/-- The breaker opens by hand: its stop waits 1,600 ms and is NORMAL at the deadline. -/
theorem test_stop_is_normal_at_the_deadline :
    let s := ({ online with csu := { on.csu with list := [cascadeOwn] } } : State).breakerOpens stamp0
    let t := ran (exec (.stopDeadline 1600000) s)
    s.run.stop.isSome = true ∧ (ran (exec (.stopDeadline 1599999) s)).run.stop.isSome = true ∧ t.run.stop = none
      ∧ t.tallies.tally.fields.normalStops = 1 ∧ t.tallies.tally.fields.trips = 0 := by decide +kernel

/-- Three changes of IN3 lock it (Nc is 3). -/
theorem test_chatter_locks :
    let t := ran (exec (.qualifiedChange 0 3) (withInput 3 (completing false (.counting 1 2))))
    (t.input 3).locked = true ∧ t.evq.records.map Record.kind = [.inputChange, .chatterLock] ∧ t.lif.sendList.length = 1
      ∧ t.atl.lamp3.lit = true := by decide +kernel

/-- A boundary at a node with both roles: a unit shift record, a TALLY frame and the post in DUE. -/
theorem test_shift_boundary :
    let t := ran (exec (.shiftBoundaryReached 0) (post .early (some keyBefore) (some keyA) none 21600000000))
    t.shu.mode = .due ∧ t.shu.target = some keyA ∧ t.tallies.lastClosed = some keyA ∧ t.tallies.unitShifts.length = 1
      ∧ t.shu.records.length = 1 ∧ t.lif.sendList.map QueuedFrame.kind = [.tally] := by decide +kernel

/-- A supply loss of 65,536 backup cycles ends with the outage of 20 tenths credited and the port busy. -/
theorem test_outage_is_credited :
    let s1 := ran (exec (.mainSupplyLoss ⟨0, none⟩) online)
    let s2 := ran (exec (.mainSupplyReturn 65011) s1)
    let s3 := ran (exec (.restoreWaitEnd 525 2 1) s2)
    s3.tallies.tally.fields.outage = 20 ∧ s3.tallies.tally.fields.normalStops = 1 ∧ s3.lif.nodeNumber = 2 ∧ s3.portOpen = false
      ∧ s3.clock.date = dateAtUs 21002000000
      ∧ s3.evq.records.map Record.kind = [.powerLoss, .stopClassified, .powerRestore] := by decide +kernel

/-- A damaged tally becomes SUSPECT, and ACCEPT TALLY clears it. -/
theorem test_damaged_tally :
    let t := ran (exec (.storeCheckTest 0) (checking .tally { on.tallies with tally := damagedTally } on.evq))
    t.tallies.tally.suspect = true ∧ t.sup.firstFailure = some (.tally, 0) ∧ t.atl.lamp3.lit = true
      ∧ (ran (exec (.acceptTally ⟨0, false⟩) t)).tallies.tally.suspect = false := by decide +kernel

/-- The first slot is due at OPEN itself, and a tick takes it there without a microsecond passing (R56). -/
theorem test_first_slot_at_open :
    let t := ran (exec (.openNode 0) conf)
    Instr.sampleSlot 0 0 ∈ t.dueTimed ∧ (ran (step t)).time.elapsed = 0 := by decide +kernel

/-- A step over 32,767 days shows the last five keys it crosses (R1, R141). -/
theorem test_far_step_crosses :
    let s := onCfg { cfg with boundaries := [360, 480, 600, 720, 840, 960] }
    s.crossedKeys ⟨65535, 5⟩ ⟨0, 18000000000⟩ ⟨32767, 86340000000⟩
      = [⟨32766, 1⟩, ⟨32766, 2⟩, ⟨32766, 3⟩, ⟨32766, 4⟩, ⟨32766, 5⟩] := by decide +kernel

/-- A send waits for the own idle gap of 104 µs at the slowest strapping (R3). -/
theorem test_own_gap_delays_a_send :
    let s := { waitingTrip .idle with lif := { (waitingTrip .idle).lif with lineSpeed := 3, highFrom := 50000000 } }
    (ran (exec (.sendBegin 103) s)).lif.send = none ∧ (ran (exec (.sendBegin 104) s)).lif.send.isSome = true := by decide +kernel

/-- An own HANDOVER frame answered TOO LATE becomes HEARD when its send ends heard (R153). -/
theorem test_too_late_becomes_heard :
    let s := { sendingOf (queued handoverContent 0 true false) with
      lastAccepted := some keyA, shu := (withResult (some .pending)).shu }
    let t := s.postHandover 3 .agreed handoverBody0
    (t.shu.resultOf keyA).map Result.own = some (some .pending)
      ∧ ((ran (exec (.attemptEnd 0 true) t)).shu.resultOf keyA).map Result.own = some (some .heard) := by decide +kernel

end Sys2Proof.Tests
end

section
/-! What a round close does in HOLDOVER (R45): the attention flags one by one, the changes of clock state that a full round
makes there, and the time test, which does nothing in that state. -/

namespace Sys2Proof.Machine

/-! ### Attention flags one by one -/

theorem Source.number_lt (f : Source) : f.number < 16 := by
  cases f <;> decide

theorem Source.number_inj {f g : Source} : f.number = g.number ↔ f = g := by
  cases f <;> cases g <;> decide

/-- A source's mark holds its own bit and no other (section 12.4). -/
@[simp] theorem Source.mark_getLsbD (f g : Source) : f.mark.getLsbD g.number = decide (f = g) := by
  have hlt := g.number_lt
  have hinj := Source.number_inj (f := f) (g := g)
  simp only [Source.mark, BitVec.getLsbD_shiftLeft, BitVec.getLsbD_one]
  grind

@[simp] theorem Source.markIf_getLsbD (f g : Source) (b : Bool) :
    (f.markIf b).getLsbD g.number = (b && decide (f = g)) := by
  cases b <;> simp [Source.markIf]

/-- Setting a flag sets that flag alone (R180). -/
@[simp] theorem State.setFlag_flag (s : State) (f g : Source) : (s.setFlag f).flag g = (s.flag g || decide (f = g)) := by
  simp [State.flag]

/-- A record request can set the EVENT OVERFLOW flag alone (R78). -/
@[simp] theorem State.request_flag (s : State) (k : RecordKind) (t : Stamp) (a : Nat) (b : BitVec 32) (g : Source) :
    (s.request k t a b).flag g = (s.flag g || (s.evq.overflows && decide (Source.eventOverflow = g))) := by
  simp [State.flag, State.request]

/-- A change of clock state can set the CLOCK STATE and EVENT OVERFLOW flags alone (R30, R78). -/
theorem State.changeState_flag_other (s : State) (new : ClockState) (cause : StateCause) {g : Source}
    (hstate : Source.clockState ≠ g) (hover : Source.eventOverflow ≠ g) : (s.changeState new cause).flag g = s.flag g := by
  simp only [State.changeState, State.requestNow, State.setFlag_flag, State.request_flag, hstate, hover]
  simp [State.flag]

/-! ### The close in HOLDOVER -/

section
variable {s : State} (holds : s.clu.state = .holdover)
include holds

theorem State.closeTransition_holdover_short {v : CloseValues} (r : Round) (short : v.full = false) :
    s.closeTransition r v = (s, .none) := by
  simp [State.closeTransition, holds, short]

theorem State.closeTransition_holdover_within {v : CloseValues} (r : Round) (full : v.full = true)
    (within : v.correction.natAbs ≤ s.cfg.boundUs) :
    s.closeTransition r v = ((s.replaceP (-v.correction)).changeState .agreed .fullRound, .slew) := by
  simp [State.closeTransition, holds, full, State.holdoverFull, State.beyondBound, Nat.not_lt.mpr within]

theorem State.closeTransition_holdover_beyond {v : CloseValues} (r : Round) (full : v.full = true)
    (beyond : s.cfg.boundUs < v.correction.natAbs) :
    s.closeTransition r v = (s.changeState .joining .largeCorrection, .none) := by
  simp [State.closeTransition, holds, full, State.holdoverFull, State.beyondBound, beyond]

/-- R45: a sound MARK found foreign causes no coarse set in HOLDOVER, and is not counted toward the split test. -/
theorem State.timeTest_holdover (sender : NodeNo) (m : MarkBody) : s.timeTest sender m = s := by
  unfold State.timeTest
  cases s.foreignMark m with
  | none => rfl
  | some f => simp [holds]

/-- A close in HOLDOVER sets no flag but those of a change of clock state. -/
theorem State.closeTransition_holdover_flag (r : Round) (v : CloseValues) {g : Source}
    (hstate : Source.clockState ≠ g) (hover : Source.eventOverflow ≠ g) :
    (s.closeTransition r v).1.flag g = s.flag g := by
  cases full : v.full with
  | false => rw [State.closeTransition_holdover_short holds r full]
  | true =>
    obtain beyond | within := Nat.lt_or_ge s.cfg.boundUs v.correction.natAbs
    · rw [State.closeTransition_holdover_beyond holds r full beyond]
      exact State.changeState_flag_other _ _ _ hstate hover
    · rw [State.closeTransition_holdover_within holds r full within]
      exact State.changeState_flag_other _ _ _ hstate hover

end

/-- R41: a full round in JOINING steps or slews. -/
theorem State.closeTransition_joining_full {s : State} {v : CloseValues} (joins : s.clu.state = .joining) (r : Round)
    (full : v.full = true) : s.closeTransition r v = s.joiningFull v.correction := by
  simp [State.closeTransition, joins, full]

/-- Settles O36: a short round, a full one within the bound and one beyond it by their equations, the flags by
`closeTransition_holdover_flag`. -/
theorem holdoverRoundClose : Obligations.HoldoverRoundClose := by
  intro s r v holds
  refine ⟨State.closeTransition_holdover_short holds r, fun full within => ?_, fun full beyond => ?_,
    State.timeTest_holdover holds, ?_⟩
  · rw [State.closeTransition_holdover_within holds r full within]
    simp
  · rw [State.closeTransition_holdover_beyond holds r full beyond]
    have joins : (s.changeState .joining .largeCorrection).clu.state = .joining := by simp
    exact ⟨rfl, by simp, by simp, joins, fun r' _ full' => State.closeTransition_joining_full joins r' full'⟩
  · exact State.closeTransition_holdover_flag holds r v (g := .split) (by decide) (by decide)

end Sys2Proof.Machine
end

section
/-! What a close notice does to the stop awaiting classification (R101, R103): one equation for each phase of the stop, and
the deadline row, which finds nothing to decide once the stop awaits a close. -/

namespace Sys2Proof.Machine

/-- A cascade that qualifies holds a stored member (R96), so it has a first-out to name. -/
theorem State.firstOut_isSome_of_qualifies {s : State} {c : Cascade} (q : s.qualifies c = true) :
    c.firstOut.isSome = true := by
  obtain ⟨m, stored, _⟩ := List.any_eq_true.mp q
  obtain ⟨first, rest, members⟩ := List.exists_cons_of_ne_nil (List.ne_nil_of_mem stored)
  simp [Cascade.firstOut, members]

/-! ### The close notice, by the stop and its phase -/

theorem State.closeNotice_of_no_stop {s : State} (c : Cascade) (h : s.run.stop = none) : s.closeNotice c = s := by
  simp [State.closeNotice, h]

section
variable {s : State} {x : Stop} (stop : s.run.stop = some x)
include stop

/-- R101: the cascade must both cover the stop's date and qualify. -/
theorem State.closeNotice_of_waiting (c : Cascade) {deadline : Nat} (phase : x.phase = .waiting deadline) :
    s.closeNotice c =
      if c.covers s.cfg.spanMs x.stamp.date && s.qualifies c then s.classify x c.firstOut .none else s := by
  simp [State.closeNotice, stop, phase]

section
variable {opening : Date} {opener : NodeNo} (phase : x.phase = .awaitingClose opening opener)
include phase

/-- R103: the notice for the key held decides, one way or the other. -/
theorem State.closeNotice_of_awaited {c : Cascade} (date : c.opening.date = opening) (node : c.opener = opener) :
    s.closeNotice c = s.classify x (if s.qualifies c then c.firstOut else none) .none := by
  simp [State.closeNotice, stop, phase, date, node]

/-- R103: a notice for another key decides nothing. -/
theorem State.closeNotice_of_not_awaited {c : Cascade} (other : c.opening.date ≠ opening ∨ c.opener ≠ opener) :
    s.closeNotice c = s := by
  have key : ¬(c.opening.date = opening ∧ c.opener = opener) := not_and_or.mpr other
  simp [State.closeNotice, stop, phase, key]

/-- R102 sets a deadline to a WAITING stop alone. -/
theorem State.deadlineDue_of_awaiting : s.deadlineDue = none := by
  simp [State.deadlineDue, stop, phase]

end
end

/-- STOP_DEADLINE with no deadline due lets its wait pass and does nothing else (log 2). -/
theorem exec_stopDeadline_of_not_due {s : State} {w : Nat} (h : (s.after w).deadlineDue = none) :
    exec (.stopDeadline w) s = .next (s.after w).finish := by
  change execStopDeadline w s = _
  simp [execStopDeadline, State.take, h]

/-- Settles O45: the notice by the equations of the stop's phase, a qualifying cascade's first-out by
`firstOut_isSome_of_qualifies`, and the deadline row because a wait leaves the Run Unit as it is. -/
theorem closeNoticeDecides : Obligations.CloseNoticeDecides := by
  intro s c noFlag
  refine ⟨State.closeNotice_of_no_stop c, fun x deadline stop phase => ?waiting,
    fun x opening opener stop phase => ?awaiting⟩
  case waiting =>
    rw [State.closeNotice_of_waiting stop c phase]
    refine ⟨fun covers q => ⟨?_, State.firstOut_isSome_of_qualifies q⟩, fun fails => ?_⟩
    · rw [covers, q]
      rfl
    · rw [Bool.and_eq_false_iff.mpr fails]
      rfl
  case awaiting =>
    refine ⟨fun date node => ?key, State.closeNotice_of_not_awaited stop phase, fun w => ?deadline⟩
    case key =>
      rw [State.closeNotice_of_awaited stop phase date node]
      refine ⟨fun q => ⟨?_, State.firstOut_isSome_of_qualifies q⟩, fun q => ?_⟩
      · rw [q]
        rfl
      · rw [q]
        rfl
    case deadline =>
      have unchanged : (s.after w).run.stop = some x := by simpa using stop
      exact exec_stopDeadline_of_not_due (State.deadlineDue_of_awaiting unchanged phase)

end Sys2Proof.Machine
end

section
/-! What every command does, once: a wait, an effect, and the end of a command (log 1). `effectOf` names the effect of each
command; statements about all commands are proved about it, one case for each row of the table. -/

namespace Sys2Proof.Machine

/-- What is done with what is found, or else. -/
def whenFound {α : Type} (o : Option α) (t : State) (f : α → State) : State :=
  match o with
  | none => t
  | some x => f x

/-- The effect of a command on the state after its wait; `exec_eq_effectOf` ties it to `exec`. -/
def effectOf : Instr → State → State
  | .configure _ block, s => s.viaPort (State.configure block)
  | .openNode _, s => s.viaPort State.openCommand
  | .setTime _ day us, s => s.viaPort (State.setTimeCommand day us.toNat)
  | .presetTally _ fields, s => s.viaPort (State.presetCommand fields)
  | .acceptTally arrival, s => s.viaPort (State.acceptCommand arrival.finding)
  | .readStatus _, s => s.viaPort State.readStatusCommand
  | .readEvent _, s => s.viaPort State.readEventCommand
  | .readCascade _, s => s.viaPort State.readCascadeCommand
  | .readRound _, s => s.viaPort State.readRoundCommand
  | .readTally _, s => s.viaPort State.readTallyCommand
  | .readShift _ position, s => s.viaPort (State.readShiftCommand position.toNat)
  | .readStationShift _, s => s.viaPort State.readStationCommand
  | .ackAttention _ mask, s => s.viaPort (State.ackCommand mask)
  | .commandTransaction _ bytes insideByte whileExecuting, s => s.when s.portPowered (s.transact bytes insideByte whileExecuting)
  | .readTransaction _ clocked whileExecuting, s => s.when s.portPowered (s.readOut clocked whileExecuting)
  | .startCondition _, s => s.when (s.sees .idle) s.startSeen
  | .lineIdle arrival, s => s.when (s.sees .quiet && s.idleAfter arrival.high) (s.lineIdle arrival.high)
  | .frameAbandoned arrival, s =>
    if s.sendingFrame then s.when (s.highFor nominalGapUs) (s.breakOwnFrame nominalGapUs)
    else s.when (s.receiving && s.highFor nominalGapUs) (s.abandonFrame arrival.matched)
  | .sendBegin _, s => s.when s.maySend (s.beginSend s.startNow false)
  | .contentionJoin _, s => whenFound s.joinStart s.takeClock fun start => s.beginSend start true
  | .arbitrationLoss _ bit, s =>
    s.when (decide (s.sentBit bit = some true))
      (s.count fun c => { c with arbitration := satInc c.arbitration }).breakOffSend
  | .driverFault _ bit, s => s.when (decide (s.sentBit bit = some false)) (s.countOnce LineCounters.addForm).breakOffSend
  | .attemptEnd _ heard, s => whenFound s.sending s fun x => s.endAttempt x.1 x.2 heard
  | .frameReceivedIntact _ header body check, s => s.when (s.receiving && !s.lif.counted && frameChecks header body check) (s.receiveIntact header body)
  | .checkError _ header body check stopped, s => s.when (s.receiving && !s.lif.counted && checkDiffers header body check) (s.receiveWrong stopped)
  | .formError _ cause, s =>
    if s.sendingFrame then s.when (endsFrame cause) (s.breakOwnFrame 0)
    else s.when (s.receiving && causePossible cause) (s.receiveFaulty cause)
  | .lineStuck arrival, s => s.when (s.working && !s.sees .stuck) (s.enterStuck arrival.matched)
  | .lineStuckLeft _, s => s.when (s.sees .stuck && s.highFor s.ownGap) (s.lineQuietAfter s.ownGap)
  | .oscillatorSecond _, s => s.when s.secondDue s.beginSecond
  | .roundBoundary _, s => whenFound s.ownBoundary s fun k => s.takeBoundary k
  | .roundClose _, s => whenFound s.closeDue s fun r => s.closeRound r
  | .refsecEdge _, s => s.when s.working s.referenceEdge
  | .refsecSilence _, s => s.when s.silenceDue s.referenceSilence
  | .firstSample _ input high, s => whenFound (s.firstDue input) s fun c => s.when (levelOf (s.inputCfg input) high == c.1) (s.firstSampled input c.1 c.2)
  | .qualifiedChange _ input, s => whenFound (s.changeDue input) s fun c => s.qualified input c.1 c.2
  | .chatterWindowExpiry _ input, s => s.when (s.windowDue input) (s.windowCloses input)
  | .cascadeClose _, s => whenFound s.cascadeDue s fun c => s.closeCascade c
  | .stopDeadline _, s => whenFound s.deadlineDue s fun stop => s.decideStop stop
  | .spdEdge _, s => s.when s.edgeAccepted s.acceptEdge
  | .speedSilence _, s => s.when s.speedSilenceDue s.declareSilence
  | .speedSilent _, s => s.when s.silentDue s.beginSpeedSilent
  | .oscillatorTenth _, s => s.when s.tenthDue s.creditTenth
  | .shiftBoundaryReached _, s => whenFound s.boundaryKeyDue s fun k => s.boundaryReached k
  | .earlyMark _, s => s.when s.earlyDue (s.setMode .early)
  | .graceExpiry _, s => s.when s.graceDue ((s.setMode .overdue).setFlag .handoverOverdue)
  | .pairingTimeout _, s => s.when s.pairingDue s.dropHeld
  | .gatherExpiry _ key, s => whenFound (s.shu.recordOf key) s fun r => s.when (s.gatherDue r) (s.endGathering key r)
  | .mainSupplyLoss arrival, s => (s.midOpen arrival.midOpen).vddLost
  | .backupSupplyLoss _, s => s.vbkLost
  | .mainSupplyReturn _, s => s.when (decide (s.sup.state = .keepAlive)) { s with sup := { s.sup with state := .restoring, restoreCycles := 0 } }
  | .restoreWaitEnd _ id sp, s => s.when s.restoreDue (s.endRestore id sp)
  | .coldStart _ returned, s => s.when (decide (s.sup.state = .off)) (s.leaveOff returned)
  | .rstnAssert arrival, s => (s.when (s.working && !s.pins.rstnLow && !s.atWaitEnd) (s.midOpen arrival.midOpen).assertReset).setRstn true
  | .rstnRelease _ id sp, s => (s.when (decide (s.sup.state = .run) && s.sup.rstnHeld) (s.releaseReset id sp)).setRstn false
  | .storeCheckPassStart _, s => s.when s.passDue s.beginPass
  | .storeCheckTest _, s => whenFound s.testDue s fun c => s.testStep c
  | .storeCheckPassEnd _, s => s.when s.passOver s.endPass
  | .lampBlinkPhase _ lamp, s => s.when s.working (s.blink lamp)
  | .lampFlashEnd _, s => s.when s.flashOver { s with atl := { s.atl with flashUntil := none } }
  | .sampleSlot _ levels, s => s.when s.slotDue (s.sampleSlot levels)
  | .notAStart _, s => s.when (s.sees .idle || s.sees .quiet) s.lineQuiet
  | .backupSupplyReturn _, s => s.when (!decide (s.sup.state = .off)) { s with sup := { s.sup with vbkPresent := true } }

set_option smartUnfolding false in
/-- Every command answers a next state: its effect after its wait, Attention and Lamps following (log 1). -/
theorem exec_eq_effectOf (c : Instr) (s : State) :
    exec c s = .next (effectOf c (s.after (Laws.waitOf c))).finish := by
  cases c <;> rfl

/-- A condition that ticks, waits and commands keep is one that every step keeps. -/
theorem Kept.of_exec {p : State → Prop} (queue : ∀ s q n, p s → p { s with pending := q, free := n })
    (wait : ∀ s n, p s → p (s.after n)) (command : ∀ c s t, p s → exec c s = .next t → p t) : Kept p := by
  intro s t holds next
  unfold step at next
  split at next
  · obtain rfl : s.tick = t := by simpa using next
    unfold State.tick
    split
    · exact queue _ _ _ (wait s 1 holds)
    · exact queue _ _ _ holds
  · next c rest _ => exact command c _ t (queue s rest s.free holds) next

/-- So is one that ticks, waits, effects and the end of a command keep. -/
theorem Kept.of_parts {p : State → Prop} (queue : ∀ s q n, p s → p { s with pending := q, free := n })
    (wait : ∀ s n, p s → p (s.after n)) (effect : ∀ c s, p s → p (effectOf c s)) (finish : ∀ s, p s → p s.finish) : Kept p :=
  Kept.of_exec queue wait fun c s t holds next => by
    rw [exec_eq_effectOf] at next
    obtain rfl := Host.Outcome.next.inj next
    exact finish _ (effect c _ (wait s _ holds))

/-! ### The queue of commands is the step's alone -/

/-- A slot changes inputs, place and levels alone. -/
@[simp] theorem State.sampleSlot_fields (s : State) (levels : BitVec 16) :
    (s.sampleSlot levels).time = s.time ∧ (s.sampleSlot levels).clock = s.clock ∧
    (s.sampleSlot levels).lif = s.lif ∧ (s.sampleSlot levels).clu = s.clu ∧
    (s.sampleSlot levels).evq = s.evq ∧ (s.sampleSlot levels).csu = s.csu ∧
    (s.sampleSlot levels).spu = s.spu ∧ (s.sampleSlot levels).run = s.run ∧
    (s.sampleSlot levels).tallies = s.tallies ∧ (s.sampleSlot levels).shu = s.shu ∧
    (s.sampleSlot levels).lastAccepted = s.lastAccepted ∧ (s.sampleSlot levels).sup = s.sup ∧
    (s.sampleSlot levels).chk = s.chk ∧ (s.sampleSlot levels).lpt = s.lpt ∧
    (s.sampleSlot levels).atl = s.atl ∧ (s.sampleSlot levels).free = s.free ∧
    (s.sampleSlot levels).pending = s.pending := by
  rw [State.sampleSlot_frame]
  exact ⟨rfl, rfl, rfl, rfl, rfl, rfl, rfl, rfl, rfl, rfl, rfl, rfl, rfl, rfl, rfl, rfl, rfl⟩

@[simp] theorem State.when_pending {s t : State} (b : Bool) (h : t.pending = s.pending) : (s.when b t).pending = s.pending :=
  ite_holds (p := fun x : State => x.pending = s.pending) h rfl

@[simp] theorem State.viaPort_pending {s : State} {f : State → State} (h : (f s).pending = s.pending) :
    (s.viaPort f).pending = s.pending :=
  ite_holds (p := fun x : State => x.pending = s.pending) h rfl

/-- What OPEN keeps of the queue at every point between its steps. -/
@[simp] theorem State.openTo_pending (s : State) (n : Nat) : (s.openTo n).pending = s.pending := by
  refine State.openTo_keeps (fun t => t.pending = s.pending) ?_ s rfl n
  intro step listed t h
  fin_cases listed <;>
    simp [State.openNodeState, State.openClock, State.recordOpened, State.startSweep, State.startRun, State.startChecks, h]

@[simp] theorem State.midOpen_pending (s : State) (reached : Option Nat) : (s.midOpen reached).pending = s.pending := by
  obtain h | ⟨n, _, h⟩ := s.midOpen_cases reached <;> simp [h]

@[simp] theorem State.blink_pending (s : State) (lamp : Lamp) : (s.blink lamp).pending = s.pending := by
  unfold State.blink
  split <;> rfl

@[simp] theorem State.assertReset_pending (s : State) : s.assertReset.pending = s.pending := by simp [State.assertReset]

@[simp] theorem State.vddLost_pending (s : State) : s.vddLost.pending = s.pending := by
  unfold State.vddLost
  (repeat' split) <;> simp [State.lossTreatment, State.toKeepAlive, State.toOff, State.backToKeepAlive]

@[simp] theorem State.vbkLost_pending (s : State) : s.vbkLost.pending = s.pending := by
  unfold State.vbkLost
  split <;> simp [State.toOff]

@[simp] theorem State.endRestore_pending (s : State) (id : NodeNo) (sp : BitVec 2) :
    (s.endRestore id sp).pending = s.pending := by
  unfold State.endRestore
  dsimp only
  (repeat' split) <;> simp [State.toRun]

@[simp] theorem State.endPass_pending (s : State) : s.endPass.pending = s.pending := by
  unfold State.endPass
  dsimp only
  split <;> simp

@[simp] theorem State.done_pending (s : State) (c : CommandCode) (data : List Byte) : (s.done c data).pending = s.pending := rfl

@[simp] theorem State.refuse_pending (s : State) (c : CommandCode) (r : Reason) : (s.refuse c r).pending = s.pending := rfl

@[simp] theorem State.empty_pending (s : State) (c : CommandCode) : (s.empty c).pending = s.pending := rfl

/-! The thirteen commands of the Local Port. -/

@[simp] theorem State.configure_pending (block : List Byte) (s : State) : (State.configure block s).pending = s.pending := by
  unfold State.configure
  (repeat' split) <;> simp

@[simp] theorem State.openCommand_pending (s : State) : s.openCommand.pending = s.pending := by
  unfold State.openCommand
  (repeat' split) <;> simp [State.openSteps]

@[simp] theorem State.setTimeCommand_pending (day : Day) (us : Nat) (s : State) : (State.setTimeCommand day us s).pending = s.pending := by
  unfold State.setTimeCommand
  (repeat' split) <;> simp [State.timeSet]

@[simp] theorem State.presetCommand_pending (f : TallyFields) (s : State) : (State.presetCommand f s).pending = s.pending := by
  unfold State.presetCommand
  (repeat' split) <;> simp

@[simp] theorem State.acceptCommand_pending (finding : Bool) (s : State) : (State.acceptCommand finding s).pending = s.pending := by
  simp [State.acceptCommand]

@[simp] theorem State.readStatusCommand_pending (s : State) : s.readStatusCommand.pending = s.pending := by
  simp [State.readStatusCommand]

@[simp] theorem State.readEventCommand_pending (s : State) : s.readEventCommand.pending = s.pending := by
  unfold State.readEventCommand
  (repeat' split) <;> simp [State.removeHead]

@[simp] theorem State.readCascadeCommand_pending (s : State) : s.readCascadeCommand.pending = s.pending := by
  unfold State.readCascadeCommand
  (repeat' split) <;> simp

@[simp] theorem State.readRoundCommand_pending (s : State) : s.readRoundCommand.pending = s.pending := by
  unfold State.readRoundCommand
  (repeat' split) <;> simp

@[simp] theorem State.readTallyCommand_pending (s : State) : s.readTallyCommand.pending = s.pending := by
  simp [State.readTallyCommand]

@[simp] theorem State.readShiftCommand_pending (position : Nat) (s : State) : (State.readShiftCommand position s).pending = s.pending := by
  unfold State.readShiftCommand
  (repeat' split) <;> simp

@[simp] theorem State.readStationCommand_pending (s : State) : s.readStationCommand.pending = s.pending := by
  unfold State.readStationCommand
  (repeat' split) <;> simp

@[simp] theorem State.ackCommand_pending (mask : BitVec 16) (s : State) : (State.ackCommand mask s).pending = s.pending := by
  simp [State.ackCommand]

@[simp] theorem State.runCommand_pending (s : State) (c : CommandCode) (args : List Byte) :
    (s.runCommand c args).pending = s.pending := by
  cases c <;> simp [State.runCommand]

@[simp] theorem State.readOut_pending (s : State) (clocked : Nat) (busy : Bool) :
    (s.readOut clocked busy).pending = s.pending := by
  unfold State.readOut
  (repeat' split) <;> simp

@[simp] theorem State.examine_pending (s : State) (code : Byte) (bytes : List Byte) (insideByte : Bool) :
    (s.examine code bytes insideByte).pending = s.pending := by
  unfold State.examine
  dsimp only
  (repeat' split) <;> simp [State.refuseCode]

@[simp] theorem State.transact_pending (s : State) (bytes : List Byte) (insideByte whileExecuting : Bool) :
    (s.transact bytes insideByte whileExecuting).pending = s.pending := by
  unfold State.transact
  dsimp only
  (repeat' split) <;> simp

/-- No effect touches the queue. -/
theorem effectOf_pending (c : Instr) (s : State) : (effectOf c s).pending = s.pending := by
  cases c
  all_goals simp only [effectOf, whenFound]
  all_goals (repeat' split) <;>
    simp [State.startSeen, State.beginSecond, State.beginSpeedSilent, State.leaveOff, State.releaseReset, State.beginPass]

/-- Settles O3: every command is a wait, an effect and an end, none of which touches the queue. -/
theorem everyCommandGoesOn : Obligations.EveryCommandGoesOn := by
  intro c s
  exact ⟨_, exec_eq_effectOf c s, by simp [effectOf_pending]⟩

/-- Settles O1, the definition of a step with a command in front. -/
theorem frontCommandRuns : Obligations.FrontCommandRuns := fun _ _ _ => rfl

end Sys2Proof.Machine
end

section
/-! Attention and Lamps follows the state (R180, R182, R183): the end of every command makes it do so, and time and the queue
leave what it follows. -/

namespace Sys2Proof.Machine

theorem State.finish_of_working {s : State} (h : s.working = true) : s.finish = { s with atl := s.atlShown } := if_pos h

theorem State.finish_of_idle {s : State} (h : s.working = false) : s.finish = { s with atl := Atl.initial s.time.elapsed } := by
  simp [State.finish, h]

/-- The pattern a lamp takes is its pattern. -/
@[simp] theorem LampState.take_pattern (l : LampState) (p : LampPattern) (now : Nat) : (l.take p now).pattern = p := by
  unfold LampState.take
  split
  · assumption
  · rfl

/-- Every lamp is lit as its pattern has it (Table 11-2). -/
def State.lampsLit (s : State) : Prop := ∀ lamp, (s.atl.lamp lamp).litByPattern

theorem State.atlShown_lit {s : State} (lit : s.lampsLit) (lamp : Lamp) : (s.atlShown.lamp lamp).litByPattern := by
  cases lamp
  · exact LampState.take_litByPattern _ _ (lit .l0)
  · exact LampState.take_litByPattern _ _ (lit .l1)
  · exact LampState.take_litByPattern _ _ (lit .l2)
  · exact LampState.take_litByPattern _ _ (lit .l3)

/-- The end of a command leaves what the blocks see of the node's state. -/
@[simp] theorem State.finish_seen (s : State) :
    s.finish.working = s.working ∧ s.finish.active = s.active ∧ s.finish.cfg = s.cfg := by
  simp [State.working, State.active, State.cfg]

/-- While the main domain works, outputs, flags, patterns and lit lamps come from `atlShown`. -/
theorem State.finish_attends_working {s : State} (h : s.working = true) (lit : s.lampsLit) : s.finish.attends := by
  rw [State.finish_of_working h]
  have works : ({ s with atl := s.atlShown } : State).working = true := h
  refine ⟨?outputs, fun _ => ?levels, ?patterns, State.atlShown_lit lit⟩
  case outputs =>
    rw [State.outputsFollow, if_pos works]
    exact ⟨rfl, rfl⟩
  case levels =>
    refine BitVec.eq_of_getLsbD_eq fun i _ => ?_
    simp only [State.atlShown, State.levelMarks, BitVec.getLsbD_and, BitVec.getLsbD_or]
    grind
  case patterns =>
    rw [if_pos works]
    exact ⟨LampState.take_pattern .., LampState.take_pattern .., LampState.take_pattern .., LampState.take_pattern ..⟩

/-- While the main domain does not work, everything is off. -/
theorem State.finish_attends_idle {s : State} (h : s.working = false) : s.finish.attends := by
  have idle : ¬s.finish.working = true := by simp [h]
  refine ⟨?outputs, fun works => absurd works idle, ?patterns, fun lamp => ?lit⟩
  case outputs =>
    rw [State.outputsFollow, if_neg idle, State.finish_idle s h]
    exact ⟨rfl, rfl, rfl⟩
  case patterns =>
    rw [if_neg idle, State.finish_idle s h]
    exact fun lamp => by rw [Atl.initial_lamp]
  case lit => rw [State.finish_idle s h, Atl.initial_lamp, LampState.litByPattern]

/-- A lamp that toggles blinks, and a blinking lamp is lit and unlit in turn. -/
theorem LampState.toggle_lit {l : LampState} {half : Nat} (blinks : l.pattern.halfPeriod = some half) (n : Nat) :
    (l.toggle n).litByPattern := by
  cases pattern : l.pattern <;> simp_all [LampPattern.halfPeriod, LampState.toggle, LampState.litByPattern]

/-- A command leaves every lamp lit as its pattern has it, whatever becomes of the lamps before its end. -/
theorem LampsAtEnd.lit {c : Instr} {s m : State} (found : LampsAtEnd c s m) (lit : s.lampsLit) : m.lampsLit := by
  intro k
  obtain same | ⟨w, lamp, half, _, blinks, toggled⟩ | ⟨off, _⟩ := found
  · rw [same]
    exact lit k
  · rw [toggled]
    by_cases this : k = lamp
    · rw [this, Atl.setLamp_same]
      exact LampState.toggle_lit blinks half
    · rw [Atl.setLamp_other _ _ this]
      exact lit k
  · rw [off, LampState.litByPattern]

/-- What Attention and Lamps follows stands as it was after a wait. -/
theorem State.after_attends (s : State) (n : Nat) (h : s.attends) : (s.after n).attends := by
  simpa [State.attends, State.outputsFollow, State.levelsSet, State.lampsFollow, State.levelMarks, lamp0Pattern, lamp1Pattern,
    lamp2Pattern, lamp3Pattern, State.anyLocked, State.input] using h

/-- Settles O7: the end of a command makes Attention and Lamps follow (`finish_attends_working`, `finish_attends_idle`), lamps
being lit by `exec_lamps`. -/
theorem attentionAlwaysFollows : Obligations.AttentionAlwaysFollows := by
  refine Kept.of_exec (fun _ _ _ h => h) State.after_attends fun c s t ⟨_, _, _, lit⟩ next => ?_
  obtain ⟨m, rfl, found⟩ := exec_lamps next
  cases h : m.working with
  | true => exact State.finish_attends_working h (found.lit lit)
  | false => exact State.finish_attends_idle h

end Sys2Proof.Machine
end

section
/-! The books the node keeps: the Event Queue's numbers (R75 to R78), and the lists and tables with a limit or an order (R20, R35,
R92, R98, R132, R157, R158). `Keeps s t` says that of these conditions t has those that s has. For each operation one lemma says
that a state keeps them still after it; a composite operation's proof is its definition again. -/

namespace Sys2Proof.Machine

/-! ### The conditions, block by block -/

/-- The queue's numbers account for its records (R75, R77, R78). -/
def Evq.accounts (q : Evq) : Prop := q.sound ∧ q.chained

/-- The send list keeps within its places (R20). -/
def sendListFits (l : List QueuedFrame) : Prop :=
  (l.filter fun f => !f.isMark).length ≤ 7 ∧ (l.filter QueuedFrame.isMark).length ≤ 1

/-- Open and closed cascades keep within their places (R92, R98). -/
def Csu.fits (u : Csu) : Prop :=
  u.list.length ≤ 4 ∧ (∀ c ∈ u.list, c.members.length ≤ 24)
    ∧ ∀ o, u.current = some o → o.cascade.members.length ≤ 24

/-- The station shift list keeps within its places, its entries in order (R157, R158). -/
def recordsFit (l : List StationRecord) : Prop := l.length ≤ 8 ∧ ∀ r ∈ l, r.ordered

/-- The open round's table stands in order (R35). -/
def roundOrdered (r : Option Round) : Prop := ∀ x, r = some x → x.ordered

theorem State.bounded_iff (s : State) :
    s.bounded ↔ sendListFits s.lif.sendList ∧ s.csu.fits ∧ s.tallies.unitShifts.length ≤ 4 ∧ recordsFit s.shu.records
      ∧ roundOrdered s.clu.round := by
  simp only [State.bounded, sendListFits, Csu.fits, recordsFit, roundOrdered, and_assoc]

/-- The parts of the state that the conditions speak of. -/
def State.books (s : State) : Evq × List QueuedFrame × Csu × List UnitShift × List StationRecord × Option Round :=
  (s.evq, s.lif.sendList, s.csu, s.tallies.unitShifts, s.shu.records, s.clu.round)

/-- Of the conditions on the books, t has those that s has. -/
structure Keeps (s t : State) : Prop where
  events : s.evq.accounts → t.evq.accounts
  sends : sendListFits s.lif.sendList → sendListFits t.lif.sendList
  cascades : s.csu.fits → t.csu.fits
  shifts : s.tallies.unitShifts.length ≤ 4 → t.tallies.unitShifts.length ≤ 4
  records : recordsFit s.shu.records → recordsFit t.shu.records
  round : roundOrdered s.clu.round → roundOrdered t.clu.round

theorem Keeps.refl (s : State) : Keeps s s := ⟨id, id, id, id, id, id⟩

section
variable {s t u : State}

theorem Keeps.trans (h : Keeps s t) (k : Keeps t u) : Keeps s u :=
  ⟨k.events ∘ h.events, k.sends ∘ h.sends, k.cascades ∘ h.cascades, k.shifts ∘ h.shifts, k.records ∘ h.records,
    k.round ∘ h.round⟩

/-- What changes no book keeps them. -/
theorem Keeps.same (h : Keeps s t) (same : u.books = t.books) : Keeps s u := by
  simp only [State.books, Prod.mk.injEq] at same
  obtain ⟨events, sends, cascades, shifts, records, round⟩ := same
  exact h.trans ⟨by simp [events], by simp [sends], by simp [cascades], by simp [shifts], by simp [records], by simp [round]⟩

theorem Keeps.ite {c : Prop} [Decidable c] (ht : Keeps s t) (hu : Keeps s u) : Keeps s (if c then t else u) :=
  ite_holds ht hu

theorem Keeps.when {b : Bool} (ht : Keeps s t) (hu : Keeps s u) : Keeps s (t.when b u) := ite_holds hu ht

theorem Keeps.viaPort {f : State → State} (ht : Keeps s t) (hf : Keeps s (f t)) : Keeps s (t.viaPort f) := ite_holds hf ht

end

/-! ### The Event Queue -/

/-- The chain with one record more at its tail (R75). -/
theorem seqChain_append {l : List Record} {r : Record} {next : BitVec 16} :
    seqChain (l ++ [r]) next ↔ seqChain l r.seq ∧ next = seqAfter r := by
  induction l with
  | nil => simp [seqChain]
  | cons x xs ih =>
    cases xs with
    | nil => simp [seqChain]
    | cons y ys => simpa [seqChain, and_assoc] using fun _ => ih

/-- What stands behind the head is a chain as well (R80). -/
theorem seqChain_tail {r : Record} {rest : List Record} {next : BitVec 16} (h : seqChain (r :: rest) next) :
    seqChain rest next := by
  cases rest with
  | nil => trivial
  | cons x xs => exact h.2

/-- The chain depends on numbers, kinds and lost counts alone. -/
theorem seqChain_set {l : List Record} {p : Nat} {r x : Record} {next : BitVec 16} (at_p : l[p]? = some x)
    (seq : r.seq = x.seq) (after : seqAfter r = seqAfter x) : seqChain (l.set p r) next ↔ seqChain l next := by
  induction l generalizing p with
  | nil => simp
  | cons y ys ih =>
    cases p with
    | zero =>
      obtain rfl : y = x := by simpa using at_p
      cases ys <;> simp [seqChain, after]
    | succ p =>
      have tail := ih (p := p) (by simpa using at_p)
      cases ys with
      | nil => simp at at_p
      | cons z zs =>
        cases p with
        | zero =>
          obtain rfl : z = x := by simpa using at_p
          simp only [List.set_cons_succ, List.set_cons_zero, seqChain, seq] at tail ⊢
          rw [tail]
        | succ p =>
          simp only [List.set_cons_succ, seqChain] at tail ⊢
          rw [tail]

theorem seqAfter_ordinary {r : Record} (h : r.kind ≠ .overflow) : seqAfter r = r.seq + 1 := by
  simp [seqAfter, Record.isOverflow, h]

theorem seqAfter_overflow {r : Record} (h : r.kind = .overflow) : seqAfter r = r.seq + r.lostCount.truncate 16 := by
  simp [seqAfter, Record.isOverflow, h]

/-- A queue with an OVERFLOW record at its tail has an open one. -/
theorem Evq.openOverflow_append {q : Evq} {l : List Record} {r : Record} (records : q.records = l ++ [r])
    (kind : r.kind = .overflow) : q.openOverflow = some r := by
  simp [Evq.openOverflow, Evq.tail, records, Record.isOverflow, kind]

/-- A record request keeps the account, in each of the three cases of R77. -/
theorem Evq.accounts_place {q : Evq} {r : Record} (h : q.accounts) (seq : r.seq = q.nextSeq) (kind : r.kind ≠ .overflow) :
    (⟨q.place r, q.nextSeq + 1⟩ : Evq).accounts := by
  obtain ⟨⟨short, full⟩, chain⟩ := h
  by_cases below : q.records.length < 255
  case pos =>
    rw [(Evq.place_below below).1]
    exact ⟨⟨by simp; omega, fun h => absurd h (by simp; omega)⟩,
      seqChain_append.mpr ⟨seq ▸ chain, by rw [seqAfter_ordinary kind, seq]⟩⟩
  case neg =>
    cases tail : q.openOverflow with
    | none =>
      rw [(Evq.place_first (Nat.not_lt.mp below) tail).1]
      have made := overflowFor_fields r
      have room : q.records.length ≠ 256 := fun h => by simpa [tail] using full h
      exact ⟨⟨by simp; omega, fun _ => by rw [Evq.openOverflow_append rfl made.2.1]; rfl⟩,
        seqChain_append.mpr ⟨by rw [made.1, seq]; exact chain, by rw [seqAfter_overflow made.2.1]; simp [seq]⟩⟩
    | some o =>
      rw [(Evq.place_further (Nat.not_lt.mp below) tail).1]
      obtain ⟨last, isOverflow⟩ := Evq.openOverflow_some tail
      obtain ⟨front, split⟩ := List.getLast?_eq_some_iff.mp last
      have further := overflowAnd_fields o r
      rw [Evq.chained, split, seqChain_append, seqAfter_overflow isOverflow] at chain
      rw [split] at short ⊢
      rw [List.dropLast_concat]
      refine ⟨⟨by simpa using short, fun _ => ?_⟩, seqChain_append.mpr ⟨by simpa using chain.1, ?_⟩⟩
      · rw [Evq.openOverflow_append rfl (further.2.1.trans isOverflow)]
        rfl
      · rw [seqAfter_overflow (further.2.1.trans isOverflow), chain.2, further.1, further.2.2.2.1, BitVec.add_assoc]
        simp [BitVec.setWidth_add]

/-- The head record goes (R80). -/
theorem Evq.accounts_removeHead {q : Evq} {r : Record} {rest : List Record} (h : q.accounts) (records : q.records = r :: rest) :
    ({ q with records := rest } : Evq).accounts := by
  obtain ⟨⟨short, _⟩, chain⟩ := h
  rw [Evq.chained, records] at chain
  rw [records, List.length_cons] at short
  exact ⟨⟨by dsimp only; omega, fun h => by dsimp only at h; omega⟩, seqChain_tail chain⟩

/-- An OVERFLOW record is open if it stands at the tail (R77). -/
theorem Evq.openOverflow_isSome {q : Evq} :
    q.openOverflow.isSome = true ↔ ∃ r, q.records.getLast? = some r ∧ r.kind = .overflow := by
  constructor
  · intro h
    obtain ⟨o, tail⟩ := Option.isSome_iff_exists.mp h
    exact ⟨o, Evq.openOverflow_some tail⟩
  · rintro ⟨r, last, kind⟩
    simp [Evq.openOverflow, Evq.tail, last, Record.isOverflow, kind]

/-- A record is marked CORRUPT (R82). -/
theorem Evq.accounts_mark {q : Evq} {p : Nat} {r : Record} (h : q.accounts) (at_p : q.records[p]? = some r) :
    ({ q with records := q.records.set p { r with corrupt := true } } : Evq).accounts := by
  obtain ⟨⟨short, full⟩, chain⟩ := h
  refine ⟨⟨by simpa using short, fun h => ?_⟩,
    (seqChain_set (r := { r with corrupt := true }) at_p rfl rfl).mpr chain⟩
  obtain ⟨o, last, kind⟩ := Evq.openOverflow_isSome.mp (full (by simpa using h))
  rw [List.getLast?_eq_getElem?] at last
  refine Evq.openOverflow_isSome.mpr ⟨if p = q.records.length - 1 then { r with corrupt := true } else o, ?_, ?_⟩
  · rw [List.getLast?_eq_getElem?, List.length_set, List.getElem?_set]
    split
    · have some_at : p < q.records.length := (List.getElem?_eq_some_iff.mp at_p).1
      simp [some_at]
    · exact last
  · split
    · next at_tail =>
      rw [← at_tail, at_p] at last
      obtain rfl := Option.some.inj last
      exact kind
    · exact kind

end Sys2Proof.Machine
end

section
namespace Sys2Proof.Machine

/-! ### The send list -/

theorem insertFrame_perm (f : QueuedFrame) (l : List QueuedFrame) : (insertFrame f l).Perm (f :: l) := by
  induction l with
  | nil => exact .refl _
  | cons g gs ih =>
    unfold insertFrame
    split
    · exact (ih.cons g).trans (.swap ..)
    · exact .refl _

/-- What a test finds first, and the rest, are the list. -/
theorem perm_cons_eraseP {α : Type} {p : α → Bool} {l : List α} {x : α} (found : l.find? p = some x) :
    l.Perm (x :: l.eraseP p) := by
  induction l with
  | nil => cases found
  | cons y ys ih =>
    cases h : p y with
    | true =>
      obtain rfl : y = x := by simpa [List.find?, h] using found
      simp [h]
    | false =>
      rw [List.find?_cons_of_neg (by simp [h])] at found
      rw [List.eraseP_cons_of_neg (by simp [h])]
      exact ((ih found).cons y).trans (.swap ..)

theorem removeLast_perm {p : QueuedFrame → Bool} {l : List QueuedFrame} {g : QueuedFrame} (found : findLast p l = some g) :
    l.Perm (g :: removeLast p l) :=
  (List.reverse_perm l).symm.trans ((perm_cons_eraseP found).trans ((List.reverse_perm _).symm.cons g))

theorem sendListFits.perm {l m : List QueuedFrame} (h : sendListFits l) (same : m.Perm l) : sendListFits m := by
  rw [sendListFits, (same.filter _).length_eq, (same.filter QueuedFrame.isMark).length_eq]
  exact h

/-- A shorter list fits. -/
theorem sendListFits.sublist {l m : List QueuedFrame} (h : sendListFits l) (part : m.Sublist l) : sendListFits m :=
  ⟨(part.filter _).length_le.trans h.1, (part.filter _).length_le.trans h.2⟩

/-- A changed frame of the same kind fits in its place. -/
theorem sendListFits.map {l : List QueuedFrame} {f : QueuedFrame → QueuedFrame} (h : sendListFits l)
    (same : ∀ g, (f g).isMark = g.isMark) : sendListFits (l.map f) := by
  rw [sendListFits, List.filter_map, List.filter_map, List.length_map, List.length_map]
  simpa only [Function.comp_def, same, sendListFits] using h

/-- A frame that is no MARK fits where fewer than seven are listed (R20). -/
theorem sendListFits.insert {l : List QueuedFrame} {f : QueuedFrame} (h : sendListFits l) (other : f.isMark = false)
    (room : (l.filter fun g => !g.isMark).length < 7) : sendListFits (insertFrame f l) := by
  refine sendListFits.perm (l := f :: l) ⟨?_, ?_⟩ (insertFrame_perm f l)
  · simp only [List.filter_cons, other, Bool.not_false, if_true, List.length_cons]
    omega
  · simpa [List.filter_cons, other] using h.2

/-- A frame that is no MARK fits in the place of another (R21). -/
theorem sendListFits.displace {l : List QueuedFrame} {f g : QueuedFrame} {p : QueuedFrame → Bool} (h : sendListFits l)
    (other : f.isMark = false) (found : findLast p l = some g) (no_mark : g.isMark = false) :
    sendListFits (insertFrame f (removeLast p l)) := by
  have was := h.perm (removeLast_perm found).symm
  have same : ∀ {x : QueuedFrame}, x.isMark = false → ∀ m : List QueuedFrame,
      ((x :: m).filter fun y => !y.isMark).length = (m.filter fun y => !y.isMark).length + 1 ∧
        (x :: m).filter QueuedFrame.isMark = m.filter QueuedFrame.isMark :=
    fun hx m => by simp [hx]
  refine sendListFits.perm ⟨?_, ?_⟩ (insertFrame_perm f _)
  · rw [(same other _).1, ← (same no_mark _).1]
    exact was.1
  · rw [(same other _).2, ← (same no_mark _).2]
    exact was.2

/-- A MARK fits where none is listed (R20). -/
theorem sendListFits.insertMark {l : List QueuedFrame} {f : QueuedFrame} (h : sendListFits l) (mark : f.isMark = true)
    (none_listed : l.filter QueuedFrame.isMark = []) : sendListFits (insertFrame f l) := by
  refine sendListFits.perm (l := f :: l) ⟨?_, ?_⟩ (insertFrame_perm f l)
  · simpa [List.filter_cons, mark] using h.1
  · simp [mark, none_listed]

/-- The one MARK removed, none is left (R20). -/
theorem filter_eraseP_mark {l : List QueuedFrame} {m : QueuedFrame} (h : sendListFits l)
    (found : l.find? QueuedFrame.isMark = some m) : (l.eraseP QueuedFrame.isMark).filter QueuedFrame.isMark = [] := by
  have was := h.perm (perm_cons_eraseP found).symm
  have mark : m.isMark = true := List.find?_some found
  have count := was.2
  rw [List.filter_cons_of_pos mark, List.length_cons] at count
  exact List.length_eq_zero_iff.mp (by omega)

@[simp] theorem State.freshFrame_isMark (s : State) (c : FrameContent) : (s.freshFrame c).isMark = decide (c.kind = .mark) := rfl

section
variable {s t : State}

/-! ### Records, flags, counts -/

theorem Keeps.request (h : Keeps s t) {kind : RecordKind} {stamp : Stamp} {a : Nat} {b : BitVec 32}
    (ordinary : kind ≠ .overflow) : Keeps s (t.request kind stamp a b) :=
  h.trans ⟨fun k => Evq.accounts_place k rfl ordinary, id, id, id, id, id⟩

theorem Keeps.requestNow (h : Keeps s t) {kind : RecordKind} {a : Nat} {b : BitVec 32}
    (ordinary : kind ≠ .overflow) : Keeps s (t.requestNow kind a b) := h.request ordinary

theorem Keeps.setFlag (h : Keeps s t) {f : Source} : Keeps s (t.setFlag f) := h.same rfl

theorem Keeps.setSendList (h : Keeps s t) {l : List QueuedFrame}
    (fits : sendListFits t.lif.sendList → sendListFits l) : Keeps s (t.setSendList l) := h.trans ⟨id, fits, id, id, id, id⟩

theorem Keeps.count (h : Keeps s t) {f : LineCounters → LineCounters} : Keeps s (t.count f) := h.same rfl

/-! ### Results and station shift records -/

theorem recordsFit.map {l : List StationRecord} {f : StationRecord → StationRecord} (h : recordsFit l)
    (kept : ∀ r ∈ l, r.ordered → (f r).ordered) : recordsFit (l.map f) := by
  obtain ⟨short, ordered⟩ := h
  exact ⟨by simpa using short, ordered_map ordered kept⟩

theorem Keeps.giveResult (h : Keeps s t) {k : ShiftKey} {r : Result} : Keeps s (t.giveResult k r) := by
  unfold State.giveResult
  split
  · exact h.same rfl
  · exact h.trans ⟨id, id, id, id, fun fit => fit.map fun x _ hx => ite_holds (p := StationRecord.ordered) hx hx, id⟩

theorem Keeps.reportFrame (h : Keeps s t) {k : ShiftKey} {o : OwnFrame} : Keeps s (t.reportFrame k o) := by
  unfold State.reportFrame
  split
  · exact h
  · exact h.giveResult.ite h

theorem Keeps.createRecord (h : Keeps s t) {k : ShiftKey} : Keeps s (t.createRecord k) := by
  have limit : t.shu.records.length ≤ 8 → (t.createRecord k).shu.records.length ≤ 8 := by
    intro short
    unfold State.createRecord
    split
    · simp only [List.length_append, List.length_singleton, decide_eq_true_eq]
      split
      · rw [List.length_drop]
        omega
      · omega
    · exact short
  exact h.trans ⟨by simp, by simp, by simp, by simp,
    fun ⟨short, ordered⟩ => ⟨limit short, State.createRecord_ordered k ordered⟩, by simp⟩

theorem Keeps.enterTally (h : Keeps s t) {n : NodeNo} {k : ShiftKey} {v : TallyValues} : Keeps s (t.enterTally n k v) := by
  unfold State.enterTally
  split
  · exact h
  · exact h.trans ⟨id, id, id, id,
      fun fit => fit.map fun x _ hx => ite_holds (p := StationRecord.ordered) (putEntry_ordered _ hx) hx, id⟩

theorem Keeps.countUnmatched (h : Keeps s t) : Keeps s t.countUnmatched := h.same rfl

theorem Keeps.tallyReceived (h : Keeps s t) {n : NodeNo} {k : ShiftKey} {v : TallyValues} :
    Keeps s (t.tallyReceived n k v) := by
  unfold State.tallyReceived
  refine h.countUnmatched.ite (h.createRecord.enterTally.ite ?_)
  split
  · exact h.countUnmatched
  · exact h.enterTally.ite h.countUnmatched

/-- The end of gathering of a record of the list (R159). -/
theorem Keeps.endGathering (h : Keeps s t) {k : ShiftKey} {r : StationRecord} (listed : t.shu.recordOf k = some r) :
    Keeps s (t.endGathering k r) :=
  h.trans ⟨id, id, id, id, fun fit => fit.map fun _ _ hx => ite_holds (p := StationRecord.ordered)
    (StationRecord.endGathering_ordered _ (fit.2 r (List.mem_of_find?_eq_some listed))) hx, id⟩

/-! ### Queue requests and the ends of sends -/

theorem Keeps.sendFailed (h : Keeps s t) {c : FrameContent} {d : Bool} : Keeps s (t.sendFailed c d) := h.requestNow (by simp)

theorem Keeps.displaced (h : Keeps s t) {c : FrameContent} : Keeps s (t.displaced c) := by
  unfold State.displaced
  split
  · exact h.sendFailed
  · exact h.sendFailed.reportFrame
  · exact h
  · exact h

theorem Keeps.queueByDisplacing (h : Keeps s t) {c : FrameContent} (other : c.kind ≠ .mark) :
    Keeps s (t.queueByDisplacing c).1 := by
  unfold State.queueByDisplacing
  dsimp only
  split
  · next g found =>
    have last : displaceable c.kind g = true := List.find?_some found
    have no_mark : g.isMark = false := by
      simp only [displaceable, Bool.and_eq_true, Bool.not_eq_true'] at last
      exact last.1.2
    exact (h.setSendList fun fits => fits.displace (by simp [other]) found no_mark).count.displaced
  · exact h.count.displaced

theorem Keeps.queueFrame (h : Keeps s t) {c : FrameContent} (other : c.kind ≠ .mark := by simp [FrameContent.kind]) :
    Keeps s (t.queueFrame c).1 := by
  unfold State.queueFrame
  split
  · exact h
  · split
    · next room => exact h.setSendList fun fits => fits.insert (by simp [other]) room
    · exact h.queueByDisplacing other

theorem Keeps.queueMark (h : Keeps s t) {k : RoundKey} : Keeps s (t.queueMark k) := by
  unfold State.queueMark
  refine h.ite ?_
  split
  · next none_found =>
    refine h.setSendList fun fits => fits.insertMark rfl ?_
    exact List.filter_eq_nil_iff.mpr fun x hx => by simpa using List.find?_eq_none.mp none_found x hx
  · next m found =>
    refine Keeps.ite (h.same rfl) (Keeps.count (h.setSendList fun fits => ?_))
    exact (fits.sublist List.eraseP_sublist).insertMark rfl (filter_eraseP_mark fits found)

theorem Keeps.queueWaiting (h : Keeps s t) : Keeps s t.queueWaiting := by
  unfold State.queueWaiting
  split
  · exact h
  · refine Keeps.queueMark ?_
    exact h.same rfl

theorem Keeps.dropMark (h : Keeps s t) {k : RoundKey} : Keeps s (t.dropMark k) := by
  unfold State.dropMark
  refine Keeps.ite (Keeps.count ?_) ?_
  · exact h.same rfl
  split
  · exact h
  · exact h.ite (Keeps.count (h.setSendList fun fits => fits.sublist List.eraseP_sublist))

theorem Keeps.removeHandover (h : Keeps s t) {k : ShiftKey} : Keeps s (t.removeHandover k).1 := by
  unfold State.removeHandover
  split
  · exact h
  · split
    · exact h.setSendList fun fits => fits.map fun g => by split <;> rfl
    · exact h.setSendList fun fits => fits.sublist List.eraseP_sublist

theorem Keeps.reportEnd (h : Keeps s t) {c : FrameContent} {o : OwnFrame} : Keeps s (t.reportEnd c o) := by
  unfold State.reportEnd
  split
  · exact h.reportFrame
  all_goals exact h

theorem Keeps.removeSent (h : Keeps s t) : Keeps s t.removeSent :=
  h.setSendList fun fits => fits.sublist List.eraseP_sublist

theorem Keeps.withdrawSent (h : Keeps s t) {c : FrameContent} : Keeps s (t.withdrawSent c) := h.removeSent.reportEnd

/-- The frame in a send changes otherwise than in its kind. -/
theorem sendListFits.mapInSend {l : List QueuedFrame} {f : QueuedFrame → QueuedFrame} (h : sendListFits l)
    (same : ∀ g, (f g).isMark = g.isMark) : sendListFits (mapInSend f l) :=
  h.map fun g => by
    split
    · exact same g
    · rfl

theorem Keeps.breakOffSend (h : Keeps s t) : Keeps s t.breakOffSend := by
  have released : Keeps s { t with lif := t.lif.released } := h.same rfl
  unfold State.breakOffSend
  dsimp only
  split
  · exact released
  · exact Keeps.queueWaiting (Keeps.ite released.withdrawSent (released.setSendList fun fits => fits.mapInSend fun _ => rfl))

/-! ### Tally and run -/

theorem Keeps.changeTally (h : Keeps s t) {f : Tally → Tally} : Keeps s (t.changeTally f) := h.same rfl

theorem Keeps.sendTally (h : Keeps s t) {k : ShiftKey} {v : TallyValues} : Keeps s (t.sendTally k v) := by
  unfold State.sendTally
  exact h.queueFrame.tallyReceived.ite h.queueFrame

theorem Keeps.closeUnitShift (h : Keeps s t) {c : CloseKey} : Keeps s (t.closeUnitShift c) := by
  have closed (u : UnitShift) : Keeps s { t with tallies := t.tallies.close u } :=
    h.trans ⟨id, id, id, fun _ => by simp [Tallies.close, List.length_take], id, id⟩
  exact ((closed _).requestNow (by simp)).setFlag.sendTally

theorem Keeps.closeOrder (h : Keeps s t) {keys : List CloseKey} : Keeps s (t.closeOrder keys) := by
  unfold State.closeOrder
  generalize (keys.filter fun c => c.key.laterThan t.tallies.lastClosed) = ks
  induction ks generalizing t with
  | nil => exact h
  | cons c cs ih => exact ih h.closeUnitShift

theorem acceptFirst_length (k : ShiftKey) (a : Acceptance) (l : List UnitShift) : (acceptFirst k a l).length = l.length := by
  induction l with
  | nil => rfl
  | cons u us ih =>
    unfold acceptFirst
    split <;> simp [ih]

theorem Keeps.unitHandover (h : Keeps s t) {n : NodeNo} {q : ClockState} {b : List Byte} : Keeps s (t.unitHandover n q b) := by
  unfold State.unitHandover
  dsimp only
  split
  · exact h.same rfl
  · exact Keeps.ite (h.trans ⟨id, id, id, by simp [acceptFirst_length], id, id⟩) (h.same rfl)

theorem Keeps.recordStop (h : Keeps s t) {d : Stamp} {x : Option (NodeNo × InputNo)} {f : StopFlags} {ms : Nat} :
    Keeps s (t.recordStop d x f ms) := h.request (by simp)

theorem Keeps.classify (h : Keeps s t) {x : Stop} {y : Option (NodeNo × InputNo)} {f : StopFlags} :
    Keeps s (t.classify x y f) := h.recordStop.changeTally.same rfl

theorem Keeps.recordRun (h : Keeps s t) {d : Stamp} {n : RunState} {b : Bool} : Keeps s (t.recordRun d n b) := h.request (by simp)

theorem Keeps.enterRun (h : Keeps s t) {n : RunState} : Keeps s (t.enterRun n) := h.same rfl

theorem Keeps.timeSilence (h : Keeps s t) : Keeps s t.timeSilence := h.same (by simp [State.books])

theorem Keeps.breakerCloses (h : Keeps s t) {d : Stamp} : Keeps s (t.breakerCloses d) := by
  have closed : Keeps s { t with run := { t.run with breakerClosed := true } } := h.same rfl
  have freed : Keeps s (match t.run.stop with
      | none => { t with run := { t.run with breakerClosed := true } }
      | some stop => State.classify { t with run := { t.run with breakerClosed := true } } stop none ⟨true, false, false⟩) := by
    split
    · exact closed
    · exact closed.classify
  unfold State.breakerCloses
  dsimp only
  split
  · exact closed
  all_goals exact freed.changeTally.recordRun.enterRun.timeSilence

theorem Keeps.breakerOpens (h : Keeps s t) {d : Stamp} : Keeps s (t.breakerOpens d) := by
  unfold State.breakerOpens
  dsimp only
  split
  · exact h.same rfl
  · exact h.same rfl
  · refine Keeps.timeSilence (Keeps.enterRun (Keeps.recordRun ?_))
    exact h.same rfl

theorem Keeps.breakerLevel (h : Keeps s t) {c : Bool} {d : Stamp} : Keeps s (t.breakerLevel c d) :=
  h.breakerCloses.ite h.breakerOpens

theorem Keeps.speedHanded (h : Keeps s t) : Keeps s t.speedHanded := by
  unfold State.speedHanded
  refine Keeps.ite (h.same rfl) ?_
  split
  · refine Keeps.ite (h.same rfl) (Keeps.timeSilence (Keeps.enterRun (Keeps.recordRun (Keeps.changeTally ?_))))
    exact h.same rfl
  · refine Keeps.timeSilence (Keeps.enterRun (Keeps.recordRun ?_))
    exact h.same rfl
  all_goals exact h.same rfl

theorem Keeps.closeOut (h : Keeps s t) {r : Bool} : Keeps s (t.closeOut r) := by
  unfold State.closeOut
  dsimp only
  split
  · exact h.classify
  · exact h.recordStop.changeTally.ite h

end

end Sys2Proof.Machine
end

section
namespace Sys2Proof.Machine

/-! ### Cascades -/

theorem insertMember_length (m : Member) (l : List Member) : (insertMember m l).length = l.length + 1 := by
  induction l with
  | nil => rfl
  | cons x xs ih =>
    unfold insertMember
    split <;> simp [ih]

/-- A 25th member is not stored (R92). -/
theorem Cascade.insert_members {c : Cascade} (m : Member) (h : c.members.length ≤ 24) : (c.insert m).members.length ≤ 24 := by
  unfold Cascade.insert
  split
  · exact h
  · split
    · exact h
    · simp only [insertMember_length]
      omega

theorem Cascade.addLate_members (c : Cascade) (m : Member) : (c.addLate m).members = c.members := by
  unfold Cascade.addLate
  split <;> rfl

theorem changeLast_length {α : Type} (p : α → Bool) (f : α → α) (l : List α) : (changeLast p f l).length = l.length := by
  induction l with
  | nil => rfl
  | cons x xs ih =>
    unfold changeLast
    (repeat' split) <;> simp [ih]

theorem of_mem_changeLast {α : Type} {p : α → Bool} {f : α → α} {l : List α} {x : α} (h : x ∈ changeLast p f l) :
    x ∈ l ∨ ∃ y ∈ l, x = f y := by
  induction l with
  | nil => cases h
  | cons y ys ih =>
    unfold changeLast at h
    split at h
    · obtain rfl | h := List.mem_cons.mp h
      · exact .inl (List.mem_cons_self ..)
      · obtain h | ⟨z, hz, e⟩ := ih h
        · exact .inl (List.mem_cons_of_mem _ h)
        · exact .inr ⟨z, List.mem_cons_of_mem _ hz, e⟩
    · split at h
      · obtain rfl | h := List.mem_cons.mp h
        · exact .inr ⟨y, List.mem_cons_self .., rfl⟩
        · exact .inl (List.mem_cons_of_mem _ h)
      · exact .inl h

section
variable {s t : State}

theorem Keeps.csu (h : Keeps s t) {u : Csu} (fits : t.csu.fits → u.fits) : Keeps s { t with csu := u } :=
  h.trans ⟨id, id, fits, id, id, id⟩

theorem Keeps.openCascade (h : Keeps s t) {m : Member} : Keeps s (t.openCascade m) :=
  h.csu fun ⟨short, members, _⟩ => ⟨short, members, fun o made => by
    obtain rfl := Option.some.inj made
    exact Nat.le_of_ble_eq_true rfl⟩

theorem Keeps.countStray (h : Keeps s t) : Keeps s t.countStray := h.csu id

theorem Keeps.toSlot (h : Keeps s t) {m : Member} : Keeps s (t.toSlot m) := by
  have taken : Keeps s { t with csu := { t.csu with slot := some m } } := h.csu id
  unfold State.toSlot
  split
  · exact taken
  · exact h.ite (taken.countStray.ite h.countStray)

theorem Keeps.placeMember (h : Keeps s t) {m : Member} : Keeps s (t.placeMember m) := by
  have late (p : Cascade → Bool) :
      Keeps s { t with csu := { t.csu with list := changeLast p (fun c => c.addLate m) t.csu.list } } :=
    h.csu fun ⟨short, members, current⟩ => ⟨by simpa [changeLast_length] using short, fun c hc => by
      obtain hc | ⟨d, hd, rfl⟩ := of_mem_changeLast hc
      · exact members c hc
      · rw [Cascade.addLate_members]
        exact members d hd, current⟩
  unfold State.placeMember
  dsimp only
  split
  · exact (late _).ite h.openCascade
  · next o current =>
    refine Keeps.ite (h.csu fun ⟨short, members, fits⟩ => ⟨short, members, fun x changed => ?_⟩)
      ((late _).ite (h.toSlot.ite h.countStray))
    obtain rfl := Option.some.inj changed
    exact Cascade.insert_members m (fits o current)

theorem Keeps.localMember (h : Keeps s t) {n : InputNo} {a : Bool} {d : Stamp} : Keeps s (t.localMember n a d) :=
  h.placeMember.queueFrame

theorem Keeps.tripNotice (h : Keeps s t) {n : NodeNo} {x : Start} {b : List Byte} : Keeps s (t.tripNotice n x b) := by
  unfold State.tripNotice
  split
  · exact h.countStray
  · exact h.placeMember

theorem Keeps.closeNotice (h : Keeps s t) {c : Cascade} : Keeps s (t.closeNotice c) := by
  unfold State.closeNotice
  split
  · exact h
  · dsimp only
    split <;> exact h.classify.ite h

theorem Keeps.openPending (h : Keeps s t) : Keeps s t.openPending := by
  unfold State.openPending
  split
  · exact h
  · next m _ => exact Keeps.openCascade (t := { t with csu := { t.csu with slot := none } }) (h.csu id)

/-- The oldest of four goes as a cascade enters the list (R98). -/
theorem Csu.addClosed_fits {u : Csu} {o : OpenCascade} (h : u.fits) (current : u.current = some o) :
    (u.addClosed o.cascade).fits := by
  obtain ⟨short, members, fits⟩ := h
  refine ⟨?_, fun c hc => ?_, fun x none_open => by cases none_open⟩
  · simp only [Csu.addClosed, List.length_append, List.length_singleton]
    split
    · rw [List.length_drop]
      omega
    · omega
  · simp only [Csu.addClosed, List.mem_append, List.mem_singleton] at hc
    obtain hc | rfl := hc
    · split at hc
      · exact members c (List.mem_of_mem_drop hc)
      · exact members c hc
    · exact fits o current

theorem Keeps.closeCascade (h : Keeps s t) {o : OpenCascade} (current : t.csu.current = some o) :
    Keeps s (t.closeCascade o.cascade) := by
  have listed : Keeps s { t with csu := t.csu.addClosed o.cascade } := h.csu fun fits => Csu.addClosed_fits fits current
  exact Keeps.openPending (Keeps.ite (listed.request (by simp)).setFlag.closeNotice (listed.request (by simp)).setFlag)

theorem Keeps.decideStop (h : Keeps s t) {x : Stop} : Keeps s (t.decideStop x) := by
  unfold State.decideStop
  dsimp only
  split
  · exact h.classify
  · exact Keeps.ite (h.same rfl) h.classify

/-! ### The Shift Unit -/

theorem Keeps.setMode (h : Keeps s t) {m : PostState} : Keeps s (t.setMode m) := h.same rfl

theorem Keeps.testEarly (h : Keeps s t) : Keeps s t.testEarly := h.setMode.ite h

theorem Keeps.toOnWatch (h : Keeps s t) : Keeps s t.toOnWatch := Keeps.testEarly (h.same rfl)

theorem Keeps.enterDue (h : Keeps s t) {k : ShiftKey} {g : Int} : Keeps s (t.enterDue k g) := h.same rfl

theorem Keeps.enterOverdue (h : Keeps s t) {k : ShiftKey} {g : Int} : Keeps s (t.enterOverdue k g) := h.same rfl

theorem Keeps.recordHandover (h : Keeps s t) {d : Stamp} {o : HandoverOutcome} {e c : Bool} {k : ShiftKey} :
    Keeps s (t.recordHandover d o e c k) := h.request (by simp)

theorem Keeps.accept (h : Keeps s t) {k : ShiftKey} : Keeps s (t.accept k) := h.same rfl

theorem Keeps.closeWithFrame (h : Keeps s t) {k : ShiftKey} {o : HandoverOutcome} {c : Stamp} :
    Keeps s (t.closeWithFrame k o c) := h.queueFrame.recordHandover.accept.giveResult

theorem Keeps.closeWithoutFrame (h : Keeps s t) {k : ShiftKey} : Keeps s (t.closeWithoutFrame k) :=
  h.recordHandover.accept.giveResult

theorem Keeps.recordUnpaired (h : Keeps s t) {p : HeldPress} : Keeps s (t.recordUnpaired p) := h.request (by simp)

theorem Keeps.clearHeld (h : Keeps s t) : Keeps s t.clearHeld := h.same rfl

theorem Keeps.dropHeld (h : Keeps s t) : Keeps s t.dropHeld := by
  unfold State.dropHeld
  split
  · exact h
  · exact h.recordUnpaired.clearHeld

theorem Keeps.missTarget (h : Keeps s t) {k : ShiftKey} : Keeps s (t.missTarget k) := h.dropHeld.closeWithFrame

theorem Keeps.missIfDue (h : Keeps s t) : Keeps s t.missIfDue := by
  unfold State.missIfDue
  split
  · exact h.missTarget
  · exact h.missTarget
  all_goals exact h

theorem Keeps.takeReached (h : Keeps s t) {k : ShiftKey} : Keeps s (t.takeReached k) := h.enterDue.ite h.toOnWatch

theorem Keeps.reach (h : Keeps s t) {k : ShiftKey} : Keeps s (t.reach k) := h.same rfl

theorem Keeps.createRecords (h : Keeps s t) {ks : List ShiftKey} : Keeps s (t.createRecords ks) := by
  unfold State.createRecords
  induction ks generalizing t with
  | nil => exact h
  | cons k ks ih => exact ih h.createRecord

theorem Keeps.boundaryReached (h : Keeps s t) {k : ShiftKey} : Keeps s (t.boundaryReached k) := by
  unfold State.boundaryReached
  extract_lets s1 s2
  have closed : Keeps s s2 := Keeps.ite h.reach.closeOrder h.reach
  exact Keeps.ite closed.createRecord.missIfDue.takeReached closed

theorem Keeps.keepHeldFor (h : Keeps s t) {p : Option HeldPress} {k : Option ShiftKey} : Keeps s (t.keepHeldFor p k) := by
  unfold State.keepHeldFor
  split
  · exact h
  · exact Keeps.ite (h.same rfl) h.recordUnpaired.clearHeld

theorem Keeps.targetLast (h : Keeps s t) {k : ShiftKey} : Keeps s (t.targetLast k) := h.enterDue.ite h.enterOverdue

theorem Keeps.foldClose (h : Keeps s t) {l : List ShiftKey} : Keeps s (l.foldl State.closeWithoutFrame t) := by
  induction l generalizing t with
  | nil => exact h
  | cons k ks ih => exact ih h.closeWithoutFrame

theorem Keeps.handleKeys (h : Keeps s t) {l : List ShiftKey} : Keeps s (t.handleKeys l) := by
  unfold State.handleKeys
  split
  · exact h.toOnWatch
  · exact h.foldClose.targetLast

theorem Keeps.stepAtPost (h : Keeps s t) {k : ShiftKey} {a b : Date} : Keeps s (t.stepAtPost k a b) :=
  h.missIfDue.handleKeys.keepHeldFor

theorem Keeps.takeCrossed (h : Keeps s t) {k : ShiftKey} {a b : Date} : Keeps s (t.takeCrossed k a b) := by
  unfold State.takeCrossed
  extract_lets crossed
  split
  · exact h
  · extract_lets s1 s2
    have closed : Keeps s s2 := Keeps.ite h.reach.closeOrder h.reach
    exact Keeps.ite closed.createRecords.stepAtPost closed

theorem Keeps.testEarlyAtPost (h : Keeps s t) : Keeps s t.testEarlyAtPost := h.testEarly.ite h

theorem Keeps.reportStep (h : Keeps s t) {a b : Date} : Keeps s (t.reportStep a b) := by
  unfold State.reportStep
  refine Keeps.ite ?_ h
  split
  · exact h.reach.testEarlyAtPost
  · exact h.takeCrossed.testEarlyAtPost

theorem Keeps.catchUp (h : Keeps s t) : Keeps s t.catchUp := by
  unfold State.catchUp
  split
  · exact h
  · exact h.closeOrder

theorem Keeps.postAtOpen (h : Keeps s t) : Keeps s t.postAtOpen := by
  unfold State.postAtOpen
  split
  · exact h
  · split
    · exact h.testEarly
    · exact h.createRecords.handleKeys

theorem Keeps.openShift (h : Keeps s t) : Keeps s t.openShift := by
  unfold State.openShift
  split
  · extract_lets s1 s2
    have caught : Keeps s s2 := Keeps.ite h.reach.catchUp h.reach
    exact Keeps.ite caught.postAtOpen caught
  · exact h

theorem Keeps.acceptHandover (h : Keeps s t) {k : ShiftKey} {o : HandoverOutcome} {d : Stamp} :
    Keeps s (t.acceptHandover k o d) := h.clearHeld.closeWithFrame.toOnWatch

theorem Keeps.hold (h : Keeps s t) {p : PressKey} {d : Stamp} {k : ShiftKey} : Keeps s (t.hold p d k) := h.same rfl

theorem Keeps.press (h : Keeps s t) {p : PressKey} {d : Stamp} : Keeps s (t.press p d) := by
  unfold State.press
  split
  · split
    · exact h.hold
    · exact h.hold.ite h.acceptHandover
  all_goals exact h

theorem Keeps.countUnused (h : Keeps s t) : Keeps s t.countUnused := h.same rfl

theorem Keeps.acceptedElsewhere (h : Keeps s t) {n : NodeNo} {k : ShiftKey} {o : HandoverOutcome} {d : Stamp} {x : BitVec 16} :
    Keeps s (t.acceptedElsewhere n k o d x) := h.clearHeld.recordHandover.accept.giveResult.toOnWatch

theorem Keeps.concurrentHandover (h : Keeps s t) {n : NodeNo} {k : ShiftKey} {o : HandoverOutcome} {d : Stamp} {x : BitVec 16} :
    Keeps s (t.concurrentHandover n k o d x) := by
  unfold State.concurrentHandover
  split
  · exact h.countUnused
  · refine h.countUnused.ite ?_
    split
    · exact h.recordHandover
    · exact h.removeHandover.recordHandover.giveResult
    all_goals exact h.recordHandover.giveResult

theorem Keeps.postHandover (h : Keeps s t) {n : NodeNo} {q : ClockState} {b : List Byte} : Keeps s (t.postHandover n q b) := by
  unfold State.postHandover
  split
  · exact h.countUnused
  · exact Keeps.ite (h.acceptedElsewhere.ite h.countUnused) h.concurrentHandover

/-! ### Contact inputs -/

theorem Keeps.setInput (h : Keeps s t) {n : InputNo} {i : InputState} : Keeps s (t.setInput n i) := h.same rfl

theorem Keeps.firstSampled (h : Keeps s t) {n : InputNo} {l : Bool} {d : Stamp} : Keeps s (t.firstSampled n l d) := by
  unfold State.firstSampled
  dsimp only
  split
  · exact h.setInput.breakerLevel
  all_goals exact h.setInput

theorem Keeps.handByRole (h : Keeps s t) {n : InputNo} {l : Bool} {d : Stamp} : Keeps s (t.handByRole n l d) := by
  unfold State.handByRole
  split
  · exact h.breakerLevel
  · exact h.press
  · exact h.press
  all_goals exact h

theorem Keeps.recordChange (h : Keeps s t) {n : InputNo} {l : Bool} {d : Stamp} : Keeps s (t.recordChange n l d) :=
  Keeps.ite (Keeps.ite (h.request (by simp)).localMember (h.request (by simp))) h

theorem Keeps.handOn (h : Keeps s t) {n : InputNo} {l : Bool} {d : Stamp} : Keeps s (t.handOn n l d) :=
  h.recordChange.handByRole

theorem Keeps.lockInput (h : Keeps s t) {n : InputNo} {l : Bool} {d : Stamp} {e : Nat} : Keeps s (t.lockInput n l d e) :=
  (h.setInput.request (by simp)).setFlag

theorem Keeps.qualified (h : Keeps s t) {n : InputNo} {l : Bool} {x : Start} : Keeps s (t.qualified n l x) := by
  unfold State.qualified
  dsimp only
  split
  · exact h.setInput
  all_goals exact Keeps.ite h.setInput.handOn.lockInput h.setInput.handOn

theorem Keeps.release (h : Keeps s t) {n : InputNo} {x : BitVec 16} {l : Option Stamp} : Keeps s (t.release n x l) := by
  have recorded : Keeps s ((t.setInput n { t.input n with chatter := .quiet }).requestNow .chatterRelease
      (n.val + bitAt 4 ((t.input n).level.getD false)) (x.zeroExtend 32)) := h.setInput.requestNow (by simp)
  unfold State.release
  dsimp only
  split
  · exact recorded.ite recorded.breakerLevel
  all_goals exact recorded

theorem Keeps.windowCloses (h : Keeps s t) {n : InputNo} : Keeps s (t.windowCloses n) := by
  unfold State.windowCloses
  split
  · exact h
  · exact h.setInput
  · exact h.release

theorem Keeps.blink (h : Keeps s t) {l : Lamp} : Keeps s (t.blink l) := by
  unfold State.blink
  split
  · exact h
  · exact h.same rfl

end

end Sys2Proof.Machine
end

section
namespace Sys2Proof.Machine

theorem Round.start_ordered (k : RoundKey) (own : NodeNo) : (Round.start k own).ordered := by
  simp [Round.start, Round.ordered]

theorem Round.setEdge_entries (r : Round) (e : Stamp) (n : NodeNo) : (r.setEdge e n).entries = r.entries := by
  unfold Round.setEdge
  split <;> rfl

theorem Round.edgeFrom_entries (r : Round) (n : NodeNo) (x : Start) (m : MarkBody) : (r.edgeFrom n x m).entries = r.entries :=
  ite_holds (p := fun y : Round => y.entries = r.entries) (r.setEdge_entries _ _) rfl

section
variable {s t : State}

/-! ### The clock -/

theorem Keeps.setClock (h : Keeps s t) {d : Date} : Keeps s (t.setClock d) := h.same rfl

theorem Keeps.recordStep (h : Keeps s t) {a b : Date} {c : StepCause} : Keeps s (t.recordStep a b c) := h.request (by simp)

theorem Keeps.stepClock (h : Keeps s t) {d : Date} {c : StepCause} : Keeps s (t.stepClock d c) :=
  h.setClock.recordStep.reportStep

theorem Keeps.replaceP (h : Keeps s t) {p : Int} : Keeps s (t.replaceP p) := h.same rfl

theorem Keeps.changeState (h : Keeps s t) {q : ClockState} {c : StateCause} : Keeps s (t.changeState q c) :=
  (h.same (u := { t with clu := { t.clu with
    state := q, formation := 0, short := 0, outlier := 0, split := 0, latestForeign := none } }) rfl).requestNow (by simp) |>.setFlag

theorem Keeps.lockReference (h : Keeps s t) : Keeps s t.lockReference := h.changeState.ite h

theorem Keeps.stepAndLock (h : Keeps s t) {d : Date} {c : StepCause} : Keeps s (t.stepAndLock d c) :=
  h.stepClock.ite h.stepClock.lockReference

theorem Keeps.setRound (h : Keeps s t) {r : Option Round} (ordered : roundOrdered t.clu.round → roundOrdered r) :
    Keeps s (t.setRound r) := h.trans ⟨id, id, id, id, id, ordered⟩

/-- A round put in the place of one with the same entries. -/
theorem Keeps.setRound_same (h : Keeps s t) {r x : Round} (held : t.clu.round = some r) (same : x.entries = r.entries) :
    Keeps s (t.setRound (some x)) :=
  h.setRound fun ordered y e => by
    obtain rfl := Option.some.inj e
    rw [Round.ordered, same]
    exact ordered r held

theorem Keeps.openRound (h : Keeps s t) {k : RoundKey} : Keeps s (t.openRound k) :=
  Keeps.ite (h.setRound fun _ _ e => Option.some.inj e ▸ Round.start_ordered ..) h

theorem Keeps.setStart (h : Keeps s t) {n : NodeNo} {x : Start} : Keeps s (t.setStart n x) := h.same rfl

theorem Keeps.handBack (h : Keeps s t) {k : RoundKey} {x : Start} : Keeps s (t.handBack k x) := by
  unfold State.handBack
  dsimp only
  split
  · exact h.setStart
  · next r held => exact Keeps.ite (h.setStart.setRound_same held (r.setEdge_entries ..)) h.setStart

theorem Keeps.noRound (h : Keeps s t) {k : Option RoundKey} :
    Keeps s { t with clu := { t.clu with round := none, lastKey := k } } :=
  h.trans ⟨id, id, id, id, id, fun _ _ e => nomatch e⟩

theorem Keeps.abandonRound (h : Keeps s t) : Keeps s t.abandonRound := by
  unfold State.abandonRound
  split
  · exact h
  · exact h.noRound.dropMark

theorem Keeps.coarseSet (h : Keeps s t) {f : ForeignMark} : Keeps s (t.coarseSet f) := by
  unfold State.coarseSet
  extract_lets s1 s2 _
  have stepped : Keeps s s2 := h.abandonRound.stepClock
  exact (stepped.same (u := { s2 with clu := { s2.clu with formation := 0 } }) rfl).lockReference

theorem Keeps.timeTest (h : Keeps s t) {n : NodeNo} {m : MarkBody} : Keeps s (t.timeTest n m) := by
  unfold State.timeTest
  split
  · exact h
  · split
    · exact h.coarseSet
    · exact h.same rfl
    all_goals exact h

theorem Keeps.markDelivered (h : Keeps s t) {n : NodeNo} {x : Start} {b : List Byte} : Keeps s (t.markDelivered n x b) := by
  unfold State.markDelivered
  extract_lets m s1 s2
  have opened : Keeps s s2 := Keeps.ite h.setStart.openRound h.setStart
  split
  · exact opened.timeTest
  · next r held =>
    extract_lets r1
    have same : r1.entries = r.entries := r.edgeFrom_entries ..
    split
    · exact (opened.setRound_same held same).setFlag
    · next new =>
      refine (opened.setRound fun ordered y e => ?_).timeTest
      obtain rfl := Option.some.inj e
      refine Round.enter_ordered m (by simpa using new) ?_
      rw [Round.ordered, same]
      exact ordered r held

theorem Keeps.formationClose (h : Keeps s t) {r : Round} : Keeps s (t.formationClose r) := by
  unfold State.formationClose
  dsimp only
  refine Keeps.ite (h.same rfl) (Keeps.ite (Keeps.changeState ?_) ?_)
  all_goals exact h.same rfl

theorem Keeps.joiningFull (h : Keeps s t) {c : Int} : Keeps s (t.joiningFull c).1 := by
  unfold State.joiningFull
  split
  · exact Keeps.ite h.stepAndLock.changeState h.stepAndLock
  · exact h.replaceP.changeState

theorem Keeps.splitTest (h : Keeps s t) {r : Round} : Keeps s (t.splitTest r) := by
  unfold State.splitTest
  refine Keeps.ite (Keeps.setFlag ?_) ?_
  all_goals exact h.same rfl

theorem Keeps.splitClose (h : Keeps s t) : Keeps s t.splitClose.1 := by
  unfold State.splitClose
  dsimp only
  split
  · exact h.setFlag.changeState
  · exact h.setFlag.changeState.coarseSet

theorem Keeps.agreedShort (h : Keeps s t) : Keeps s t.agreedShort := by
  unfold State.agreedShort
  dsimp only
  refine Keeps.ite (Keeps.changeState ?_) ?_
  all_goals exact h.same rfl

theorem Keeps.agreedFull (h : Keeps s t) {c : Int} : Keeps s (t.agreedFull c).1 := by
  unfold State.agreedFull
  dsimp only
  split
  · refine Keeps.ite (Keeps.changeState ?_) ?_
    all_goals exact h.same rfl
  · exact h.same rfl

theorem Keeps.holdoverFull (h : Keeps s t) {c : Int} : Keeps s (t.holdoverFull c).1 := by
  unfold State.holdoverFull
  split
  · exact h.changeState
  · exact h.replaceP.changeState

theorem Keeps.agreedClose (h : Keeps s t) {r : Round} {v : CloseValues} : Keeps s (t.agreedClose r v).1 := by
  unfold State.agreedClose
  dsimp only
  split
  · exact h.splitTest.splitClose
  · split
    · exact h.splitTest.agreedFull
    · exact h.splitTest.agreedShort

theorem Keeps.closeTransition (h : Keeps s t) {r : Round} {v : CloseValues} : Keeps s (t.closeTransition r v).1 := by
  unfold State.closeTransition
  split
  · split
    · exact h.joiningFull
    · exact h.formationClose
  · exact h.agreedClose
  · split
    · exact h.holdoverFull
    · exact h
  all_goals exact h

theorem Keeps.closeRound (h : Keeps s t) {r : Round} : Keeps s (t.closeRound r) := by
  unfold State.closeRound
  extract_lets v _ u s2 _
  have dropped : Keeps s s2 := h.noRound.closeTransition.dropMark
  exact dropped.same rfl

theorem Keeps.discipline (h : Keeps s t) : Keeps s t.discipline := by
  unfold State.discipline
  dsimp only
  split
  · split
    · exact h.stepClock
    · exact h.stepClock.closeRound
  · exact h.replaceP

theorem Keeps.setMonitor (h : Keeps s t) {m : Monitor} : Keeps s (t.setMonitor m) := h.same rfl

theorem Keeps.goodInterval (h : Keeps s t) : Keeps s t.goodInterval := by
  unfold State.goodInterval
  extract_lets s1
  have monitored : Keeps s s1 := by
    unfold s1
    split
    · exact h.setMonitor.lockReference.ite h.setMonitor
    · exact h.setMonitor
  exact monitored.discipline.ite monitored

theorem Keeps.loseReference (h : Keeps s t) : Keeps s t.loseReference := h.changeState.setFlag.ite h

theorem Keeps.badInterval (h : Keeps s t) : Keeps s t.badInterval := by
  unfold State.badInterval
  split
  · exact h.setMonitor
  · exact h.setMonitor.loseReference.ite h.setMonitor

theorem Keeps.referenceEdge (h : Keeps s t) : Keeps s t.referenceEdge := by
  unfold State.referenceEdge
  extract_lets now _ s1
  have timed : Keeps s s1 := h.same rfl
  split
  · exact timed
  · exact timed.goodInterval.ite timed.badInterval

theorem Keeps.referenceSilence (h : Keeps s t) : Keeps s t.referenceSilence :=
  (h.same (u := { t with clu := { t.clu with refEdge := none, refMark := t.clu.refMark + 1500000 } }) rfl).badInterval

theorem Keeps.beginSecond (h : Keeps s t) : Keeps s t.beginSecond := h.same rfl

theorem Keeps.takeBoundary (h : Keeps s t) {k : RoundKey} : Keeps s (t.takeBoundary k) := by
  unfold State.takeBoundary
  extract_lets _ s1
  have opened : Keeps s s1 := (h.same (u := { t with time := { t.time with boundaryDue := none } }) rfl).openRound
  split
  · exact opened
  · exact opened.queueMark.ite opened

/-! ### The Line Interface -/

theorem Keeps.lineQuiet (h : Keeps s t) : Keeps s t.lineQuiet := h.same rfl

theorem Keeps.lineQuietAfter (h : Keeps s t) {n : Nat} : Keeps s (t.lineQuietAfter n) := h.same rfl

theorem Keeps.countOnce (h : Keeps s t) {f : LineCounters → LineCounters} : Keeps s (t.countOnce f) := h.ite (h.same rfl)

theorem Keeps.clocked (h : Keeps s t) : Keeps s t.clocked := h.same rfl

theorem Keeps.acknowledged (h : Keeps s t) {m : Bool} : Keeps s (t.acknowledged m) := h.same rfl

/-- A head frame in send is the frame it was. -/
theorem sendListFits.head {f : QueuedFrame} {b : Bool} {fs : List QueuedFrame} (h : sendListFits (f :: fs)) :
    sendListFits ({ f with inSend := b } :: fs) := by
  have same : ({ f with inSend := b } : QueuedFrame).isMark = f.isMark := rfl
  simpa only [sendListFits, List.filter_cons, same, apply_ite List.length, List.length_cons] using h

theorem Keeps.beginSend (h : Keeps s t) {x : Start} {b : Bool} : Keeps s (t.beginSend x b) := by
  unfold State.beginSend
  split
  · exact h
  · next f fs listed =>
    refine h.trans ⟨id, fun fits => sendListFits.head ?_, id, id, id, id⟩
    rwa [listed] at fits

theorem Keeps.takeClock (h : Keeps s t) : Keeps s t.takeClock := Keeps.ite (h.same rfl) h

theorem Keeps.unheardFrame (h : Keeps s t) {f : QueuedFrame} : Keeps s (t.unheardFrame f) :=
  h.withdrawSent.ite (Keeps.ite (h.setSendList fun fits => sendListFits.mapInSend fits fun _ => rfl)
    h.removeSent.count.sendFailed.reportEnd)

theorem Keeps.markEnds (h : Keeps s t) {k : RoundKey} {x : Start} {b : Bool} : Keeps s (t.markEnds k x b) :=
  h.handBack.removeSent.ite h.handBack.removeSent.count

theorem Keeps.endAttempt (h : Keeps s t) {x : Start} {f : QueuedFrame} {b : Bool} : Keeps s (t.endAttempt x f b) := by
  unfold State.endAttempt
  extract_lets s1 s2
  have released : Keeps s s1 := h.same rfl
  have ended : Keeps s s2 := by
    unfold s2
    split
    · exact released.markEnds
    all_goals exact released.removeSent.reportEnd.ite released.unheardFrame
  exact ended.queueWaiting

theorem Keeps.deliver (h : Keeps s t) {k : FrameKind} {n : NodeNo} {x : Start} {b : List Byte} : Keeps s (t.deliver k n x b) := by
  unfold State.deliver
  split
  · exact h.tripNotice
  · exact h.markDelivered
  · exact h.tallyReceived.ite h
  · extract_lets s1
    have sent : Keeps s s1 := h.unitHandover.ite h
    exact sent.postHandover.ite sent

theorem Keeps.flashLine (h : Keeps s t) : Keeps s t.flashLine := h.same rfl

theorem Keeps.receiveIntact (h : Keeps s t) {x : Byte} {b : List Byte} : Keeps s (t.receiveIntact x b) := by
  unfold State.receiveIntact
  extract_lets s1 _ s2
  have counted : Keeps s s1 := h.count.flashLine
  have quiet : Keeps s s2 := counted.same rfl
  refine quiet.setFlag.ite ?_
  split
  · exact quiet.deliver
  all_goals exact quiet

theorem Keeps.receiveWrong (h : Keeps s t) {b : Bool} : Keeps s (t.receiveWrong b) :=
  h.countOnce.clocked.lineQuiet.ite h.countOnce.clocked

theorem Keeps.receiveFaulty (h : Keeps s t) {c : FormErrorCause} : Keeps s (t.receiveFaulty c) := by
  unfold State.receiveFaulty
  dsimp only
  split
  · exact h.countOnce.clocked
  · exact h.acknowledged.countOnce.clocked
  · exact h.countOnce.clocked.lineQuiet
  · exact h.acknowledged.countOnce.clocked.lineQuiet

theorem Keeps.abandonFrame (h : Keeps s t) {m : Bool} : Keeps s (t.abandonFrame m) := h.acknowledged.countOnce.lineQuietAfter

theorem Keeps.breakOwnFrame (h : Keeps s t) {n : Nat} : Keeps s (t.breakOwnFrame n) := h.countOnce.breakOffSend.lineQuietAfter

theorem Keeps.enterStuck (h : Keeps s t) {m : Bool} : Keeps s (t.enterStuck m) := by
  unfold State.enterStuck
  extract_lets s1 s2
  have counted : Keeps s s1 := h.acknowledged.countOnce.ite h
  have broken : Keeps s s2 := counted.breakOffSend.ite counted
  exact (broken.same (u := { s2 with lif := { s2.lif.toQuiet t.time.elapsed with view := .stuck } }) rfl).setFlag

/-! ### Speed and run -/

theorem Keeps.countPulse (h : Keeps s t) : Keeps s t.countPulse := by
  unfold State.countPulse
  extract_lets n whole _ s1
  have counted : Keeps s s1 := h.same rfl
  exact counted.changeTally.ite counted

theorem Keeps.phaseEdge (h : Keeps s t) : Keeps s t.phaseEdge := by
  unfold State.phaseEdge
  extract_lets now
  split
  · exact h.same rfl
  · exact h.same rfl
  · extract_lets s1
    have timed : Keeps s s1 := h.same rfl
    exact timed.speedHanded.ite timed

theorem Keeps.endSilence (h : Keeps s t) : Keeps s t.endSilence :=
  (h.same (u := { t with spu := { t.spu with silent := false, silenceSince := t.time.elapsed } }) rfl).timeSilence

theorem Keeps.acceptEdge (h : Keeps s t) : Keeps s t.acceptEdge := h.countPulse.phaseEdge.endSilence

theorem Keeps.declareSilence (h : Keeps s t) : Keeps s t.declareSilence := by
  unfold State.declareSilence
  extract_lets _ s1
  have declared : Keeps s s1 := h.same rfl
  exact declared.speedHanded.timeSilence.ite declared

theorem Keeps.beginSpeedSilent (h : Keeps s t) : Keeps s t.beginSpeedSilent := by
  unfold State.beginSpeedSilent
  extract_lets s1
  have recorded : Keeps s s1 := h.requestNow (by simp)
  exact recorded.same rfl

theorem Keeps.creditTenth (h : Keeps s t) : Keeps s t.creditTenth := by
  unfold State.creditTenth
  extract_lets _ s1
  have timed : Keeps s s1 := h.same rfl
  split
  · exact timed
  all_goals exact timed.changeTally

/-! ### OPEN and the supplies -/

theorem Keeps.openNodeState (h : Keeps s t) : Keeps s t.openNodeState := h.same rfl

theorem Keeps.openClock (h : Keeps s t) : Keeps s t.openClock :=
  (h.same (u := { t with time := { t.time with boundaryDue := none } }) rfl).changeState

theorem Keeps.recordOpened (h : Keeps s t) : Keeps s t.recordOpened := h.requestNow (by simp)

theorem Keeps.startSweep (h : Keeps s t) : Keeps s t.startSweep := h.same rfl

theorem Keeps.startRun (h : Keeps s t) : Keeps s t.startRun := h.same rfl

theorem Keeps.startChecks (h : Keeps s t) : Keeps s t.startChecks := h.same rfl

theorem Keeps.openTo (h : Keeps s t) {n : Nat} : Keeps s (t.openTo n) := by
  refine State.openTo_keeps (Keeps s) (fun step listed u k => ?_) t h n
  simp only [openStepList, List.mem_cons, List.not_mem_nil, or_false] at listed
  obtain rfl | rfl | rfl | rfl | rfl | rfl | rfl | rfl := listed
  · exact k.openNodeState
  · exact k.openClock
  · exact k.recordOpened
  · exact k.lockReference
  · exact k.startSweep
  · exact k.startRun
  · exact k.openShift
  · exact k.startChecks

theorem Keeps.midOpen (h : Keeps s t) {n : Option Nat} : Keeps s (t.midOpen n) := by
  obtain same | ⟨n, _, same⟩ := t.midOpen_cases n
  · rwa [same]
  · rw [same]
    exact h.openTo

/-- The main domain at its initial values has empty lists and no open round; the backup domain stays. -/
theorem Keeps.mainInitial (h : Keeps s t) : Keeps s t.mainInitial :=
  h.trans ⟨id, fun _ => ⟨Nat.zero_le _, Nat.zero_le _⟩, fun _ => ⟨Nat.zero_le _, nofun, nofun⟩, id, fun _ => ⟨Nat.zero_le _, nofun⟩,
    fun _ => nofun⟩

theorem Keeps.backupInitial (h : Keeps s t) : Keeps s t.backupInitial :=
  h.trans ⟨fun _ => ⟨⟨Nat.zero_le _, nofun⟩, trivial⟩, id, id, fun _ => Nat.zero_le _, id, id⟩

theorem Keeps.readStraps (h : Keeps s t) {n : NodeNo} {x : BitVec 2} : Keeps s (t.readStraps n x) := h.same rfl

theorem Keeps.setRstn (h : Keeps s t) {b : Bool} : Keeps s (t.setRstn b) := h.same rfl

theorem Keeps.toOff (h : Keeps s t) : Keeps s t.toOff := h.mainInitial.backupInitial.same rfl

theorem Keeps.releaseWires (h : Keeps s t) : Keeps s t.releaseWires := h.same rfl

theorem Keeps.lossTreatment (h : Keeps s t) : Keeps s t.lossTreatment := by
  unfold State.lossTreatment
  extract_lets credit s1
  have closed : Keeps s s1 := (h.releaseWires.requestNow (by simp)).closeOut
  exact closed.same rfl

theorem Keeps.toKeepAlive (h : Keeps s t) : Keeps s t.toKeepAlive := h.mainInitial.same rfl

theorem Keeps.backToKeepAlive (h : Keeps s t) : Keeps s t.backToKeepAlive := h.same rfl

theorem Keeps.vddLost (h : Keeps s t) : Keeps s t.vddLost := by
  unfold State.vddLost
  split
  · exact h.lossTreatment.toKeepAlive.ite h.toOff
  · exact h.backToKeepAlive.ite h.toOff
  all_goals exact h

theorem Keeps.vbkLost (h : Keeps s t) : Keeps s t.vbkLost := by
  unfold State.vbkLost
  split
  · exact h.toOff
  · exact h.same rfl
  · exact h.same rfl
  · exact h

theorem Keeps.assertReset (h : Keeps s t) : Keeps s t.assertReset := h.releaseWires.closeOut.mainInitial.same rfl

theorem Keeps.releaseReset (h : Keeps s t) {n : NodeNo} {x : BitVec 2} : Keeps s (t.releaseReset n x) := by
  unfold State.releaseReset
  extract_lets s1
  have read : Keeps s s1 := h.mainInitial.readStraps
  exact (read.same (u := { s1 with sup := { s1.sup with rstnHeld := false } }) rfl).requestNow (by simp)

theorem Keeps.toRun (h : Keeps s t) {n : NodeNo} {x : BitVec 2} : Keeps s (t.toRun n x) := h.mainInitial.readStraps.same rfl

theorem Keeps.creditOutage (h : Keeps s t) : Keeps s t.creditOutage := by
  unfold State.creditOutage
  extract_lets s1
  have credited : Keeps s s1 := h.changeTally
  exact Keeps.ite (credited.same rfl) h

theorem Keeps.startRestorePass (h : Keeps s t) : Keeps s t.startRestorePass := h.same rfl

theorem Keeps.endRestore (h : Keeps s t) {n : NodeNo} {x : BitVec 2} : Keeps s (t.endRestore n x) := by
  unfold State.endRestore
  extract_lets s1 _ s2 s3
  have run : Keeps s s1 := h.toRun
  have cold : Keeps s s2 := run.same rfl
  exact (cold.assertReset.ite cold).ite (run.creditOutage.requestNow (by simp)).startRestorePass

theorem Keeps.leaveOff (h : Keeps s t) {x : SupplyReturned} : Keeps s (t.leaveOff x) := by
  cases x
  all_goals exact h.mainInitial.backupInitial.same rfl

/-! ### The store check -/

theorem Keeps.reportFailure (h : Keeps s t) {a : StoreArea} {n : Nat} : Keeps s (t.reportFailure a n) := by
  unfold State.reportFailure
  extract_lets _ sup
  exact (h.same (u := { t with sup := sup }) rfl).setFlag

theorem Keeps.suspectTally (h : Keeps s t) : Keeps s t.suspectTally := h.changeTally

theorem Keeps.takeFailure (h : Keeps s t) {a : StoreArea} {b : Bool} : Keeps s (t.takeFailure a b) :=
  h.suspectTally.reportFailure.ite h.suspectTally

theorem Keeps.testUnitShift (h : Keeps s t) {p : Nat} : Keeps s (t.testUnitShift p) := by
  unfold State.testUnitShift
  split
  · exact h
  · refine h.ite (Keeps.reportFailure ?_)
    exact h.trans ⟨id, id, id, fun short => by simpa using short, id, id⟩

theorem Keeps.testEvent (h : Keeps s t) {p : Nat} : Keeps s (t.testEvent p) := by
  unfold State.testEvent
  split
  · exact h
  · next r at_p =>
    refine h.ite (Keeps.reportFailure ?_)
    exact h.trans ⟨fun k => Evq.accounts_mark k at_p, id, id, id, id, id⟩

theorem Keeps.testAt (h : Keeps s t) {c : Cursor} : Keeps s (t.testAt c) := by
  unfold State.testAt
  split
  · exact h.when h.takeFailure
  · exact h.when h.takeFailure
  · exact h.testUnitShift
  · exact h.testEvent

theorem Keeps.testStep (h : Keeps s t) {c : Cursor} : Keeps s (t.testStep c) := h.testAt.same rfl

theorem Keeps.beginPass (h : Keeps s t) : Keeps s t.beginPass := h.same rfl

theorem Keeps.endPass (h : Keeps s t) : Keeps s t.endPass := by
  unfold State.endPass
  extract_lets _ s1
  have counted : Keeps s s1 := h.same rfl
  exact counted.assertReset.ite counted

theorem Keeps.takeFinding (h : Keeps s t) {f : Option (StoreArea × Bool)} : Keeps s (t.takeFinding f) := by
  unfold State.takeFinding
  split
  · exact h
  · extract_lets s1
    have taken : Keeps s s1 := h.takeFailure
    exact taken.same rfl

/-! ### The Local Port -/

theorem Keeps.respond (h : Keeps s t) {l : List Byte} : Keeps s (t.respond l) := h.same rfl

theorem Keeps.done (h : Keeps s t) {c : CommandCode} {l : List Byte} : Keeps s (t.done c l) := h.respond

theorem Keeps.refuse (h : Keeps s t) {c : CommandCode} {r : Reason} : Keeps s (t.refuse c r) := h.respond

theorem Keeps.empty (h : Keeps s t) {c : CommandCode} : Keeps s (t.empty c) := h.respond

theorem Keeps.configure (h : Keeps s t) {l : List Byte} : Keeps s (State.configure l t) := by
  unfold State.configure
  refine h.refuse.ite ?_
  split
  · exact h.refuse
  · exact h.refuse
  · split
    · exact h.respond
    · exact (h.same (u := t.takeConfig _) rfl).done

theorem Keeps.openCommand (h : Keeps s t) : Keeps s t.openCommand := by
  unfold State.openCommand
  split
  · exact h.refuse
  · exact h.refuse
  · exact h.openTo.done

theorem Keeps.setTimeCommand (h : Keeps s t) {d : Day} {n : Nat} : Keeps s (State.setTimeCommand d n t) :=
  (h.refuse.ite h.abandonRound.stepAndLock.done).ite h.refuse

theorem Keeps.presetCommand (h : Keeps s t) {f : TallyFields} : Keeps s (State.presetCommand f t) :=
  h.refuse.ite (h.refuse.ite (h.same (u := t.preset f) rfl).done)

theorem Keeps.acceptCommand (h : Keeps s t) {b : Bool} : Keeps s (State.acceptCommand b t) :=
  (h.same (u := t.acceptTallies) rfl).takeFinding.done

theorem Keeps.ackCommand (h : Keeps s t) {m : BitVec 16} : Keeps s (State.ackCommand m t) :=
  (h.same (u := t.acknowledge m) rfl).done

theorem Keeps.readEventCommand (h : Keeps s t) : Keeps s t.readEventCommand := by
  unfold State.readEventCommand
  split
  · exact h.empty
  · next r rest records =>
    have removed : Keeps s (t.removeHead rest) :=
      h.trans ⟨fun k => Evq.accounts_removeHead k records, id, id, id, id, id⟩
    exact removed.done

theorem Keeps.readCascadeCommand (h : Keeps s t) : Keeps s t.readCascadeCommand := by
  unfold State.readCascadeCommand
  split
  · exact h.empty
  · next c rest listed =>
    refine Keeps.done ?_
    refine h.csu fun ⟨short, members, current⟩ => ⟨?_, fun x hx => members x ?_, current⟩
    · rw [listed, List.length_cons] at short
      exact Nat.le_of_succ_le short
    · rw [listed]
      exact List.mem_cons_of_mem _ hx

theorem Keeps.readRoundCommand (h : Keeps s t) : Keeps s t.readRoundCommand := by
  unfold State.readRoundCommand
  split
  · exact h.empty
  · exact h.done

theorem Keeps.readShiftCommand (h : Keeps s t) {n : Nat} : Keeps s (State.readShiftCommand n t) := by
  unfold State.readShiftCommand
  refine h.refuse.ite ?_
  split
  · exact h.empty
  · exact h.done

theorem Keeps.readStationCommand (h : Keeps s t) : Keeps s t.readStationCommand := by
  unfold State.readStationCommand
  split
  · exact h.empty
  · extract_lets rest
    have removed : Keeps s { t with shu := { t.shu with records := rest } } :=
      h.trans ⟨id, id, id, id, fun ⟨short, ordered⟩ =>
        ⟨List.eraseP_sublist.length_le.trans short, fun r hr => ordered r (List.mem_of_mem_eraseP hr)⟩, id⟩
    exact removed.done

theorem Keeps.runCommand (h : Keeps s t) {c : CommandCode} {l : List Byte} : Keeps s (t.runCommand c l) := by
  cases c
  · exact h.configure
  · exact h.openCommand
  · exact h.setTimeCommand
  · exact h.presetCommand
  · exact h.acceptCommand
  · exact h.done
  · exact h.readEventCommand
  · exact h.readCascadeCommand
  · exact h.readRoundCommand
  · exact h.done
  · exact h.readShiftCommand
  · exact h.readStationCommand
  · exact h.ackCommand

theorem Keeps.readOut (h : Keeps s t) {n : Nat} {b : Bool} : Keeps s (t.readOut n b) := by
  unfold State.readOut
  refine Keeps.ite (h.same rfl) ?_
  split
  · exact h.same rfl
  · exact h.same rfl

theorem Keeps.examine (h : Keeps s t) {c : Byte} {l : List Byte} {b : Bool} : Keeps s (t.examine c l b) := by
  unfold State.examine
  refine Keeps.ite ?_ h.respond
  split
  · exact h.respond
  · exact h.runCommand.ite h.respond

theorem Keeps.transact (h : Keeps s t) {l : List Byte} {b c : Bool} : Keeps s (t.transact l b c) := by
  unfold State.transact
  split
  · exact h
  · refine h.readOut.ite ?_
    extract_lets s1
    have shifted : Keeps s s1 := h.same rfl
    exact shifted.ite shifted.examine

end

/-! ### Every step -/

/-- A step that is taken only for what is found. -/
theorem Keeps.whenFound {α : Type} {s t : State} {o : Option α} {f : α → State} (h : Keeps s t)
    (taken : ∀ x, o = some x → Keeps s (f x)) : Keeps s (whenFound o t f) := by
  cases o with
  | none => exact h
  | some x => exact taken x rfl

theorem State.current_of_cascadeDue {s : State} {c : Cascade} (due : s.cascadeDue = some c) :
    ∃ o, s.csu.current = some o ∧ c = o.cascade := by
  unfold State.cascadeDue at due
  split at due
  · cases due
  · next o current =>
    obtain ⟨_, e⟩ := Option.ite_none_right_eq_some.mp due
    exact ⟨o, current, (Option.some.inj e).symm⟩

theorem Keeps.effectOf (c : Instr) (s : State) : Keeps s (effectOf c s) := by
  have h := Keeps.refl s
  cases c with
  | configure => exact h.viaPort h.configure
  | openNode => exact h.viaPort h.openCommand
  | setTime => exact h.viaPort h.setTimeCommand
  | presetTally => exact h.viaPort h.presetCommand
  | acceptTally => exact h.viaPort h.acceptCommand
  | readStatus => exact h.viaPort h.done
  | readEvent => exact h.viaPort h.readEventCommand
  | readCascade => exact h.viaPort h.readCascadeCommand
  | readRound => exact h.viaPort h.readRoundCommand
  | readTally => exact h.viaPort h.done
  | readShift => exact h.viaPort h.readShiftCommand
  | readStationShift => exact h.viaPort h.readStationCommand
  | ackAttention => exact h.viaPort h.ackCommand
  | commandTransaction => exact h.when h.transact
  | readTransaction => exact h.when h.readOut
  | startCondition => exact h.when (h.same rfl)
  | lineIdle => exact h.when (h.same rfl)
  | frameAbandoned => exact (h.when h.breakOwnFrame).ite (h.when h.abandonFrame)
  | sendBegin => exact h.when h.beginSend
  | contentionJoin => exact h.takeClock.whenFound fun _ _ => h.beginSend
  | arbitrationLoss => exact h.when h.count.breakOffSend
  | driverFault => exact h.when h.countOnce.breakOffSend
  | attemptEnd => exact h.whenFound fun _ _ => h.endAttempt
  | frameReceivedIntact => exact h.when h.receiveIntact
  | checkError => exact h.when h.receiveWrong
  | formError => exact (h.when h.breakOwnFrame).ite (h.when h.receiveFaulty)
  | lineStuck => exact h.when h.enterStuck
  | lineStuckLeft => exact h.when h.lineQuietAfter
  | oscillatorSecond => exact h.when h.beginSecond
  | roundBoundary => exact h.whenFound fun _ _ => h.takeBoundary
  | roundClose => exact h.whenFound fun _ _ => h.closeRound
  | refsecEdge => exact h.when h.referenceEdge
  | refsecSilence => exact h.when h.referenceSilence
  | firstSample => exact h.whenFound fun _ _ => h.when h.firstSampled
  | qualifiedChange => exact h.whenFound fun _ _ => h.qualified
  | chatterWindowExpiry => exact h.when h.windowCloses
  | cascadeClose =>
    refine h.whenFound fun c found => ?_
    obtain ⟨o, current, rfl⟩ := State.current_of_cascadeDue found
    exact h.closeCascade current
  | stopDeadline => exact h.whenFound fun _ _ => h.decideStop
  | spdEdge => exact h.when h.acceptEdge
  | speedSilence => exact h.when h.declareSilence
  | speedSilent => exact h.when h.beginSpeedSilent
  | oscillatorTenth => exact h.when h.creditTenth
  | shiftBoundaryReached => exact h.whenFound fun _ _ => h.boundaryReached
  | earlyMark => exact h.when h.setMode
  | graceExpiry => exact h.when h.setMode.setFlag
  | pairingTimeout => exact h.when h.dropHeld
  | gatherExpiry => exact h.whenFound fun _ found => h.when (h.endGathering found)
  | mainSupplyLoss => exact h.midOpen.vddLost
  | backupSupplyLoss => exact h.vbkLost
  | mainSupplyReturn => exact h.when (h.same rfl)
  | restoreWaitEnd => exact h.when h.endRestore
  | coldStart => exact h.when h.leaveOff
  | rstnAssert => exact (h.when h.midOpen.assertReset).setRstn
  | rstnRelease => exact (h.when h.releaseReset).setRstn
  | storeCheckPassStart => exact h.when h.beginPass
  | storeCheckTest => exact h.whenFound fun _ _ => h.testStep
  | storeCheckPassEnd => exact h.when h.endPass
  | lampBlinkPhase => exact h.when h.blink
  | lampFlashEnd => exact h.when (h.same rfl)
  | sampleSlot => exact h.when (h.same (by simp [State.books]))
  | notAStart => exact h.when h.lineQuiet
  | backupSupplyReturn => exact h.when (h.same rfl)

theorem Keeps.after (s : State) (n : Nat) : Keeps s (s.after n) := (Keeps.refl s).same (by simp [State.books])

theorem Keeps.finish (s : State) : Keeps s s.finish := (Keeps.refl s).same (by simp [State.books])

/-- Settles O8: every operation keeps the account of the numbers. -/
theorem sequenceNumbersAccount : Obligations.SequenceNumbersAccount :=
  Kept.of_parts (p := fun s => s.evq.accounts) (fun _ _ _ h => h) (fun s n => (Keeps.after s n).events) (fun c s => (Keeps.effectOf c s).events)
    fun s => (Keeps.finish s).events

/-- The books together are kept wherever each of them is. -/
theorem Keeps.bounded {s t : State} (h : Keeps s t) (k : s.bounded) : t.bounded := by
  obtain ⟨sends, cascades, shifts, records, round⟩ := s.bounded_iff.mp k
  exact t.bounded_iff.mpr ⟨h.sends sends, h.cascades cascades, h.shifts shifts, h.records records, h.round round⟩

/-- Settles O10: every operation keeps each list within its places. -/
theorem listsStayBounded : Obligations.ListsStayBounded :=
  Kept.of_parts (fun _ _ _ h => h) (fun s n => (Keeps.after s n).bounded) (fun c s => (Keeps.effectOf c s).bounded)
    fun s => (Keeps.finish s).bounded

end Sys2Proof.Machine
end

section
/-! The tally's account of runs (R126) with the states that go together (R114, R119, Table 2-1). `runBalanced` is the part that
the run state machine keeps; node state, clock state and supply state are changed by few operations, one lemma for each. -/

namespace Sys2Proof.Machine

/-! ### What leaves the tally, the run state and the waiting stop alone -/

@[simp] theorem State.closeUnitShift_tally (s : State) (c : CloseKey) : (s.closeUnitShift c).tallies.tally = s.tallies.tally := by
  simp [State.closeUnitShift, Tallies.close]

@[simp] theorem State.closeOrder_tally (s : State) (l : List CloseKey) : (s.closeOrder l).tallies.tally = s.tallies.tally := by
  unfold State.closeOrder
  induction l.filter (fun c => c.key.laterThan s.tallies.lastClosed) generalizing s with
  | nil => rfl
  | cons c cs ih => simp [ih]

@[simp] theorem State.unitHandover_run (s : State) (n : NodeNo) (q : ClockState) (b : List Byte) :
    (s.unitHandover n q b).tallies.tally = s.tallies.tally ∧ (s.unitHandover n q b).run.state = s.run.state
      ∧ (s.unitHandover n q b).run.stop = s.run.stop := by
  unfold State.unitHandover
  dsimp only
  (repeat' split) <;> simp

@[simp] theorem State.takeCrossed_tally (s : State) (k : ShiftKey) (a b : Date) :
    (s.takeCrossed k a b).tallies.tally = s.tallies.tally := by
  unfold State.takeCrossed
  dsimp only
  (repeat' split) <;> simp [State.reach]

@[simp] theorem State.reportStep_tally (s : State) (a b : Date) : (s.reportStep a b).tallies.tally = s.tallies.tally := by
  unfold State.reportStep
  (repeat' split) <;> simp [State.reach]

@[simp] theorem State.boundaryReached_tally (s : State) (k : ShiftKey) :
    (s.boundaryReached k).tallies.tally = s.tallies.tally := by
  unfold State.boundaryReached
  dsimp only
  (repeat' split) <;> simp [State.reach]

@[simp] theorem State.catchUp_tally (s : State) : s.catchUp.tallies.tally = s.tallies.tally := by
  unfold State.catchUp
  split <;> simp

@[simp] theorem State.openShift_tally (s : State) : s.openShift.tallies.tally = s.tallies.tally := by
  unfold State.openShift
  dsimp only
  (repeat' split) <;> simp [State.reach]

@[simp] theorem State.stepClock_tally (s : State) (d : Date) (c : StepCause) :
    (s.stepClock d c).tallies.tally = s.tallies.tally := by
  simp [State.stepClock, State.recordStep, State.setClock]

@[simp] theorem State.stepAndLock_tally (s : State) (d : Date) (c : StepCause) :
    (s.stepAndLock d c).tallies.tally = s.tallies.tally := by
  unfold State.stepAndLock
  dsimp only
  split <;> simp

@[simp] theorem State.coarseSet_tally (s : State) (f : ForeignMark) : (s.coarseSet f).tallies.tally = s.tallies.tally := by
  simp [State.coarseSet]

@[simp] theorem State.timeTest_tally (s : State) (n : NodeNo) (m : MarkBody) :
    (s.timeTest n m).tallies.tally = s.tallies.tally := by
  unfold State.timeTest
  (repeat' split) <;> simp

@[simp] theorem State.markDelivered_tally (s : State) (n : NodeNo) (x : Start) (b : List Byte) :
    (s.markDelivered n x b).tallies.tally = s.tallies.tally := by
  unfold State.markDelivered
  dsimp only
  (repeat' split) <;> simp [State.setStart, State.setRound]

@[simp] theorem State.closeTransition_tally (s : State) (r : Round) (v : CloseValues) :
    (s.closeTransition r v).1.tallies.tally = s.tallies.tally := by
  unfold State.closeTransition State.joiningFull State.agreedClose State.splitClose
  dsimp only
  (repeat' split) <;> simp

@[simp] theorem State.closeRound_tally (s : State) (r : Round) : (s.closeRound r).tallies.tally = s.tallies.tally := by
  simp [State.closeRound]

@[simp] theorem State.discipline_tally (s : State) : s.discipline.tallies.tally = s.tallies.tally := by
  unfold State.discipline
  dsimp only
  (repeat' split) <;> simp [State.replaceP]

@[simp] theorem State.goodInterval_tally (s : State) : s.goodInterval.tallies.tally = s.tallies.tally := by
  unfold State.goodInterval
  dsimp only
  (repeat' split) <;> simp [State.setMonitor]

@[simp] theorem State.referenceEdge_tally (s : State) : s.referenceEdge.tallies.tally = s.tallies.tally := by
  unfold State.referenceEdge
  dsimp only
  (repeat' split) <;> simp

@[simp] theorem State.deliver_run (s : State) (k : FrameKind) (n : NodeNo) (x : Start) (b : List Byte) :
    (s.deliver k n x b).tallies.tally = s.tallies.tally ∧ (s.deliver k n x b).run.state = s.run.state
      ∧ (s.deliver k n x b).run.stop = s.run.stop := by
  unfold State.deliver
  dsimp only
  (repeat' split) <;> simp

@[simp] theorem State.receiveIntact_run (s : State) (x : Byte) (b : List Byte) :
    (s.receiveIntact x b).tallies.tally = s.tallies.tally ∧ (s.receiveIntact x b).run.state = s.run.state
      ∧ (s.receiveIntact x b).run.stop = s.run.stop := by
  unfold State.receiveIntact
  dsimp only
  (repeat' split) <;> simp [State.flashLine]

/-! ### SOLO is entered and left by OPEN and resets alone -/

@[simp] theorem State.changeState_state (s : State) (q : ClockState) (c : StateCause) : (s.changeState q c).clu.state = q := by
  simp [State.changeState]

@[simp] theorem State.lockReference_solo (s : State) : s.lockReference.clu.state = .solo ↔ s.clu.state = .solo := by
  unfold State.lockReference
  split
  · next lock =>
    obtain ⟨⟨_, lockable⟩, _⟩ : ((_ ∧ s.clu.state.lockable = true) ∧ _) := by simpa using lock
    have other : s.clu.state ≠ .solo := fun solo => by simp [solo, ClockState.lockable] at lockable
    simp [other]
  · rfl

@[simp] theorem State.stepClock_state (s : State) (d : Date) (c : StepCause) : (s.stepClock d c).clu.state = s.clu.state := by
  simp [State.stepClock, State.recordStep, State.setClock]

@[simp] theorem State.stepAndLock_solo (s : State) (d : Date) (c : StepCause) :
    (s.stepAndLock d c).clu.state = .solo ↔ s.clu.state = .solo := by
  unfold State.stepAndLock
  dsimp only
  split <;> simp

@[simp] theorem State.openRound_state (s : State) (k : RoundKey) : (s.openRound k).clu.state = s.clu.state :=
  ite_holds (p := fun t : State => t.clu.state = s.clu.state) rfl rfl

@[simp] theorem State.handBack_state (s : State) (k : RoundKey) (x : Start) : (s.handBack k x).clu.state = s.clu.state := by
  unfold State.handBack
  dsimp only
  (repeat' split) <;> simp [State.setStart, State.setRound]

@[simp] theorem State.abandonRound_state (s : State) : s.abandonRound.clu.state = s.clu.state := by
  unfold State.abandonRound
  split <;> simp

@[simp] theorem State.coarseSet_solo (s : State) (f : ForeignMark) : (s.coarseSet f).clu.state = .solo ↔ s.clu.state = .solo := by
  simp [State.coarseSet]

@[simp] theorem State.timeTest_solo (s : State) (n : NodeNo) (m : MarkBody) :
    (s.timeTest n m).clu.state = .solo ↔ s.clu.state = .solo := by
  unfold State.timeTest
  (repeat' split) <;> simp

@[simp] theorem State.markDelivered_solo (s : State) (n : NodeNo) (x : Start) (b : List Byte) :
    (s.markDelivered n x b).clu.state = .solo ↔ s.clu.state = .solo := by
  unfold State.markDelivered
  dsimp only
  (repeat' split) <;> simp [State.setStart, State.setRound]

/-- A close in AGREED leaves it only for a state other than SOLO. -/
theorem State.agreedClose_notSolo (s : State) (r : Round) (v : CloseValues) (agreed : s.clu.state = .agreed) :
    (s.agreedClose r v).1.clu.state ≠ .solo := by
  have test : (s.splitTest r).clu.state = .agreed := by
    unfold State.splitTest
    dsimp only
    split <;> simp [agreed]
  unfold State.agreedClose State.splitClose State.agreedFull State.agreedShort
  dsimp only
  (repeat' split) <;> simp [test, State.replaceP]

/-- So does the close of a full round in JOINING. -/
theorem State.joiningFull_notSolo (s : State) (c : Int) (joining : s.clu.state = .joining) :
    (s.joiningFull c).1.clu.state ≠ .solo := by
  unfold State.joiningFull
  split
  · dsimp only
    split <;> simp [joining]
  · simp

@[simp] theorem State.closeTransition_solo (s : State) (r : Round) (v : CloseValues) :
    (s.closeTransition r v).1.clu.state = .solo ↔ s.clu.state = .solo := by
  unfold State.closeTransition
  split
  next joining =>
    split
    · simp [joining, s.joiningFull_notSolo _ joining]
    · unfold State.formationClose
      dsimp only
      (repeat' split) <;> simp [joining]
  next agreed => simp [agreed, s.agreedClose_notSolo r v agreed]
  next holdover =>
    split
    · unfold State.holdoverFull
      split <;> simp [holdover]
    · rfl
  all_goals rfl

@[simp] theorem State.closeRound_solo (s : State) (r : Round) : (s.closeRound r).clu.state = .solo ↔ s.clu.state = .solo := by
  simp [State.closeRound]

@[simp] theorem State.discipline_solo (s : State) : s.discipline.clu.state = .solo ↔ s.clu.state = .solo := by
  unfold State.discipline
  dsimp only
  (repeat' split) <;> simp [State.replaceP]

@[simp] theorem State.goodInterval_solo (s : State) : s.goodInterval.clu.state = .solo ↔ s.clu.state = .solo := by
  unfold State.goodInterval
  dsimp only
  (repeat' split) <;> simp [State.setMonitor]

@[simp] theorem State.badInterval_solo (s : State) : s.badInterval.clu.state = .solo ↔ s.clu.state = .solo := by
  unfold State.badInterval State.loseReference
  (repeat' split) <;> simp_all [State.setMonitor]

@[simp] theorem State.referenceEdge_solo (s : State) : s.referenceEdge.clu.state = .solo ↔ s.clu.state = .solo := by
  unfold State.referenceEdge
  dsimp only
  (repeat' split) <;> simp

@[simp] theorem State.referenceSilence_solo (s : State) : s.referenceSilence.clu.state = .solo ↔ s.clu.state = .solo := by
  simp [State.referenceSilence]

@[simp] theorem State.takeBoundary_state (s : State) (k : RoundKey) : (s.takeBoundary k).clu.state = s.clu.state := by
  unfold State.takeBoundary
  dsimp only
  (repeat' split) <;> simp

@[simp] theorem State.markEnds_state (s : State) (k : RoundKey) (x : Start) (h : Bool) :
    (s.markEnds k x h).clu.state = s.clu.state := by
  unfold State.markEnds
  dsimp only
  split <;> simp

@[simp] theorem State.endAttempt_state (s : State) (x : Start) (f : QueuedFrame) (h : Bool) :
    (s.endAttempt x f h).clu.state = s.clu.state := by
  unfold State.endAttempt
  dsimp only
  (repeat' split) <;> simp

@[simp] theorem State.deliver_solo (s : State) (k : FrameKind) (n : NodeNo) (x : Start) (b : List Byte) :
    (s.deliver k n x b).clu.state = .solo ↔ s.clu.state = .solo := by
  unfold State.deliver
  dsimp only
  (repeat' split) <;> simp

@[simp] theorem State.receiveIntact_solo (s : State) (x : Byte) (b : List Byte) :
    (s.receiveIntact x b).clu.state = .solo ↔ s.clu.state = .solo := by
  unfold State.receiveIntact
  dsimp only
  (repeat' split) <;> simp [State.flashLine]

end Sys2Proof.Machine
end

section
namespace Sys2Proof.Machine

/-! ### The counts -/

/-- What R126 counts of runs: whether the counts hold, syncs, trips and normal stops. -/
def Tally.counts (t : Tally) : Bool × BitVec 24 × BitVec 24 × BitVec 24 :=
  (t.saturated, t.fields.syncs, t.fields.trips, t.fields.normalStops)

/-- Syncs ahead of trips and normal stops by n, unless SATURATED. -/
def Tally.ahead (t : Tally) (n : Nat) : Prop :=
  t.saturated = false → t.fields.syncs.toNat = t.fields.trips.toNat + t.fields.normalStops.toNat + n

theorem Tally.ahead.of_counts {t u : Tally} {n : Nat} (h : t.ahead n) (same : u.saturated = false → u.counts = t.counts) :
    u.ahead n := by
  intro live
  have eq := same live
  simp only [Tally.counts, Prod.mk.injEq] at eq
  obtain ⟨sat, syncs, trips, stops⟩ := eq
  rw [syncs, trips, stops]
  exact h (sat ▸ live)

@[simp] theorem Tally.sealed_counts (t : Tally) : t.sealed.counts = t.counts := rfl

/-- Below the highest value an increase counts one. -/
theorem satInc_toNat {w : Nat} {x : BitVec w} (below : atTop x = false) : (satInc x).toNat = x.toNat + 1 := by
  have other : x ≠ BitVec.allOnes w := by simpa [atTop] using below
  have lt : x.toNat < 2 ^ w - 1 := by
    have := x.isLt
    have : x.toNat ≠ 2 ^ w - 1 := fun e => other (BitVec.eq_of_toNat_eq (by simp [e]))
    omega
  rw [satInc, if_neg other, BitVec.toNat_add_of_lt]
  all_goals
    cases w with
    | zero => omega
    | succ w => simp; try omega

theorem Tally.ahead.addSync {t : Tally} {n : Nat} (h : t.ahead n) : t.addSync.ahead (n + 1) := by
  intro live
  obtain ⟨live, below⟩ : t.saturated = false ∧ atTop t.fields.syncs = false := by
    simpa [Tally.addSync, Tally.credit] using live
  have was := h live
  have more := satInc_toNat below
  dsimp only [Tally.addSync, Tally.credit]
  omega

theorem Tally.ahead.addTrip {t : Tally} {n : Nat} (h : t.ahead (n + 1)) : t.addTrip.ahead n := by
  intro live
  obtain ⟨live, below⟩ : t.saturated = false ∧ atTop t.fields.trips = false := by
    simpa [Tally.addTrip, Tally.credit] using live
  have was := h live
  have more := satInc_toNat below
  dsimp only [Tally.addTrip, Tally.credit]
  omega

theorem Tally.ahead.addNormalStop {t : Tally} {n : Nat} (h : t.ahead (n + 1)) : t.addNormalStop.ahead n := by
  intro live
  obtain ⟨live, below⟩ : t.saturated = false ∧ atTop t.fields.normalStops = false := by
    simpa [Tally.addNormalStop, Tally.credit] using live
  have was := h live
  have more := satInc_toNat below
  dsimp only [Tally.addNormalStop, Tally.credit]
  omega

/-- Fields other than the three counts change without them. -/
theorem Tally.credit_counts {t : Tally} {f : TallyFields} {top : Bool} (syncs : f.syncs = t.fields.syncs)
    (trips : f.trips = t.fields.trips) (stops : f.normalStops = t.fields.normalStops)
    (live : (t.credit f top).saturated = false) : (t.credit f top).counts = t.counts := by
  have live : t.saturated = false ∧ top = false := by simpa [Tally.credit] using live
  simp [Tally.counts, Tally.credit, syncs, trips, stops, live]

theorem Tally.addStart_counts {t : Tally} (live : t.addStart.saturated = false) : t.addStart.counts = t.counts :=
  Tally.credit_counts rfl rfl rfl live

theorem Tally.addOutage_counts {t : Tally} {n : BitVec 32} (live : (t.addOutage n).saturated = false) :
    (t.addOutage n).counts = t.counts := Tally.credit_counts rfl rfl rfl live

theorem Tally.addTenth_counts {t : Tally} {r : RunState} (live : (t.addTenth r).saturated = false) :
    (t.addTenth r).counts = t.counts := by
  cases r with
  | standstill => rfl
  | spinning => exact Tally.credit_counts rfl rfl rfl live
  | online => exact Tally.credit_counts rfl rfl rfl live

/-! ### The run state machine -/

/-- An ONLINE run has no waiting stop (R119, R121), and the counts balance (R126). -/
def State.runBalanced (s : State) : Prop := (s.run.state = .online → s.run.stop = none) ∧ s.tallies.tally.ahead s.openRun

theorem State.openRun_congr {s t : State} (state : t.run.state = s.run.state) (stop : t.run.stop = s.run.stop) :
    t.openRun = s.openRun := by
  simp [State.openRun, state, stop]

section
variable {s t : State}

theorem State.runBalanced.same (h : s.runBalanced) (state : t.run.state = s.run.state) (stop : t.run.stop = s.run.stop)
    (counts : t.tallies.tally.saturated = false → t.tallies.tally.counts = s.tallies.tally.counts) : t.runBalanced := by
  obtain ⟨alone, ahead⟩ := h
  refine ⟨by rwa [state, stop], ?_⟩
  rw [State.openRun_congr state stop]
  exact ahead.of_counts counts

@[simp] theorem State.changeTally_tally (s : State) (f : Tally → Tally) :
    (s.changeTally f).tallies.tally = (f s.tallies.tally).sealed := rfl

/-- A waiting stop that is classified pays for its sync. -/
theorem State.runBalanced.classify (h : s.runBalanced) {x : Stop} {y : Option (NodeNo × InputNo)} {f : StopFlags}
    (stop : s.run.stop = some x) :
    (s.classify x y f).tallies.tally.ahead 0 ∧ (s.classify x y f).run.state ≠ .online ∧ (s.classify x y f).run.stop = none := by
  obtain ⟨alone, ahead⟩ := h
  have offline : s.run.state ≠ .online := fun online => by simp [alone online] at stop
  have one : s.openRun = 0 + 1 := by simp [State.openRun, stop]
  rw [one] at ahead
  refine ⟨?_, by simpa [State.classify, State.recordStop] using offline, rfl⟩
  have counted : (s.classify x y f).tallies.tally
      = ((if y.isSome then Tally.addTrip else Tally.addNormalStop) s.tallies.tally).sealed := by
    simp [State.classify, State.recordStop]
  rw [counted]
  refine Tally.ahead.of_counts (t := (if y.isSome then Tally.addTrip else Tally.addNormalStop) s.tallies.tally) ?_ fun _ => rfl
  split
  · exact ahead.addTrip
  · exact ahead.addNormalStop

/-- Neither a stop nor a run is open. -/
theorem State.openRun_none (state : s.run.state ≠ .online) (stop : s.run.stop = none) : s.openRun = 0 := by
  simp [State.openRun, state, stop]

theorem State.runBalanced.of_closed (ahead : s.tallies.tally.ahead 0) (state : s.run.state ≠ .online) (stop : s.run.stop = none) :
    s.runBalanced :=
  ⟨fun online => absurd online state, by rwa [State.openRun_none state stop]⟩

theorem State.runBalanced.classified (h : s.runBalanced) {x : Stop} {y : Option (NodeNo × InputNo)} {f : StopFlags}
    (stop : s.run.stop = some x) : (s.classify x y f).runBalanced := by
  obtain ⟨ahead, state, none⟩ := h.classify (y := y) (f := f) stop
  exact .of_closed ahead state none

@[simp] theorem State.timeSilence_run (s : State) :
    s.timeSilence.run.state = s.run.state ∧ s.timeSilence.run.stop = s.run.stop := by
  unfold State.timeSilence
  split <;> simp

theorem State.runBalanced.timeSilence (h : s.runBalanced) : s.timeSilence.runBalanced :=
  h.same (by simp) (by simp) (by simp)

/-- A run that begins has its sync (Table 6-3). -/
theorem State.runBalanced.breakerCloses (h : s.runBalanced) {d : Stamp} : (s.breakerCloses d).runBalanced := by
  have goes_online : ∀ u : State, u.tallies.tally.ahead 0 → u.run.stop = none → ∀ b,
      ((((u.changeTally Tally.addSync).recordRun d .online b).enterRun .online).timeSilence).runBalanced := by
    intro u ahead stop b
    refine State.runBalanced.timeSilence ⟨fun _ => stop, ?_⟩
    have one : ((((u.changeTally Tally.addSync).recordRun d .online b).enterRun .online)).openRun = 0 + 1 := by
      simp [State.openRun, State.enterRun]
    rw [one]
    exact ahead.addSync.of_counts fun _ => rfl
  have freed : s.run.state ≠ .online → ∀ u : State, u = (match s.run.stop with
      | none => { s with run := { s.run with breakerClosed := true } }
      | some stop => State.classify { s with run := { s.run with breakerClosed := true } } stop none ⟨true, false, false⟩) →
      u.tallies.tally.ahead 0 ∧ u.run.stop = none := by
    rintro offline u rfl
    split
    · next stop => exact ⟨by rw [← State.openRun_none offline stop]; exact h.2, stop⟩
    · next x stop =>
      have closed : State.runBalanced { s with run := { s.run with breakerClosed := true } } := h
      obtain ⟨ahead, _, none⟩ := closed.classify (y := none) (f := ⟨true, false, false⟩) stop
      exact ⟨ahead, none⟩
  unfold State.breakerCloses
  dsimp only
  split
  · exact h
  all_goals
    next offline =>
      obtain ⟨ahead, stop⟩ := freed (by simp [offline]) _ rfl
      exact goes_online _ ahead stop _

/-- An ONLINE run that ends leaves its stop waiting (R119). -/
theorem State.runBalanced.breakerOpens (h : s.runBalanced) {d : Stamp} : (s.breakerOpens d).runBalanced := by
  obtain ⟨alone, ahead⟩ := h
  unfold State.breakerOpens
  dsimp only
  split
  · exact ⟨alone, ahead⟩
  · exact ⟨alone, ahead⟩
  · next online =>
    have one : s.openRun = 1 := by simp [State.openRun, online]
    rw [one] at ahead
    refine State.runBalanced.timeSilence ⟨?_, ?_⟩
    · simp only [State.enterRun]
      split <;> simp
    · simpa [State.openRun, State.enterRun, State.recordRun] using ahead

theorem State.runBalanced.breakerLevel (h : s.runBalanced) {b : Bool} {d : Stamp} : (s.breakerLevel b d).runBalanced :=
  ite_holds h.breakerCloses h.breakerOpens

/-- A run state other than ONLINE for another one. -/
theorem State.runBalanced.enterRun (h : s.runBalanced) {new : RunState} (was : s.run.state ≠ .online) (is : new ≠ .online) :
    (s.enterRun new).runBalanced := by
  refine ⟨fun online => absurd online is, ?_⟩
  have same : (s.enterRun new).openRun = s.openRun := by simp [State.openRun, State.enterRun, was, is]
  rw [same]
  exact h.2

theorem State.runBalanced.changeTally (h : s.runBalanced) {f : Tally → Tally}
    (counts : (f s.tallies.tally).saturated = false → (f s.tallies.tally).counts = s.tallies.tally.counts) :
    (s.changeTally f).runBalanced := h.same rfl rfl counts

theorem State.runBalanced.speedHanded (h : s.runBalanced) : s.speedHanded.runBalanced := by
  unfold State.speedHanded
  dsimp only
  refine ite_holds h ?_
  split
  · next standstill _ =>
    refine ite_holds h (State.runBalanced.timeSilence (State.runBalanced.enterRun ?_ ?_ ?_))
    · exact (State.runBalanced.changeTally (s := { s with run := { s.run with turning := _ } }) h Tally.addStart_counts).same
        rfl rfl fun _ => rfl
    · simp [State.recordRun, standstill]
    · simp
  · next spinning _ =>
    refine State.runBalanced.timeSilence (State.runBalanced.enterRun (h.same rfl rfl fun _ => rfl) ?_ ?_)
    · simp [spinning]
    · simp
  all_goals exact h

/-- After the close-out every sync is paid for. -/
theorem State.runBalanced.closeOut (h : s.runBalanced) {b : Bool} : (s.closeOut b).tallies.tally.ahead 0 := by
  unfold State.closeOut
  dsimp only
  split
  · next x stop => exact (h.classify stop).1
  · next stop =>
    split
    · next online =>
      have ahead := h.2
      rw [show s.openRun = 0 + 1 by simp [State.openRun, online]] at ahead
      exact ahead.addNormalStop.of_counts fun _ => rfl
    · next offline =>
      rw [← State.openRun_none offline stop]
      exact h.2

theorem State.runBalanced.closeNotice (h : s.runBalanced) {c : Cascade} : (s.closeNotice c).runBalanced := by
  unfold State.closeNotice
  split
  · exact h
  · next x stop =>
    dsimp only
    split
    all_goals exact ite_holds (h.classified stop) h

theorem State.runBalanced.closeCascade (h : s.runBalanced) {c : Cascade} : (s.closeCascade c).runBalanced := by
  unfold State.closeCascade
  extract_lets s1 s2 s3 s4
  have listed : s3.runBalanced := h.same rfl rfl fun _ => rfl
  have noticed : s4.runBalanced := ite_holds listed.closeNotice listed
  exact noticed.same (by simp) (by simp) (by simp)

theorem State.runBalanced.decideStop (h : s.runBalanced) {x : Stop} (stop : s.run.stop = some x) : (s.decideStop x).runBalanced := by
  unfold State.decideStop
  dsimp only
  split
  · exact h.classified stop
  · refine ite_holds ?_ (h.classified stop)
    obtain ⟨alone, ahead⟩ := h
    have offline : s.run.state ≠ .online := fun online => by simp [alone online] at stop
    refine ⟨fun online => absurd online offline, ?_⟩
    simpa [State.openRun, stop] using ahead

/-! ### Inputs and speed -/

theorem State.runBalanced.firstSampled (h : s.runBalanced) {n : InputNo} {b : Bool} {d : Stamp} :
    (s.firstSampled n b d).runBalanced := by
  have set : ∀ i, (s.setInput n i).runBalanced := fun i => h
  unfold State.firstSampled
  dsimp only
  split
  · exact (set _).breakerLevel
  all_goals exact set _

theorem State.runBalanced.handOn (h : s.runBalanced) {n : InputNo} {b : Bool} {d : Stamp} : (s.handOn n b d).runBalanced := by
  have recorded : (s.recordChange n b d).runBalanced := h.same (by simp) (by simp) (by simp)
  unfold State.handOn State.handByRole
  split
  · exact recorded.breakerLevel
  · exact recorded.same (by simp) (by simp) (by simp)
  · exact recorded.same (by simp) (by simp) (by simp)
  all_goals exact recorded

theorem State.runBalanced.lockInput (h : s.runBalanced) {n : InputNo} {b : Bool} {d : Stamp} {e : Nat} :
    (s.lockInput n b d e).runBalanced := h

theorem State.runBalanced.qualified (h : s.runBalanced) {n : InputNo} {b : Bool} {x : Start} : (s.qualified n b x).runBalanced := by
  have set : ∀ i, (s.setInput n i).runBalanced := fun i => h
  unfold State.qualified
  dsimp only
  split
  · exact set _
  all_goals exact ite_holds (set _).handOn.lockInput (set _).handOn

theorem State.runBalanced.windowCloses (h : s.runBalanced) {n : InputNo} : (s.windowCloses n).runBalanced := by
  have set : ∀ i, (s.setInput n i).runBalanced := fun i => h
  unfold State.windowCloses State.release
  dsimp only
  split
  · exact h
  · exact set _
  · have recorded : ∀ i a b, ((s.setInput n i).requestNow .chatterRelease a b).runBalanced := fun i a b => h
    split
    · exact ite_holds (recorded ..) (recorded ..).breakerLevel
    all_goals exact recorded ..

theorem State.runBalanced.countPulse (h : s.runBalanced) : s.countPulse.runBalanced := by
  unfold State.countPulse
  extract_lets n whole _ s1
  have counted : s1.runBalanced := h
  exact ite_holds (counted.changeTally fun _ => rfl) counted

theorem State.runBalanced.phaseEdge (h : s.runBalanced) : s.phaseEdge.runBalanced := by
  unfold State.phaseEdge
  extract_lets now
  split
  · exact h
  · exact h
  · extract_lets s1
    have timed : s1.runBalanced := h
    exact ite_holds timed.speedHanded timed

theorem State.runBalanced.acceptEdge (h : s.runBalanced) : s.acceptEdge.runBalanced :=
  h.countPulse.phaseEdge.same (by simp [State.acceptEdge, State.endSilence]) (by simp [State.acceptEdge, State.endSilence])
    (by simp [State.acceptEdge, State.endSilence])

theorem State.runBalanced.declareSilence (h : s.runBalanced) : s.declareSilence.runBalanced := by
  unfold State.declareSilence
  extract_lets _ s1
  have declared : s1.runBalanced := h
  exact ite_holds declared.speedHanded.timeSilence declared

theorem State.runBalanced.creditTenth (h : s.runBalanced) : s.creditTenth.runBalanced := by
  unfold State.creditTenth
  extract_lets _ s1
  have timed : s1.runBalanced := h
  split
  · exact timed
  all_goals exact timed.changeTally Tally.addTenth_counts

end

end Sys2Proof.Machine
end

section
namespace Sys2Proof.Machine

/-! ### The states that go together -/

/-- Node state, configuration, clock state and supply state fit together (R163, R168, R169, R176, R178, Table 2-1), and outside
ACTIVE nothing runs (R114). -/
def State.statesFit (s : State) : Prop :=
  (s.lpt.config = none ↔ s.lpt.nodeState = .unconfigured)
    ∧ (s.clu.state = .solo ↔ s.lpt.nodeState ≠ .active)
    ∧ (s.lpt.nodeState ≠ .active → s.run.state = .standstill ∧ s.run.stop = none)
    ∧ (s.working = false → s.lpt.nodeState = .unconfigured)

/-- Every state that goes together, and the balance of the runs. -/
def State.inOrder (s : State) : Prop := s.statesFit ∧ s.runBalanced

theorem State.inOrder_iff (s : State) : s.inOrder ↔ s.coherent ∧ s.balanced := by
  unfold State.inOrder State.statesFit State.runBalanced State.coherent State.balanced Tally.ahead
  tauto

/-- The states that the conditions are about, but for the clock state. -/
def State.states (s : State) : NodeState × Option NodeConfig × SupplyState × Bool :=
  (s.lpt.nodeState, s.lpt.config, s.sup.state, s.sup.rstnHeld)

section
variable {s t : State}

theorem State.working_congr (same : t.states = s.states) : t.working = s.working := by
  simp only [State.states, Prod.mk.injEq] at same
  obtain ⟨_, _, supply, held⟩ := same
  rw [State.working, State.working, supply, held]

/-- The run state machine moves in ACTIVE alone. -/
theorem State.inOrder.run (h : s.inOrder) (states : t.states = s.states) (clock : t.clu.state = .solo ↔ s.clu.state = .solo)
    (run : s.active = true ∨ (t.run.state = s.run.state ∧ t.run.stop = s.run.stop)) (balanced : t.runBalanced) : t.inOrder := by
  obtain ⟨⟨config, solo, still, off⟩, _⟩ := h
  have works := State.working_congr states
  simp only [State.states, Prod.mk.injEq] at states
  obtain ⟨node, held, _⟩ := states
  refine ⟨⟨by rw [held, node]; exact config, by rw [clock, node]; exact solo, fun idle => ?_, ?_⟩, balanced⟩
  · rw [node] at idle
    obtain active | ⟨state, stop⟩ := run
    · have : s.lpt.nodeState = .active := by simp_all [State.active]
      exact absurd this idle
    · rw [state, stop]
      exact still idle
  · rw [works, node]
    exact off

/-- What touches neither states nor tally. -/
theorem State.inOrder.same (h : s.inOrder) (states : t.states = s.states) (clock : t.clu.state = .solo ↔ s.clu.state = .solo)
    (run : t.run.state = s.run.state ∧ t.run.stop = s.run.stop)
    (counts : t.tallies.tally.saturated = false → t.tallies.tally.counts = s.tallies.tally.counts) : t.inOrder :=
  h.run states clock (.inr run) (h.2.same run.1 run.2 counts)

/-- A state the main domain of which stands at its initial values. -/
theorem State.inOrder.reset (node : t.lpt = .initial) (clock : t.clu.state = .solo)
    (run : t.run.state = .standstill ∧ t.run.stop = none) (ahead : t.tallies.tally.ahead 0) : t.inOrder := by
  refine ⟨⟨by simp [node, Lpt.initial], by simp [node, Lpt.initial, clock], fun _ => run, fun _ => by simp [node, Lpt.initial]⟩, ?_⟩
  exact .of_closed ahead (by simp [run.1]) run.2

theorem State.inOrder.when (h : s.inOrder) {b : Bool} (ht : b = true → t.inOrder) : (s.when b t).inOrder := by
  unfold State.when
  split
  · next due => exact ht due
  · exact h

theorem State.inOrder.viaPort (h : s.inOrder) {f : State → State} (hf : s.portOpen = true → (f s).inOrder) : (s.viaPort f).inOrder := by
  unfold State.viaPort
  split
  · next opened => exact hf opened
  · exact h

theorem State.inOrder.whenFound (h : t.inOrder) {α : Type} {o : Option α} {f : α → State}
    (taken : ∀ x, o = some x → (f x).inOrder) : (whenFound o t f).inOrder := by
  cases o with
  | none => exact h
  | some x => exact taken x rfl

/-- While the main domain does not work no run is open. -/
theorem State.inOrder.ahead_of_idle (h : s.inOrder) (idle : s.lpt.nodeState ≠ .active) : s.tallies.tally.ahead 0 := by
  obtain ⟨⟨_, _, still, _⟩, _, ahead⟩ := h
  obtain ⟨state, stop⟩ := still idle
  rwa [State.openRun_none (by simp [state]) stop] at ahead

theorem State.inOrder.unconfigured (h : s.inOrder) (idle : s.working = false) : s.lpt.nodeState = .unconfigured :=
  h.1.2.2.2 idle

/-! ### Clock, line and checks -/

theorem State.inOrder.clock (h : s.inOrder) (states : t.states = s.states) (clock : t.clu.state = .solo ↔ s.clu.state = .solo)
    (run : t.run.state = s.run.state ∧ t.run.stop = s.run.stop) (tally : t.tallies.tally = s.tallies.tally) : t.inOrder :=
  h.same states clock run fun _ => by rw [tally]

theorem State.inOrder.respond (h : s.inOrder) {l : List Byte} : (s.respond l).inOrder := h

theorem State.inOrder.done (h : s.inOrder) {c : CommandCode} {l : List Byte} : (s.done c l).inOrder := h

theorem State.inOrder.refuse (h : s.inOrder) {c : CommandCode} {r : Reason} : (s.refuse c r).inOrder := h

theorem State.inOrder.empty (h : s.inOrder) {c : CommandCode} : (s.empty c).inOrder := h

@[simp] theorem State.reportFailure_supply (s : State) (a : StoreArea) (n : Nat) :
    (s.reportFailure a n).sup.state = s.sup.state ∧ (s.reportFailure a n).sup.rstnHeld = s.sup.rstnHeld := by
  unfold State.reportFailure
  cases s.sup.firstFailure <;> simp

theorem State.inOrder.takeFailure (h : s.inOrder) {a : StoreArea} {b : Bool} : (s.takeFailure a b).inOrder := by
  have suspect : s.suspectTally.inOrder := h.same rfl .rfl ⟨rfl, rfl⟩ fun _ => rfl
  exact ite_holds (suspect.clock (by simp [State.states]) (by simp) (by simp) (by simp)) suspect

theorem State.inOrder.takeFinding (h : s.inOrder) {f : Option (StoreArea × Bool)} : (s.takeFinding f).inOrder := by
  unfold State.takeFinding
  split
  · exact h
  · exact h.takeFailure

theorem State.inOrder.testStep (h : s.inOrder) {c : Cursor} : (s.testStep c).inOrder := by
  have tested : (s.testAt c).inOrder := by
    unfold State.testAt State.testTally State.testBaseline State.testUnitShift State.testEvent
    split
    · exact h.when fun _ => h.takeFailure
    · exact h.when fun _ => h.takeFailure
    all_goals
      split
      · exact h
      · refine ite_holds h (h.clock ?_ ?_ ?_ ?_)
        all_goals simp [State.states]
  exact tested

theorem State.inOrder.timeSet (h : s.inOrder) {d : Date} : (s.timeSet d).inOrder :=
  h.clock (by simp [State.states, State.timeSet]) (by simp [State.timeSet]) (by simp [State.timeSet]) (by simp [State.timeSet])

/-! ### The Local Port's commands -/

theorem State.inOrder.configure (h : s.inOrder) (opened : s.portOpen = true) {l : List Byte} : (State.configure l s).inOrder := by
  unfold State.configure
  refine ite_holds h.refuse ?_
  split
  · exact h.refuse
  · exact h.refuse
  · next fresh =>
    split
    · exact h.respond
    · obtain ⟨⟨config, solo, still, off⟩, balanced⟩ := h
      have solo : s.clu.state = .solo := solo.mpr (by simp [fresh])
      have still := still (by simp [fresh])
      have works : s.working = true := by simp_all [State.portOpen]
      have taken : (s.takeConfig (configOf (valuesOf l))).inOrder :=
        ⟨⟨by simp [State.takeConfig], by simpa [State.takeConfig] using solo, fun _ => still,
          fun idle => absurd (works.symm.trans idle) (by simp)⟩, balanced⟩
      exact taken.done

/-- The steps of OPEN touch neither tally nor run state nor supplies. -/
theorem State.openTo_run (s : State) (n : Nat) :
    (s.openTo n).tallies.tally = s.tallies.tally ∧ (s.openTo n).run.state = s.run.state ∧ (s.openTo n).run.stop = s.run.stop
      ∧ (s.openTo n).sup = s.sup := by
  refine State.openTo_keeps (fun t => t.tallies.tally = s.tallies.tally ∧ t.run.state = s.run.state ∧ t.run.stop = s.run.stop
    ∧ t.sup = s.sup) (fun step listed t same => ?_) s ⟨rfl, rfl, rfl, rfl⟩ n
  have kept : (step t).tallies.tally = t.tallies.tally ∧ (step t).run.state = t.run.state ∧ (step t).run.stop = t.run.stop
      ∧ (step t).sup = t.sup := by
    simp only [openStepList, List.mem_cons, List.not_mem_nil, or_false] at listed
    obtain rfl | rfl | rfl | rfl | rfl | rfl | rfl | rfl := listed
    case inr.inr.inr.inr.inr.inl =>
      unfold State.startRun
      dsimp only
      split <;> simp
    all_goals
      simp [State.openNodeState, State.openClock, State.recordOpened, State.startSweep, State.startChecks]
  obtain ⟨tally, state, stop, supply⟩ := kept
  rwa [tally, state, stop, supply]

theorem State.runBalanced.openTo (h : s.runBalanced) {n : Nat} : (s.openTo n).runBalanced := by
  obtain ⟨tally, state, stop, _⟩ := s.openTo_run n
  exact h.same state stop fun _ => by rw [tally]

/-- After all its steps the node is ACTIVE and its clock state no longer SOLO. -/
theorem State.openSteps_states (s : State) :
    s.openSteps.states = (.active, s.lpt.config, s.sup.state, s.sup.rstnHeld) ∧ s.openSteps.clu.state ≠ .solo := by
  simp [State.openSteps, State.openTo, openStepList, State.states, State.startChecks, State.startRun, State.startSweep,
    State.recordOpened, State.openClock, State.openNodeState]

theorem State.inOrder.openCommand (h : s.inOrder) : s.openCommand.inOrder := by
  unfold State.openCommand
  split
  · exact h.refuse
  · exact h.refuse
  · next configured =>
    obtain ⟨states, clock⟩ := s.openSteps_states
    simp only [State.states, Prod.mk.injEq] at states
    obtain ⟨node, held, supply, pin⟩ := states
    obtain ⟨⟨config, _, _, off⟩, balanced⟩ := h
    have works : s.working = true := by
      by_contra idle
      exact absurd (configured.symm.trans (off (by simpa using idle))) (by simp)
    refine State.inOrder.done ⟨⟨?_, by simp [clock, node], fun idle => absurd node idle, fun idle => ?_⟩, balanced.openTo⟩
    · rw [held, node, config, configured]
      simp
    · rw [State.working, supply, pin, ← State.working, works] at idle
      cases idle

/-- What nothing saturates is balanced when the counts of R129 hold. -/
theorem State.inOrder.presetCommand (h : s.inOrder) {f : TallyFields} : (State.presetCommand f s).inOrder := by
  unfold State.presetCommand
  split
  · exact h.refuse
  · next idle =>
    split
    · exact h.refuse
    · next counts =>
      obtain ⟨⟨config, solo, still, off⟩, _⟩ := h
      obtain ⟨state, stop⟩ := still idle
      have loaded : (s.preset f).inOrder := by
        refine ⟨⟨config, solo, still, off⟩, .of_closed (fun _ => ?_) (by simp [State.preset, state]) stop⟩
        simpa [State.preset, Tally.sealed] using (not_not.mp counts).symm
      exact loaded.done

theorem State.inOrder.acceptCommand (h : s.inOrder) {b : Bool} : (State.acceptCommand b s).inOrder := by
  have accepted : s.acceptTallies.inOrder := h.same rfl .rfl ⟨rfl, rfl⟩ fun _ => rfl
  exact accepted.takeFinding.done

theorem State.inOrder.ackCommand (h : s.inOrder) {m : BitVec 16} : (State.ackCommand m s).inOrder := by
  have acknowledged : (s.acknowledge m).inOrder := by
    refine h.clock ?_ .rfl ⟨rfl, rfl⟩ rfl
    unfold State.acknowledge State.states
    dsimp only
    split <;> rfl
  exact acknowledged.done

theorem State.inOrder.setTimeCommand (h : s.inOrder) {d : Day} {n : Nat} : (State.setTimeCommand d n s).inOrder :=
  ite_holds (ite_holds h.refuse h.timeSet.done) h.refuse

theorem State.inOrder.runCommand (h : s.inOrder) (opened : s.portOpen = true) {c : CommandCode} {l : List Byte} :
    (s.runCommand c l).inOrder := by
  have reads : ∀ t : State, t.states = s.states → t.clu = s.clu → t.run = s.run → t.tallies = s.tallies → t.inOrder :=
    fun t states clock run tallies => h.clock states (by rw [clock]) (by simp [run]) (by rw [tallies])
  cases c
  · exact h.configure opened
  · exact h.openCommand
  · exact h.setTimeCommand
  · exact h.presetCommand
  · exact h.acceptCommand
  · exact h
  · unfold State.runCommand State.readEventCommand
    cases s.evq.records <;> exact h
  · unfold State.runCommand State.readCascadeCommand
    cases s.csu.list <;> exact h
  · unfold State.runCommand State.readRoundCommand
    cases s.clu.lastClosed <;> exact h
  · exact h
  · unfold State.runCommand State.readShiftCommand
    refine ite_holds h ?_
    cases s.tallies.unitShifts[fieldAt l 0 1]? <;> exact h
  · unfold State.runCommand State.readStationCommand
    cases s.shu.records.find? StationRecord.isComplete <;> exact h
  · exact h.ackCommand

theorem State.inOrder.readOut (h : s.inOrder) {n : Nat} {b : Bool} : (s.readOut n b).inOrder := by
  unfold State.readOut
  refine ite_holds h ?_
  cases s.lpt.response <;> exact h

theorem State.inOrder.transact (h : s.inOrder) {l : List Byte} {a b : Bool} : (s.transact l a b).inOrder := by
  unfold State.transact
  split
  · exact h
  · next code rest =>
    refine ite_holds h.readOut ?_
    dsimp only
    split
    · exact h
    · next free =>
      have opened : s.portOpen = true := by
        have : (s.shiftOut (clockedOut [] rest.length)).portOpen = s.portOpen := rfl
        simp_all
      have shifted : (s.shiftOut (clockedOut [] rest.length)).inOrder := h
      unfold State.examine
      refine ite_holds ?_ shifted
      split
      · exact shifted
      · exact ite_holds (shifted.runCommand opened) shifted

/-! ### Supplies and resets -/

/-- A supply that changes while the main domain does not work. -/
theorem State.inOrder.supply (h : s.inOrder) {p : Sup} (idle : s.working = false) : State.inOrder { s with sup := p } := by
  have fresh := h.unconfigured idle
  obtain ⟨⟨config, solo, still, _⟩, balanced⟩ := h
  exact ⟨⟨config, solo, still, fun _ => fresh⟩, balanced⟩

theorem State.inOrder.assertReset (h : s.runBalanced) : s.assertReset.inOrder := by
  have released : s.releaseWires.runBalanced := h
  exact .reset rfl rfl ⟨rfl, rfl⟩ released.closeOut

theorem State.inOrder.toOff (s : State) : s.toOff.inOrder := .reset rfl rfl ⟨rfl, rfl⟩ fun _ => rfl

theorem State.inOrder.lostInRun (h : s.runBalanced) : s.lossTreatment.toKeepAlive.inOrder := by
  have released : (s.releaseWires.requestNow .powerLoss s.lpt.nodeState.code 0).runBalanced := h
  exact .reset rfl rfl ⟨rfl, rfl⟩ released.closeOut

theorem State.working_of_portOpen (opened : s.portOpen = true) : s.working = true := by
  simp_all [State.portOpen]

/-- Main supply lost, whatever steps of OPEN had been reached. -/
theorem State.inOrder.mainLost (h : s.inOrder) {n : Option Nat} : (s.midOpen n).vddLost.inOrder := by
  have lost : s.vddLost.inOrder := by
    unfold State.vddLost
    split
    · exact ite_holds (.lostInRun h.2) (.toOff s)
    · next restoring => exact ite_holds (h.supply (by simp [State.working, restoring])) (.toOff s)
    all_goals exact h
  unfold State.midOpen
  split
  · exact lost
  · next n =>
    split
    · next opening =>
      have opened : s.portOpen = true := by simp_all
      have running : (s.openTo n).sup.state = .run := by
        have works := State.working_of_portOpen opened
        obtain ⟨_, _, _, supply⟩ := s.openTo_run n
        rw [supply]
        simp_all [State.working]
      unfold State.vddLost
      rw [running]
      exact ite_holds (.lostInRun h.2.openTo) (.toOff _)
    · exact lost

theorem State.inOrder.resetAsserted (h : s.inOrder) {n : Option Nat} : (s.midOpen n).assertReset.inOrder := by
  refine .assertReset ?_
  unfold State.midOpen
  split
  · exact h.2
  · exact ite_holds h.2.openTo h.2

theorem State.inOrder.vbkLost (h : s.inOrder) : s.vbkLost.inOrder := by
  unfold State.vbkLost
  split
  · exact .toOff s
  all_goals exact h

theorem State.inOrder.releaseReset (h : s.inOrder) (idle : s.working = false) {n : NodeNo} {x : BitVec 2} :
    (s.releaseReset n x).inOrder :=
  .reset rfl rfl ⟨rfl, rfl⟩ (h.ahead_of_idle (by simp [h.unconfigured idle]))

theorem State.inOrder.endRestore (h : s.inOrder) (idle : s.working = false) {n : NodeNo} {x : BitVec 2} :
    (s.endRestore n x).inOrder := by
  have run : (s.toRun n x).inOrder := .reset rfl rfl ⟨rfl, rfl⟩ (h.ahead_of_idle (by simp [h.unconfigured idle]))
  unfold State.endRestore
  refine ite_holds (ite_holds (.assertReset run.2) run) ?_
  have credited : (s.toRun n x).creditOutage.inOrder := by
    unfold State.creditOutage
    exact ite_holds (run.same rfl .rfl ⟨rfl, rfl⟩ fun live => Tally.addOutage_counts live) run
  exact credited

theorem State.inOrder.leaveOff (s : State) {x : SupplyReturned} : (s.leaveOff x).inOrder := by
  cases x
  all_goals exact .reset rfl rfl ⟨rfl, rfl⟩ fun _ => rfl

theorem State.inOrder.endPass (h : s.inOrder) : s.endPass.inOrder :=
  ite_holds (.assertReset (s := { s with chk := { s.chk with pass := none, restorePass := false, passes := satInc s.chk.passes } })
    h.2) h

end

/-! ### Every step -/

section
variable {s : State}

theorem State.active_of_firstDue {n : InputNo} {c : Bool × Stamp} (due : s.firstDue n = some c) : s.active = true := by
  unfold State.firstDue at due
  split at due
  · exact (Option.ite_none_right_eq_some.mp due).1
  · cases due
  · cases due

theorem State.active_of_changeDue {n : InputNo} {c : Bool × Start} (due : s.changeDue n = some c) : s.active = true := by
  unfold State.changeDue at due
  split at due
  · exact (Option.ite_none_right_eq_some.mp due).1
  all_goals cases due

theorem State.active_of_windowDue {n : InputNo} (due : s.windowDue n = true) : s.active = true := by
  unfold State.windowDue at due
  split at due
  all_goals simp_all

theorem State.active_of_cascadeDue {c : Cascade} (due : s.cascadeDue = some c) : s.active = true := by
  unfold State.cascadeDue at due
  split at due
  · cases due
  · obtain ⟨guard, _⟩ := Option.ite_none_right_eq_some.mp due
    simp_all

theorem State.of_deadlineDue {x : Stop} (due : s.deadlineDue = some x) : s.active = true ∧ s.run.stop = some x := by
  unfold State.deadlineDue at due
  split at due
  · cases due
  · split at due
    · obtain ⟨guard, same⟩ := Option.ite_none_right_eq_some.mp due
      simp_all
    · cases due

end

theorem State.inOrder.effectOf {s : State} (h : s.inOrder) (c : Instr) : (effectOf c s).inOrder := by
  cases c with
  | configure => exact h.viaPort fun opened => h.configure opened
  | openNode => exact h.viaPort fun _ => h.openCommand
  | setTime => exact h.viaPort fun _ => h.setTimeCommand
  | presetTally => exact h.viaPort fun _ => h.presetCommand
  | acceptTally => exact h.viaPort fun _ => h.acceptCommand
  | readStatus => exact h.viaPort fun opened => h.runCommand (c := .readStatus) (l := []) opened
  | readEvent => exact h.viaPort fun opened => h.runCommand (c := .readEvent) (l := []) opened
  | readCascade => exact h.viaPort fun opened => h.runCommand (c := .readCascade) (l := []) opened
  | readRound => exact h.viaPort fun opened => h.runCommand (c := .readRound) (l := []) opened
  | readTally => exact h.viaPort fun opened => h.runCommand (c := .readTally) (l := []) opened
  | readShift =>
    refine h.viaPort fun _ => ?_
    unfold State.readShiftCommand
    (repeat' split) <;> exact h
  | readStationShift => exact h.viaPort fun opened => h.runCommand (c := .readStationShift) (l := []) opened
  | ackAttention => exact h.viaPort fun _ => h.ackCommand
  | commandTransaction => exact h.when fun _ => h.transact
  | readTransaction => exact h.when fun _ => h.readOut
  | startCondition => exact h.when fun _ => h
  | lineIdle => exact h.when fun _ => h
  | frameAbandoned =>
    refine ite_holds (h.when fun _ => h.clock ?_ ?_ ?_ ?_) (h.when fun _ => h.clock ?_ ?_ ?_ ?_)
    all_goals simp [State.states]
  | sendBegin => exact h.when fun _ => h.clock (by simp [State.states]) (by simp) (by simp) (by simp)
  | contentionJoin =>
    have begun : ∀ start, (s.beginSend start true).inOrder :=
      fun _ => h.clock (by simp [State.states]) (by simp) (by simp) (by simp)
    have taken : s.takeClock.inOrder := h.clock (by simp [State.states]) (by simp) (by simp) (by simp)
    exact taken.whenFound fun _ _ => begun _
  | arbitrationLoss => exact h.when fun _ => h.clock (by simp [State.states]) (by simp) (by simp) (by simp)
  | driverFault => exact h.when fun _ => h.clock (by simp [State.states]) (by simp) (by simp) (by simp)
  | attemptEnd => exact h.whenFound fun _ _ => h.clock (by simp [State.states]) (by simp) (by simp) (by simp)
  | frameReceivedIntact => exact h.when fun _ => h.clock (by simp [State.states]) (by simp) (by simp) (by simp)
  | checkError => exact h.when fun _ => h.clock (by simp [State.states]) (by simp) (by simp) (by simp)
  | formError =>
    refine ite_holds (h.when fun _ => h.clock ?_ ?_ ?_ ?_) (h.when fun _ => h.clock ?_ ?_ ?_ ?_)
    all_goals simp [State.states]
  | lineStuck => exact h.when fun _ => h.clock (by simp [State.states]) (by simp) (by simp) (by simp)
  | lineStuckLeft => exact h.when fun _ => h
  | oscillatorSecond => exact h.when fun _ => h
  | roundBoundary => exact h.whenFound fun _ _ => h.clock (by simp [State.states]) (by simp) (by simp) (by simp)
  | roundClose => exact h.whenFound fun _ _ => h.clock (by simp [State.states]) (by simp) (by simp) (by simp)
  | refsecEdge => exact h.when fun _ => h.clock (by simp [State.states]) (by simp) (by simp) (by simp)
  | refsecSilence => exact h.when fun _ => h.clock (by simp [State.states]) (by simp) (by simp) (by simp)
  | firstSample => exact h.whenFound fun _ due => h.when fun _ => h.run (by simp [State.states]) (by simp) (.inl (State.active_of_firstDue due)) h.2.firstSampled
  | qualifiedChange => exact h.whenFound fun _ due => h.run (by simp [State.states]) (by simp) (.inl (State.active_of_changeDue due)) h.2.qualified
  | chatterWindowExpiry => exact h.when fun due => h.run (by simp [State.states]) (by simp) (.inl (State.active_of_windowDue due)) h.2.windowCloses
  | cascadeClose => exact h.whenFound fun _ due => h.run (by simp [State.states]) (by simp) (.inl (State.active_of_cascadeDue due)) h.2.closeCascade
  | stopDeadline =>
    refine h.whenFound fun x due => ?_
    obtain ⟨active, stop⟩ := State.of_deadlineDue due
    exact h.run (by simp [State.states]) (by simp) (.inl active) (h.2.decideStop stop)
  | spdEdge => exact h.when fun due => h.run (by simp [State.states]) (by simp) (.inl (by simp_all [State.edgeAccepted])) h.2.acceptEdge
  | speedSilence => exact h.when fun due => h.run (by simp [State.states]) (by simp) (.inl (by simp_all [State.speedSilenceDue])) h.2.declareSilence
  | speedSilent => exact h.when fun _ => h
  | oscillatorTenth => exact h.when fun due => h.run (by simp [State.states]) (by simp) (.inl (by simp_all [State.tenthDue, State.unitActive])) h.2.creditTenth
  | shiftBoundaryReached => exact h.whenFound fun _ _ => h.clock (by simp [State.states]) (by simp) (by simp) (by simp)
  | earlyMark => exact h.when fun _ => h.clock (by simp [State.states]) (by simp) (by simp) (by simp)
  | graceExpiry => exact h.when fun _ => h.clock (by simp [State.states]) (by simp) (by simp) (by simp)
  | pairingTimeout => exact h.when fun _ => h.clock (by simp [State.states]) (by simp) (by simp) (by simp)
  | gatherExpiry => exact h.whenFound fun _ _ => h.when fun _ => h.clock (by simp [State.states]) (by simp) (by simp) (by simp)
  | mainSupplyLoss => exact h.mainLost
  | backupSupplyLoss => exact h.vbkLost
  | mainSupplyReturn => exact h.when fun idle => h.supply (by simp_all [State.working])
  | restoreWaitEnd => exact h.when fun due => h.endRestore (by simp_all [State.restoreDue, State.working])
  | coldStart => exact h.when fun _ => .leaveOff s
  | rstnAssert arrival =>
    have asserted : (s.when (s.working && !s.pins.rstnLow && !s.atWaitEnd) (s.midOpen arrival.midOpen).assertReset).inOrder :=
      h.when fun _ => h.resetAsserted
    exact asserted
  | rstnRelease _ id sp =>
    have released : (s.when (decide (s.sup.state = .run) && s.sup.rstnHeld) (s.releaseReset id sp)).inOrder :=
      h.when fun held => h.releaseReset (by simp_all [State.working])
    exact released
  | storeCheckPassStart => exact h.when fun _ => h
  | storeCheckTest => exact h.whenFound fun _ _ => h.testStep
  | storeCheckPassEnd => exact h.when fun _ => h.endPass
  | lampBlinkPhase =>
    refine h.when fun _ => ?_
    unfold State.blink
    split <;> exact h
  | lampFlashEnd => exact h.when fun _ => h
  | sampleSlot => exact h.when fun _ => h.clock (by simp [State.states]) (by simp) (by simp) (by simp)
  | notAStart => exact h.when fun _ => h
  | backupSupplyReturn => exact h.when fun _ => h

/-- Settles O9: the run state machine keeps the balance, and each operation the states that go together. -/
theorem syncsBalance : Obligations.SyncsBalance := by
  have kept : Kept State.inOrder :=
    Kept.of_parts (fun _ _ _ h => h)
      (fun s n h => h.clock (by simp [State.states]) (by simp) (by simp) (by simp))
      (fun c s h => h.effectOf c) fun s h => h.clock (by simp [State.states]) (by simp) (by simp) (by simp)
  intro s t holds next
  rw [← State.inOrder_iff] at holds ⊢
  exact kept s t holds next

end Sys2Proof.Machine
end

section
/-! The state right after a cold start (log 4), and what holds of it. -/

namespace Sys2Proof.Machine

theorem State.input_reset (n : InputNo) : State.reset.input n = ⟨none, 0, none, .quiet, .none⟩ := by
  simp [State.input, State.reset, Isc.initial]
  rfl

/-- Settles O5: the tables' values are those the initial blocks are written with; the checks are those of their contents. -/
theorem resetLeaves : Obligations.ResetLeaves := by
  obtain ⟨tally, baseline⟩ := initial_tally_checks
  exact ⟨rfl, ⟨rfl, rfl, rfl, rfl, rfl⟩, ⟨rfl, rfl, rfl, rfl, rfl, rfl, rfl, rfl, rfl, rfl, rfl, rfl⟩, State.input_reset,
    ⟨rfl, rfl⟩, ⟨rfl, rfl, rfl, rfl, rfl⟩, ⟨rfl, rfl, rfl, rfl, rfl, rfl, rfl⟩, ⟨rfl, rfl, rfl, rfl, rfl, rfl⟩,
    ⟨rfl, rfl, rfl, rfl, tally, baseline, rfl, rfl⟩, ⟨rfl, rfl, rfl, rfl, rfl, rfl, rfl, rfl, rfl, rfl, rfl⟩,
    ⟨rfl, rfl, rfl, rfl, rfl, rfl, rfl, rfl⟩, ⟨rfl, rfl, rfl⟩, ⟨rfl, rfl, rfl⟩⟩

/-- No flag stands and no lamp is lit, as UNCONFIGURED in SOLO with an empty queue has it. -/
theorem State.reset_attends : State.reset.attends := by
  have marks : State.reset.levelMarks = 0 := rfl
  refine ⟨⟨rfl, rfl⟩, fun _ => by rw [marks]; rfl, ⟨rfl, rfl, rfl, rfl⟩, fun lamp => ?_⟩
  cases lamp <;> rfl

theorem State.reset_bounded : State.reset.bounded :=
  ⟨Nat.zero_le _, Nat.zero_le _, Nat.zero_le _, nofun, nofun, Nat.zero_le _, Nat.zero_le _, nofun, nofun⟩

theorem State.reset_inOrder : State.reset.inOrder := .reset rfl rfl ⟨rfl, rfl⟩ fun _ => rfl

/-- Settles O6: with every list empty and every count 0 each condition holds. -/
theorem invariantsHoldAtReset : Obligations.InvariantsHoldAtReset := by
  obtain ⟨coherent, balanced⟩ := (State.inOrder_iff _).mp State.reset_inOrder
  exact ⟨State.reset_attends, ⟨Nat.zero_le _, nofun⟩, trivial, coherent, balanced, State.reset_bounded⟩

end Sys2Proof.Machine
end

section
/-! The Event Queue (R74 to R79). -/

namespace Sys2Proof.Machine

/-- A record request changes the queue and the flags alone. -/
theorem State.request_eq (s : State) (kind : RecordKind) (stamp : Stamp) (a : Nat) (b : BitVec 32) :
    s.request kind stamp a b = { s with
      evq := ⟨s.evq.place (s.evq.recordFor kind stamp (BitVec.ofNat 8 a) b), s.evq.nextSeq + 1⟩
      atl := { s.atl with flags := s.atl.flags ||| Source.eventOverflow.markIf s.evq.overflows } } := rfl

/-- Settles O11, by the three cases of placing a record. -/
theorem recordRequestIsPlaced : Obligations.RecordRequestIsPlaced := by
  intro s kind stamp a b r t
  have fields := Evq.recordFor_fields s.evq kind stamp (BitVec.ofNat 8 a) b
  obtain ⟨seq, kind_eq, stamp_eq, detailA, detailB, corrupt⟩ := fields
  have records : t.evq.records = s.evq.place r := rfl
  have flags : t.atl.flags = s.atl.flags ||| Source.eventOverflow.markIf s.evq.overflows := rfl
  refine ⟨seq, kind_eq, stamp_eq, detailA, detailB, corrupt, Evq.recordFor_check .., rfl, rfl, fun below => ?_,
    fun full ordinary => ?_, fun o full tail => ?_⟩
  · obtain ⟨place, overflows⟩ := Evq.place_below (r := r) below
    simp [records, flags, place, overflows, Source.markIf]
  · obtain ⟨place, overflows⟩ := Evq.place_first (r := r) full ordinary
    obtain ⟨oseq, okind, ostamp, lost, offset, ocorrupt, check⟩ := overflowFor_fields r
    refine ⟨overflowFor r, by rw [records, place], okind, oseq, ostamp.trans stamp_eq, lost, offset, ocorrupt, check, ?_⟩
    simp [flags, overflows, Source.markIf]
  · obtain ⟨place, overflows⟩ := Evq.place_further (r := r) full tail
    obtain ⟨_, okind⟩ := Evq.openOverflow_some tail
    obtain ⟨useq, ukind, ustamp, lost, offset, ucorrupt, check⟩ := overflowAnd_fields o r
    refine ⟨overflowAnd o r, by rw [records, place], ukind.trans okind, useq, ustamp, lost, ?_, ucorrupt, check, ?_⟩
    · rw [offset, stamp_eq]
    · simp [flags, overflows, Source.markIf]

end Sys2Proof.Machine
end

section
/-! The Local Port: the commands, one equation for each answer (R173 to R181, R187). -/

namespace Sys2Proof.Machine

theorem State.viaPort_open {s : State} (opened : s.portOpen = true) (f : State → State) : s.viaPort f = f s := if_pos opened

theorem State.viaPort_busy {s : State} (busy : s.portOpen = false) (f : State → State) : s.viaPort f = s := by
  simp [State.viaPort, busy]

section
variable {s : State}

/-! ### PRESET TALLY -/

theorem State.presetCommand_active (active : s.lpt.nodeState = .active) (f : TallyFields) :
    State.presetCommand f s = s.refuse .presetTally .state := if_pos active

theorem State.presetCommand_counts {f : TallyFields} (idle : s.lpt.nodeState ≠ .active)
    (differ : f.trips.toNat + f.normalStops.toNat ≠ f.syncs.toNat) :
    State.presetCommand f s = s.refuse .presetTally .counts := by
  rw [State.presetCommand, if_neg idle, if_pos differ]

theorem State.presetCommand_taken {f : TallyFields} (idle : s.lpt.nodeState ≠ .active)
    (balance : f.trips.toNat + f.normalStops.toNat = f.syncs.toNat) :
    State.presetCommand f s = (s.preset f).done .presetTally [] := by
  rw [State.presetCommand, if_neg idle, if_neg (not_not.mpr balance)]

/-- Sealing a tally sets its check alone, which does not cover itself. -/
@[simp] theorem Tally.sealed_fields (t : Tally) :
    t.sealed.fields = t.fields ∧ t.sealed.blank = t.blank ∧ t.sealed.suspect = t.suspect ∧ t.sealed.saturated = t.saturated :=
  ⟨rfl, rfl, rfl, rfl⟩

theorem Tally.sealed_check (t : Tally) : t.sealed.check = tallyCheck t.sealed := rfl

theorem someAtTop_iff (f : TallyFields) :
    someAtTop f = true ↔ f.online = BitVec.allOnes 40 ∨ f.spinning = BitVec.allOnes 40 ∨ f.starts = BitVec.allOnes 24
      ∨ f.syncs = BitVec.allOnes 24 ∨ f.trips = BitVec.allOnes 24 ∨ f.normalStops = BitVec.allOnes 24
      ∨ f.outage = BitVec.allOnes 32 := by
  simp only [someAtTop, atTop, Bool.or_eq_true, decide_eq_true_eq, or_assoc]

end

/-- Settles O15, by the three answers. -/
theorem presetTallyAnswers : Obligations.PresetTallyAnswers := by
  intro w f s a answers opened
  have run : exec (.presetTally w f) s = .next (a.viaPort (State.presetCommand f)).finish := rfl
  rw [State.viaPort_open opened] at run
  refine ⟨fun idle balance => ?_, fun active => ?_, fun idle differ => ?_⟩
  · refine ⟨Tally.sealed ⟨f, false, false, someAtTop f, 0⟩, rfl, rfl, rfl, someAtTop_iff f, Tally.sealed_check _, ?_⟩
    rw [run, State.presetCommand_taken idle balance]
    rfl
  · unfold answers
    rw [run, State.presetCommand_active active]
    rfl
  · unfold answers
    rw [run, State.presetCommand_counts idle differ]
    rfl

section
variable {s : State}

/-! ### ACCEPT TALLY -/

theorem State.acceptTallies_tests (s : State) : s.acceptTallies.tallyFails = false ∧ s.acceptTallies.baselineFails = false := by
  constructor
  · simp only [State.tallyFails, State.acceptTallies, ← Tally.sealed_check]
    simp
  · simp [State.baselineFails, State.acceptTallies, Baseline.of]

/-- The test of the tally and of the baseline change nothing where neither check fails. -/
theorem State.tests_pass {t : State} (tally : t.tallyFails = false) (baseline : t.baselineFails = false) :
    t.testTally = t ∧ t.testBaseline = t := by
  simp [State.testTally, State.testBaseline, State.when, tally, baseline]

theorem State.reportFailure_eq (s : State) (area : StoreArea) (n : Nat) :
    s.reportFailure area n = { s with
      sup := if s.sup.firstFailure = none
        then { s.sup with firstFailure := some (area, n) } else { s.sup with failureOverflow := true }
      atl := { s.atl with flags := s.atl.flags ||| Source.storeCheck.mark } } := by
  unfold State.reportFailure State.setFlag
  cases s.sup.firstFailure <;> rfl

/-- A finding that is reported, and the pass moved on. -/
theorem State.takeFinding_reported (s : State) (area : StoreArea) :
    s.takeFinding (some (area, true)) = { s.suspectTally.reportFailure area 0 with
      chk := { s.chk with pass := s.chk.pass.map Cursor.next } } := by
  simp [State.takeFinding, State.takeFailure, State.suspectTally]

/-- A finding that is not. -/
theorem State.takeFinding_unreported (s : State) (area : StoreArea) :
    s.takeFinding (some (area, false)) = { s.suspectTally with chk := { s.chk with pass := s.chk.pass.map Cursor.next } } := rfl

theorem State.testDue_of_working (working : s.working = true) : s.testDue = s.chk.pass.bind s.testPlace := by
  simp [State.testDue, working]

theorem State.findingNow_tally (working : s.working = true) (pass : s.chk.pass = some .tally) (fails : s.tallyFails = true) :
    s.findingNow = some (.tally, true) := by
  simp [State.findingNow, State.testDue_of_working working, pass, State.testPlace, fails]

theorem State.findingNow_baseline (working : s.working = true) (pass : s.chk.pass = some .baseline)
    (fails : s.baselineFails = true) : s.findingNow = some (.baseline, !s.tallies.tally.suspect) := by
  simp [State.findingNow, State.testDue_of_working working, pass, State.testPlace, fails]

/-- Away from the tally and the baseline, and where the check holds, nothing is found. -/
theorem State.findingNow_none (tally : s.chk.pass = some .tally → s.tallyFails = false)
    (baseline : s.chk.pass = some .baseline → s.baselineFails = false) : s.findingNow = none := by
  have at_place : ∀ c, s.testDue = some c → c = .tally ∨ c = .baseline → s.chk.pass = some c := by
    intro c due area
    unfold State.testDue at due
    obtain ⟨_, due⟩ := Option.ite_none_right_eq_some.mp due
    obtain ⟨p, pass, place⟩ := Option.bind_eq_some_iff.mp due
    unfold State.testPlace at place
    dsimp only at place
    obtain rfl | rfl := area
    all_goals (repeat' split at place) <;> simp_all
  unfold State.findingNow
  split
  · next due => simp [tally (at_place _ due (.inl rfl))]
  · next due => simp [baseline (at_place _ due (.inr rfl))]
  · rfl
  · rfl
  · rfl

end

/-- Settles O16: without a finding the checks are those of the contents; a finding is taken on top of that. -/
theorem acceptTallyAccepts : Obligations.AcceptTallyAccepts := by
  intro w finding s a tallyFails baselineFails accepted kept reported opened
  have run : exec (.acceptTally ⟨w, finding⟩) s = .next (a.viaPort (State.acceptCommand finding)).finish := rfl
  rw [State.viaPort_open opened] at run
  have working : a.working = true := by simp_all [State.portOpen]
  have tally_fails : a.tallyFails = true ↔ tallyCheck a.tallies.tally ≠ a.tallies.tally.check := by simp [State.tallyFails]
  have baseline_fails : a.baselineFails = true ↔ baselineCheck a.tallies.baseline.fields ≠ a.tallies.baseline.check := by
    simp [State.baselineFails]
  refine ⟨fun quiet => ?_, fun found fails => ?_, fun found fails => ?_⟩
  · have none_found : (if finding then a.findingNow else none) = none := by
      obtain off | ⟨no_tally, no_baseline⟩ := quiet
      · simp [off]
      · rw [State.findingNow_none]
        · simp
        · exact fun pass => by
            by_contra fails
            exact no_tally ⟨pass, tally_fails.mp (by simpa using fails)⟩
        · exact fun pass => by
            by_contra fails
            exact no_baseline ⟨pass, baseline_fails.mp (by simpa using fails)⟩
    refine ⟨Tally.sealed { a.tallies.tally with suspect := false }, ⟨rfl, rfl, rfl, Tally.sealed_check _⟩, rfl, ?_⟩
    rw [run]
    unfold State.acceptCommand
    rw [none_found]
    obtain ⟨tally, baseline⟩ := a.acceptTallies_tests
    refine ⟨_, rfl, rfl, State.tests_pass ?_ ?_⟩
    · simpa [State.tallyFails, State.takeFinding, State.done, State.respond] using tally
    · simpa [State.baselineFails, State.takeFinding, State.done, State.respond] using baseline
  · obtain ⟨pass, differ⟩ := fails
    refine ⟨Tally.sealed { a.tallies.tally with suspect := true }, ⟨rfl, rfl, rfl, Tally.sealed_check _⟩, rfl, ?_⟩
    rw [run]
    unfold State.acceptCommand
    rw [found, if_pos rfl, State.findingNow_tally working pass (tally_fails.mpr differ)]
    have next : a.acceptTallies.chk.pass.map Cursor.next = some .baseline := by
      simp [State.acceptTallies, pass, Cursor.next]
    rw [State.takeFinding_reported, State.reportFailure_eq, next]
    rfl
  · obtain ⟨pass, differ⟩ := fails
    have next : a.acceptTallies.chk.pass.map Cursor.next = some (.unitShift 0) := by
      simp [State.acceptTallies, pass, Cursor.next]
    refine ⟨Tally.sealed { a.tallies.tally with suspect := true }, ⟨rfl, rfl, rfl, Tally.sealed_check _⟩, rfl,
      fun clear => ?_, fun suspect => ?_⟩
    · rw [run]
      unfold State.acceptCommand
      rw [found, if_pos rfl, State.findingNow_baseline working pass (baseline_fails.mpr differ), clear]
      rw [Bool.not_false, State.takeFinding_reported, State.reportFailure_eq, next]
      rfl
    · rw [run]
      unfold State.acceptCommand
      rw [found, if_pos rfl, State.findingNow_baseline working pass (baseline_fails.mpr differ), suspect]
      rw [Bool.not_true, State.takeFinding_unreported, next]
      rfl

section
variable {s : State}

/-! ### ACK ATTENTION -/

/-- Settles O19: the flags bit by bit. -/
theorem ackAttentionClears : Obligations.AckAttentionClears := by
  intro w mask s a opened
  refine ⟨a.ackedFlags mask, fun n => ?_, ?_⟩
  · simp only [State.ackedFlags, BitVec.getLsbD_or, BitVec.getLsbD_and, BitVec.getLsbD_not, n.isLt]
    cases mask.getLsbD n.val <;> simp
  · have run : exec (.ackAttention w mask) s = .next (a.viaPort (State.ackCommand mask)).finish := rfl
    rw [run, State.viaPort_open opened]
    rfl

end

end Sys2Proof.Machine
end

section
/-! The Local Port: transactions, the busy port, and the commands that return and remove (R80, R99, R160, R173 to R175). -/

namespace Sys2Proof.Machine

/-! ### Fields of argument bytes -/

theorem beNat_lt (l : List Byte) : beNat l < 256 ^ l.length := by
  induction l with
  | nil => simp [beNat]
  | cons b bs ih =>
    have byte : b.toNat < 256 := b.isLt
    rw [beNat_cons, List.length_cons, Nat.pow_succ]
    have : b.toNat * 256 ^ bs.length + 256 ^ bs.length ≤ 256 * 256 ^ bs.length := by
      rw [← Nat.succ_mul]
      exact Nat.mul_le_mul_right _ byte
    omega

theorem fieldAt_lt (l : List Byte) (p n : Nat) : fieldAt l p n < 256 ^ n :=
  (beNat_lt _).trans_le (Nat.pow_le_pow_right (by omega) (by simp))

/-! ### Codes -/

/-- The command of a code is the one command with that code. -/
theorem find_command (c : CommandCode) : allCommands.find? (fun x => x.byte == c.byte) = some c := by
  cases c <;> rfl

theorem CommandCode.byte_le (c : CommandCode) : c.byte.toNat ≤ 13 := by
  cases c <;> simp [CommandCode.byte]

/-- Above 0Dh no command has the code. -/
theorem find_noCommand {code : Byte} (high : 13 < code.toNat) : allCommands.find? (fun x => x.byte == code) = none := by
  refine List.find?_eq_none.mpr fun c _ same => ?_
  have := c.byte_le
  rw [beq_iff_eq.mp same] at this
  omega

/-! ### Examining a transaction -/

section
variable {s : State} {code : Byte} {bytes : List Byte} {inside : Bool}

theorem State.examine_framing (bad : wellFramed bytes inside = false) : s.examine code bytes inside = s.refuseCode code .length := by
  simp [State.examine, bad]

theorem State.examine_unknown (framed : wellFramed bytes inside = true) (high : 13 < code.toNat) :
    s.examine code bytes inside = s.refuseCode code .unknown := by
  simp [State.examine, framed, find_noCommand high]

theorem State.examine_length {c : CommandCode} (framed : wellFramed bytes inside = true)
    (other : (bytes.drop 2).length ≠ c.arguments) : s.examine c.byte bytes inside = s.refuseCode c.byte .length := by
  simp only [State.examine, framed, if_true, find_command]
  exact if_neg other

theorem State.examine_command {c : CommandCode} (framed : wellFramed bytes inside = true)
    (same : (bytes.drop 2).length = c.arguments) : s.examine c.byte bytes inside = s.runCommand c (bytes.drop 2) := by
  simp only [State.examine, framed, if_true, find_command]
  exact if_pos same

theorem clockedOut_nil (n : Nat) : clockedOut [] n = List.replicate n 0x00#8 := by
  simp [clockedOut]

/-- What a command transaction sends out while it is examined. -/
theorem State.transact_command {rest : List Byte} {executing : Bool} (command : code ≠ 0x00#8) :
    s.transact (code :: rest) inside executing =
      if executing || !s.portOpen then s.shiftOut (List.replicate rest.length 0x00#8)
      else (s.shiftOut (List.replicate rest.length 0x00#8)).examine code (code :: rest) inside := by
  rw [State.transact, if_neg command, clockedOut_nil]

end

/-- Settles O20, by the branches of the examination. -/
theorem commandTransactionIsExamined : Obligations.CommandTransactionIsExamined := by
  refine ⟨?_, ?_, rfl⟩
  · intro w code rest inside s a out refused powered command
    have run : ∀ executing, exec (.commandTransaction w (code :: rest) inside executing) s =
        .next (a.when a.portPowered (a.transact (code :: rest) inside executing)).finish := fun _ => rfl
    have sent : ∀ executing, a.when a.portPowered (a.transact (code :: rest) inside executing) =
        if executing || !a.portOpen then out else out.examine code (code :: rest) inside := by
      intro executing
      rw [powered, State.transact_command command]
      rfl
    refine ⟨fun busy => ?_, ?_, fun opened bad => ?_, fun opened framed high => ?_, fun c opened framed same other => ?_,
      fun c opened framed same fits => ?_⟩
    · rw [run, sent, busy]
      rfl
    · rw [run, sent]
      rfl
    · rw [run, sent, opened]
      exact congrArg (fun t : State => Host.Outcome.next t.finish) (State.examine_framing bad)
    · rw [run, sent, opened]
      exact congrArg (fun t : State => Host.Outcome.next t.finish) (State.examine_unknown framed high)
    · subst same
      rw [run, sent, opened]
      exact congrArg (fun t : State => Host.Outcome.next t.finish) (State.examine_length framed (by simpa using other))
    · subst same
      rw [run, sent, opened]
      exact congrArg (fun t : State => Host.Outcome.next t.finish) (State.examine_command framed (by simpa using fits))
  · intro w args s a runs opened
    have by_row : ∀ {c : CommandCode} {row : Instr} (f : State → State),
        exec row s = .next (a.viaPort f).finish → f a = a.runCommand c args → runs c row := by
      intro c row f is same
      unfold runs
      rw [is, State.viaPort_open opened, same]
    have us : (BitVec.ofNat 40 (fieldAt args 2 5)).toNat = fieldAt args 2 5 := by
      rw [BitVec.toNat_ofNat]
      exact Nat.mod_eq_of_lt (fieldAt_lt ..)
    have position : (BitVec.ofNat 8 (fieldAt args 0 1)).toNat = fieldAt args 0 1 := by
      rw [BitVec.toNat_ofNat]
      exact Nat.mod_eq_of_lt (fieldAt_lt ..)
    refine ⟨by_row _ rfl rfl, by_row _ rfl rfl, by_row _ rfl ?_, by_row _ rfl rfl, by_row _ rfl rfl, by_row _ rfl rfl,
      by_row _ rfl rfl, by_row _ rfl rfl, by_row _ rfl rfl, by_row _ rfl rfl, by_row _ rfl ?_, by_row _ rfl rfl, by_row _ rfl rfl⟩
    · rw [us]
      rfl
    · rw [position]
      rfl

/-! ### Reading, and the busy port -/

/-- Settles O21, by what the read finds; a command turned away has no effect. -/
theorem readsAndBusyPort : Obligations.ReadsAndBusyPort := by
  intro w clocked executing s a out
  have run : exec (.readTransaction w clocked executing) s = .next (a.when a.portPowered (a.readOut clocked executing)).finish := rfl
  refine ⟨fun powered => ?_, fun busy c listed => ?_⟩
  · rw [powered] at run
    refine ⟨fun busy => ?_, fun r idle opened held => ?_, fun idle opened empty => ?_⟩
    · have reads : a.readOut clocked executing = out [0x04#8] := if_pos (by simpa using busy)
      rw [run, ← reads]
      rfl
    · have reads : a.readOut clocked executing = out r := by
        simp only [State.readOut, idle, opened, held]
        rfl
      rw [run, ← reads]
      rfl
    · refine ⟨Config.noCommandCode a.free, ?_⟩
      have reads : a.readOut clocked executing =
          { out [0x02#8, Config.noCommandCode a.free, 0x09#8] with free := a.free + 1 } := by
        simp only [State.readOut, idle, opened, empty]
        rfl
      rw [run, ← reads]
      rfl
  · have by_row : ∀ {row : Instr} (f : State → State), exec row s = .next (a.viaPort f).finish → exec row s = .next a.finish := by
      intro row f is
      rw [is, State.viaPort_busy busy]
    obtain listed | ⟨block, rfl⟩ | ⟨d, us, rfl⟩ | ⟨f, rfl⟩ | ⟨finding, rfl⟩ | ⟨n, rfl⟩ | ⟨m, rfl⟩ := listed
    · simp only [List.mem_cons, List.not_mem_nil, or_false] at listed
      obtain rfl | rfl | rfl | rfl | rfl | rfl | rfl := listed
      all_goals exact by_row _ rfl
    all_goals exact by_row _ rfl

end Sys2Proof.Machine
end

section
/-! The layouts of the responses (Tables 12-5, 12-8 to 12-12). A field is read out of the part it lies in; lists of entries of one
size are read entry by entry. -/

namespace Sys2Proof.Machine

/-! ### Fields of bytes laid out one after the other -/

@[simp] theorem fieldAt_cons_zero (b : Byte) (l : List Byte) : fieldAt (b :: l) 0 1 = b.toNat := by
  simp [fieldAt, beNat]

@[simp] theorem fieldAt_cons_succ (b : Byte) (l : List Byte) (p n : Nat) : fieldAt (b :: l) (p + 1) n = fieldAt l p n := by
  simp [fieldAt]

/-- The field that the first value of a concatenation fills. -/
theorem fieldAt_first (n v : Nat) (l : List Byte) : fieldAt (beBytes n v ++ l) 0 n = v % 2 ^ (8 * n) := by
  rw [fieldAt_left _ _ _ _ (by simp), fieldAt_beBytes]

/-- A field past the first value. -/
theorem fieldAt_past (m v p n : Nat) (l : List Byte) (past : m ≤ p) : fieldAt (beBytes m v ++ l) p n = fieldAt l (p - m) n := by
  rw [fieldAt_right _ _ _ _ (by simpa using past), beBytes_length]

/-- Entries of one size one after the other take so many bytes in all. -/
theorem flatMap_length {α : Type} {f : α → List Byte} {size : Nat} (same : ∀ x, (f x).length = size) (l : List α) :
    (l.flatMap f).length = size * l.length := by
  induction l with
  | nil => rfl
  | cons x xs ih => simp [same, ih, Nat.mul_succ, Nat.add_comm]

/-- A field of an entry. -/
theorem fieldAt_entry {α : Type} {f : α → List Byte} {size : Nat} (same : ∀ x, (f x).length = size) {l : List α} {i : Nat} {x : α}
    (found : l[i]? = some x) (q n : Nat) (inside : q + n ≤ size) (rest : List Byte) :
    fieldAt (l.flatMap f ++ rest) (size * i + q) n = fieldAt (f x) q n := by
  induction l generalizing i with
  | nil => simp at found
  | cons y ys ih =>
    rw [List.flatMap_cons, List.append_assoc]
    cases i with
    | zero =>
      obtain rfl : y = x := by simpa using found
      rw [Nat.mul_zero, Nat.zero_add, fieldAt_left _ _ _ _ (by rw [same]; exact inside)]
    | succ i =>
      rw [fieldAt_right _ _ _ _ (by rw [same, Nat.mul_succ]; omega), same,
        show size * (i + 1) + q - size = size * i + q by rw [Nat.mul_succ]; omega]
      exact ih (by simpa using found)

/-! ### Codes that fit their places -/

theorem ClockState.code_lt (q : ClockState) : q.code < 5 := by cases q <;> simp [ClockState.code]

theorem RecordKind.code_lt (k : RecordKind) : k.code < 19 := by cases k <;> simp [RecordKind.code]

theorem HandoverOutcome.code_lt (o : HandoverOutcome) : o.code < 256 := by cases o <;> simp [HandoverOutcome.code]

theorem bitAt_eq (n : Nat) (b : Bool) : bitAt n b = 2 ^ n * b.toNat := by cases b <;> simp [bitAt]

/-! ### Event records -/

theorem recordBytes_length (r : Record) : (recordBytes r).length = 16 := by simp [recordBytes, recordHead]

theorem recordBytes_fields (r : Record) :
    fieldAt (recordBytes r) 0 2 = r.seq.toNat ∧ fieldAt (recordBytes r) 2 1 = r.kind.code + 32 * r.stamp.quality.code
      ∧ fieldAt (recordBytes r) 3 2 = r.stamp.date.day.toNat
      ∧ fieldAt (recordBytes r) 5 5 = r.stamp.date.us % 2 ^ 37 + 2 ^ 39 * r.corrupt.toNat
      ∧ fieldAt (recordBytes r) 10 1 = r.detailA.toNat ∧ fieldAt (recordBytes r) 11 4 = r.detailB.toNat
      ∧ fieldAt (recordBytes r) 15 1 = r.check.toNat := by
  have kind := r.kind.code_lt
  have quality := r.stamp.quality.code_lt
  have seq := r.seq.isLt
  have day := r.stamp.date.day.isLt
  have detailA := r.detailA.isLt
  have detailB := r.detailB.isLt
  simp only [recordBytes, recordHead, List.append_assoc]
  refine ⟨?_, ?_, ?_, ?_, ?_, ?_, ?_⟩
  all_goals simp only [fieldAt_first, fieldAt_past, Nat.reduceLeDiff, Nat.reduceSub, fieldAt_cons_zero]
  all_goals try omega
  cases r.corrupt <;> simp <;> omega

/-! ### Cascades -/

theorem memberBytes_length (m : Member) : (memberBytes m).length = 18 := by simp [memberBytes]

/-- READ CASCADE: what stands before the members. -/
def cascadeHead (c : Cascade) : List Byte :=
  beBytes 2 c.opening.date.day.toNat ++ (beBytes 5 c.opening.date.us ++ (beBytes 1 c.opening.quality.code ++
    (beBytes 1 c.opener.val ++ (beBytes 1 (cascadeFlags c) ++ (c.notStored :: c.lateCount ::
      (beBytes 1 c.members.length ++ beBytes 1 (firstOutByte c)))))))

theorem cascadeData_eq (c : Cascade) (remaining : Nat) :
    cascadeData c remaining = cascadeHead c ++ (c.members.flatMap memberBytes ++ beBytes 1 remaining) := by
  simp [cascadeData, cascadeHead, stampBytes, dateBytes]

theorem cascadeHead_length (c : Cascade) : (cascadeHead c).length = 14 := by simp [cascadeHead]

theorem fieldAt_cascadeHead (c : Cascade) (remaining p n : Nat) (inside : p + n ≤ 14) :
    fieldAt (cascadeData c remaining) p n = fieldAt (cascadeHead c) p n := by
  rw [cascadeData_eq, fieldAt_left _ _ _ _ (by rwa [cascadeHead_length])]

theorem fieldAt_cascadeMember {c : Cascade} {i : Nat} {m : Member} (found : c.members[i]? = some m) (remaining q n : Nat)
    (inside : q + n ≤ 18) : fieldAt (cascadeData c remaining) (14 + 18 * i + q) n = fieldAt (memberBytes m) q n := by
  rw [cascadeData_eq, fieldAt_right _ _ _ _ (by rw [cascadeHead_length]; omega), cascadeHead_length,
    show 14 + 18 * i + q - 14 = 18 * i + q by omega]
  exact fieldAt_entry memberBytes_length found q n inside _

theorem cascadeData_head (c : Cascade) (remaining : Nat) :
    (fieldAt (cascadeData c remaining) 0 2 = c.opening.date.day.toNat
        ∧ fieldAt (cascadeData c remaining) 2 5 = c.opening.date.us % 2 ^ 40
        ∧ fieldAt (cascadeData c remaining) 7 1 = c.opening.quality.code)
      ∧ fieldAt (cascadeData c remaining) 8 1 = c.opener.val
      ∧ fieldAt (cascadeData c remaining) 9 1 = c.doubtful.toNat + 2 * c.full.toNat + 4 * c.late.toNat
      ∧ fieldAt (cascadeData c remaining) 10 1 = c.notStored.toNat ∧ fieldAt (cascadeData c remaining) 11 1 = c.lateCount.toNat
      ∧ fieldAt (cascadeData c remaining) 12 1 = c.members.length % 256
      ∧ fieldAt (cascadeData c remaining) 13 1 = firstOutByte c % 256 := by
  have day := c.opening.date.day.isLt
  have quality := c.opening.quality.code_lt
  have opener := c.opener.isLt
  have flags : cascadeFlags c = c.doubtful.toNat + 2 * c.full.toNat + 4 * c.late.toNat := by
    simp [cascadeFlags, bitAt_eq]
  have small : cascadeFlags c < 8 := by
    rw [flags]
    have := c.doubtful.toNat_le
    have := c.full.toNat_le
    have := c.late.toNat_le
    omega
  rw [← flags]
  simp only [fieldAt_cascadeHead, Nat.reduceAdd, Nat.reduceLeDiff, cascadeHead]
  refine ⟨⟨?_, ?_, ?_⟩, ?_, ?_, ?_, ?_, ?_, ?_⟩
  all_goals simp only [fieldAt_first, fieldAt_past, Nat.reduceLeDiff, Nat.reduceSub, fieldAt_cons_zero, fieldAt_cons_succ,
    fieldAt_beBytes]
  all_goals omega

theorem nodeInputByte_lt (node : NodeNo) (input : InputNo) : nodeInputByte node input < 256 := by
  have := node.isLt
  have := input.isLt
  simp only [nodeInputByte]
  omega

theorem memberBytes_fields (m : Member) :
    fieldAt (memberBytes m) 0 1 = 16 * m.node.val + m.input.val
      ∧ fieldAt (memberBytes m) 1 1 = m.active.toNat + 2 * (!m.stamp.quality.sound).toNat + 4 * m.line.toNat
      ∧ fieldAt (memberBytes m) 2 2 = m.stamp.date.day.toNat ∧ fieldAt (memberBytes m) 4 5 = m.stamp.date.us % 2 ^ 40
      ∧ fieldAt (memberBytes m) 9 1 = m.stamp.quality.code ∧ fieldAt (memberBytes m) 10 2 = m.heard.date.day.toNat
      ∧ fieldAt (memberBytes m) 12 5 = m.heard.date.us % 2 ^ 40 ∧ fieldAt (memberBytes m) 17 1 = m.heard.quality.code := by
  have place := nodeInputByte_lt m.node m.input
  have flags : bitAt 0 m.active + bitAt 1 m.doubtful + bitAt 2 m.line
      = m.active.toNat + 2 * (!m.stamp.quality.sound).toNat + 4 * m.line.toNat := by
    simp [bitAt_eq, Member.doubtful]
  have := m.active.toNat_le
  have := (!m.stamp.quality.sound).toNat_le
  have := m.line.toNat_le
  have day := m.stamp.date.day.isLt
  have quality := m.stamp.quality.code_lt
  have heard_day := m.heard.date.day.isLt
  have heard_quality := m.heard.quality.code_lt
  simp only [nodeInputByte] at place
  simp only [memberBytes, stampBytes, dateBytes, flags, nodeInputByte, List.append_assoc]
  refine ⟨?_, ?_, ?_, ?_, ?_, ?_, ?_, ?_⟩
  all_goals simp only [fieldAt_first, fieldAt_past, Nat.reduceLeDiff, Nat.reduceSub, fieldAt_beBytes]
  all_goals omega

/-! ### Station shift records -/

theorem stationEntryBytes_length (e : StationEntry) : (stationEntryBytes e).length = 12 := by
  unfold stationEntryBytes
  cases e.values <;> simp [TallyValues.bytes]

theorem resultBytes_length (own : NodeNo) (r : Option Result) : (resultBytes own r).length = 12 := by
  cases r <;> simp [resultBytes]

/-- READ STATION SHIFT: what stands before the entries. -/
def stationHead (own : NodeNo) (x : StationRecord) : List Byte :=
  beBytes 2 x.key.day.toNat ++ (beBytes 1 x.key.index ++ (resultBytes own x.result ++ beBytes 1 x.entries.length))

theorem stationData_eq (own : NodeNo) (x : StationRecord) (remaining : Nat) :
    stationData own x remaining = stationHead own x ++ (x.entries.flatMap stationEntryBytes ++ beBytes 1 remaining) := by
  simp [stationData, stationHead, keyBytes]

theorem stationHead_length (own : NodeNo) (x : StationRecord) : (stationHead own x).length = 16 := by
  simp [stationHead, resultBytes_length]

theorem fieldAt_stationHead (own : NodeNo) (x : StationRecord) (remaining p n : Nat) (inside : p + n ≤ 16) :
    fieldAt (stationData own x remaining) p n = fieldAt (stationHead own x) p n := by
  rw [stationData_eq, fieldAt_left _ _ _ _ (by rwa [stationHead_length])]

theorem fieldAt_stationResult (own : NodeNo) (x : StationRecord) (remaining q n : Nat) (inside : q + n ≤ 12) :
    fieldAt (stationData own x remaining) (3 + q) n = fieldAt (resultBytes own x.result) q n := by
  rw [fieldAt_stationHead _ _ _ _ _ (by omega), stationHead, fieldAt_past _ _ _ _ _ (by omega), fieldAt_past _ _ _ _ _ (by omega),
    fieldAt_left _ _ _ _ (by rw [resultBytes_length]; omega), show 3 + q - 2 - 1 = q by omega]

theorem fieldAt_stationEntry {x : StationRecord} {i : Nat} {e : StationEntry} (found : x.entries[i]? = some e) (own : NodeNo)
    (remaining q n : Nat) (inside : q + n ≤ 12) :
    fieldAt (stationData own x remaining) (16 + 12 * i + q) n = fieldAt (stationEntryBytes e) q n := by
  rw [stationData_eq, fieldAt_right _ _ _ _ (by rw [stationHead_length]; omega), stationHead_length,
    show 16 + 12 * i + q - 16 = 12 * i + q by omega]
  exact fieldAt_entry stationEntryBytes_length found q n inside _

/-- The last byte, behind the head and the entries. -/
theorem fieldAt_behind {α : Type} {f : α → List Byte} {size : Nat} (same : ∀ x, (f x).length = size) (head : List Byte) (l : List α)
    (v : Nat) : fieldAt (head ++ (l.flatMap f ++ beBytes 1 v)) (head.length + size * l.length) 1 = v % 256 := by
  rw [fieldAt_right _ _ _ _ (by omega), fieldAt_right _ _ _ _ (by rw [flatMap_length same]; omega), flatMap_length same,
    show head.length + size * l.length - head.length - size * l.length = 0 by omega]
  exact fieldAt_beBytes 1 v

theorem resultBytes_fields (own : NodeNo) (r : Result) :
    fieldAt (resultBytes own (some r)) 0 1 = r.outcome.code
      ∧ fieldAt (resultBytes own (some r)) 1 2 = r.completion.date.day.toNat
      ∧ fieldAt (resultBytes own (some r)) 3 5 = r.completion.date.us % 2 ^ 40
      ∧ fieldAt (resultBytes own (some r)) 8 1 = r.completion.quality.code
      ∧ fieldAt (resultBytes own (some r)) 9 2 = r.due.toNat
      ∧ fieldAt (resultBytes own (some r)) 11 1 = (match r.elsewhere with
        | none => own.val
        | some post => 16 + post.val) := by
  have outcome := r.outcome.code_lt
  have day := r.completion.date.day.isLt
  have quality := r.completion.quality.code_lt
  have due := r.due.isLt
  have own_lt := own.isLt
  simp only [resultBytes, stampBytes, dateBytes, List.append_assoc]
  refine ⟨?_, ?_, ?_, ?_, ?_, ?_⟩
  all_goals simp only [fieldAt_first, fieldAt_past, Nat.reduceLeDiff, Nat.reduceSub, fieldAt_beBytes]
  all_goals try omega
  cases r.elsewhere with
  | none => dsimp only; omega
  | some post =>
    have := post.isLt
    dsimp only
    omega

theorem stationEntryBytes_fields (e : StationEntry) :
    fieldAt (stationEntryBytes e) 0 1 = e.node.val + 16 * e.values.isNone.toNat + 32 * e.unexpected.toNat
      ∧ (e.values = none → fieldAt (stationEntryBytes e) 1 11 = 0)
      ∧ (∀ v, e.values = some v →
          fieldAt (stationEntryBytes e) 1 3 = v.online.toNat ∧ fieldAt (stationEntryBytes e) 4 3 = v.spinning.toNat
            ∧ fieldAt (stationEntryBytes e) 7 1 = v.starts.toNat ∧ fieldAt (stationEntryBytes e) 8 1 = v.syncs.toNat
            ∧ fieldAt (stationEntryBytes e) 9 1 = v.trips.toNat ∧ fieldAt (stationEntryBytes e) 10 1 = v.normalStops.toNat
            ∧ fieldAt (stationEntryBytes e) 11 1 = v.flags.toNat) := by
  refine ⟨?_, fun absent => ?_, fun v present => ?_⟩
  · have := e.node.isLt
    have := e.values.isNone.toNat_le
    have := e.unexpected.toNat_le
    rw [stationEntryBytes, fieldAt_first, bitAt_eq, bitAt_eq]
    omega
  · simp [stationEntryBytes, absent, fieldAt_past]
  · have online := v.online.isLt
    have spinning := v.spinning.isLt
    simp only [stationEntryBytes, present, TallyValues.bytes, List.append_assoc]
    refine ⟨?_, ?_, ?_, ?_, ?_, ?_, ?_⟩
    all_goals simp only [fieldAt_first, fieldAt_past, Nat.reduceLeDiff, Nat.reduceSub, fieldAt_cons_zero, fieldAt_cons_succ]
    all_goals omega

/-! ### The commands that return and remove -/

section
variable {s : State}

theorem State.readEventCommand_some {r : Record} {rest : List Record} (records : s.evq.records = r :: rest) :
    s.readEventCommand = (s.removeHead rest).done .readEvent (recordBytes r ++ beBytes 1 rest.length) := by
  simp [State.readEventCommand, records]

theorem State.readEventCommand_empty (records : s.evq.records = []) : s.readEventCommand = s.empty .readEvent := by
  simp [State.readEventCommand, records]

theorem State.readCascadeCommand_some {c : Cascade} {rest : List Cascade} (listed : s.csu.list = c :: rest) :
    s.readCascadeCommand =
      ({ s with csu := { s.csu with list := rest } }).done .readCascade (cascadeData c rest.length) := by
  simp [State.readCascadeCommand, listed]

theorem State.readCascadeCommand_empty (listed : s.csu.list = []) : s.readCascadeCommand = s.empty .readCascade := by
  simp [State.readCascadeCommand, listed]

/-- The oldest COMPLETE record is found and removed. -/
theorem State.readStationCommand_some {before rest : List StationRecord} {x : StationRecord}
    (records : s.shu.records = before ++ x :: rest) (others : ∀ y ∈ before, y.status ≠ .complete) (complete : x.status = .complete) :
    s.readStationCommand = ({ s with shu := { s.shu with records := before ++ rest } }).done .readStationShift
      (stationData s.lif.nodeNumber x (before ++ rest).length) := by
  have none_before : ∀ y ∈ before, ¬ y.isComplete = true := fun y hy => by simpa [StationRecord.isComplete] using others y hy
  have is : x.isComplete = true := by simp [StationRecord.isComplete, complete]
  have found : s.shu.records.find? StationRecord.isComplete = some x := by
    rw [records, List.find?_append, List.find?_eq_none.mpr none_before]
    simp [List.find?, is]
  have removed : s.shu.records.eraseP StationRecord.isComplete = before ++ rest := by
    rw [records, List.eraseP_append_right _ (by simpa using none_before), List.eraseP_cons_of_pos is]
  rw [State.readStationCommand, found]
  dsimp only
  rw [removed]

theorem State.readStationCommand_empty (others : ∀ y ∈ s.shu.records, y.status ≠ .complete) :
    s.readStationCommand = s.empty .readStationShift := by
  have found : s.shu.records.find? StationRecord.isComplete = none :=
    List.find?_eq_none.mpr fun y hy => by simpa [StationRecord.isComplete] using others y hy
  rw [State.readStationCommand, found]

end

/-- Settles O18: what each command finds, and the layouts field by field. -/
theorem readsThatRemove : Obligations.ReadsThatRemove := by
  refine ⟨?_, fun r => ?_, fun c remaining => ?_, fun own x remaining => ?_⟩
  · intro w s a opened
    have by_row : ∀ {row : Instr} (f : State → State) {t : State},
        exec row s = .next (a.viaPort f).finish → f a = t → exec row s = .next t.finish := by
      intro row f t is same
      rw [is, State.viaPort_open opened, same]
    refine ⟨fun r rest records => ?_, fun records => ?_, fun c rest listed => ?_, fun listed => ?_,
      fun before x rest records others complete => ?_, fun others => ?_⟩
    · refine by_row State.readEventCommand rfl ((State.readEventCommand_some records).trans ?_)
      simp only [State.removeHead, State.done, State.respond]
      rfl
    · exact by_row State.readEventCommand rfl (State.readEventCommand_empty records)
    · exact by_row State.readCascadeCommand rfl (State.readCascadeCommand_some listed)
    · exact by_row State.readCascadeCommand rfl (State.readCascadeCommand_empty listed)
    · exact by_row State.readStationCommand rfl (State.readStationCommand_some records others complete)
    · exact by_row State.readStationCommand rfl (State.readStationCommand_empty others)
  · obtain ⟨seq, kind, day, us, detailA, detailB, check⟩ := recordBytes_fields r
    exact ⟨rfl, recordBytes_length r, seq, kind, day, us, detailA, detailB, check⟩
  · obtain ⟨opening, opener, flags, notStored, lateCount, count, firstOut⟩ := cascadeData_head c remaining
    refine ⟨opening, opener, flags, notStored, lateCount, count, fun m rest members => ?_, ?_, fun i m found => ?_, ?_⟩
    · rw [firstOut, firstOutByte, Cascade.firstOut, members]
      dsimp only
      rw [Nat.mod_eq_of_lt (nodeInputByte_lt ..), nodeInputByte, Nat.mul_comm]
    · rw [cascadeData_eq, List.length_append, List.length_append, cascadeHead_length, flatMap_length memberBytes_length,
        beBytes_length]
      omega
    · have at_place := fun q n inside => fieldAt_cascadeMember found remaining q n inside
      have first : fieldAt (cascadeData c remaining) (14 + 18 * i) 1 = fieldAt (memberBytes m) 0 1 := at_place 0 1 (by omega)
      simp only [first, at_place, Nat.reduceAdd, Nat.reduceLeDiff]
      exact memberBytes_fields m
    · have behind := fieldAt_behind memberBytes_length (cascadeHead c) c.members remaining
      rwa [cascadeHead_length, ← cascadeData_eq] at behind
  · refine ⟨⟨?_, ?_⟩, fun absent => ?_, fun r present => ?_, ?_, ?_, fun i e found => ?_, ?_⟩
    · have := x.key.day.isLt
      rw [fieldAt_stationHead _ _ _ _ _ (by omega), stationHead, fieldAt_first]
      omega
    · rw [fieldAt_stationHead _ _ _ _ _ (by omega), stationHead, fieldAt_past _ _ _ _ _ (by omega)]
      exact fieldAt_first 1 _ _
    · rw [show (3 : Nat) = 3 + 0 from rfl, fieldAt_stationResult _ _ _ _ _ (by omega), absent, resultBytes, fieldAt_beBytes]
      rfl
    · have at_result := fun q n inside => fieldAt_stationResult own x remaining q n inside
      have first : fieldAt (stationData own x remaining) 3 1 = fieldAt (resultBytes own x.result) 0 1 := at_result 0 1 (by omega)
      have fields := resultBytes_fields own r
      rw [← present] at fields
      obtain ⟨outcome, day, us, quality, due, post⟩ := fields
      exact ⟨first.trans outcome, (at_result 1 2 (by omega)).trans day, (at_result 3 5 (by omega)).trans us,
        (at_result 8 1 (by omega)).trans quality, (at_result 9 2 (by omega)).trans due,
        (at_result 11 1 (by omega)).trans post⟩
    · rw [fieldAt_stationHead _ _ _ _ _ (by omega), stationHead, fieldAt_past _ _ _ _ _ (by omega),
        fieldAt_past _ _ _ _ _ (by omega), fieldAt_right _ _ _ _ (by rw [resultBytes_length]), resultBytes_length]
      exact fieldAt_beBytes 1 _
    · rw [stationData_eq, List.length_append, List.length_append, stationHead_length, flatMap_length stationEntryBytes_length,
        beBytes_length]
      omega
    · have at_place := fun q n inside => fieldAt_stationEntry found own remaining q n inside
      have first : fieldAt (stationData own x remaining) (16 + 12 * i) 1 = fieldAt (stationEntryBytes e) 0 1 :=
        at_place 0 1 (by omega)
      simp only [first, at_place, Nat.reduceAdd, Nat.reduceLeDiff]
      exact stationEntryBytes_fields e
    · have behind := fieldAt_behind stationEntryBytes_length (stationHead own x) x.entries remaining
      rwa [stationHead_length, ← stationData_eq] at behind

end Sys2Proof.Machine
end

section
namespace Sys2Proof.Machine

/-! ### READ STATUS: a field in its part -/

section
variable {s : State} {p n : Nat}

/-- A field that begins past the start of its part, read in the part. -/
theorem fieldAt_shifted {data part : List Byte} {start len : Nat}
    (at_ : ∀ q m, q + m ≤ len → fieldAt data (start + q) m = fieldAt part q m) (low : start ≤ p) (high : p + n ≤ start + len) :
    fieldAt data p n = fieldAt part (p - start) n := by
  rw [← at_ _ _ (by omega)]
  congr 1
  omega

theorem statusAt_line (high : p + n ≤ 14) : fieldAt (statusData s) p n = fieldAt (statusLine s) p n :=
  (fieldAt_statusData s p n).1 high

theorem statusAt_clock (low : 14 ≤ p) (high : p + n ≤ 19) : fieldAt (statusData s) p n = fieldAt (statusClock s) (p - 14) n := by
  obtain ⟨_, h, _⟩ := fieldAt_statusData s (p - 14) n
  rw [← h (by omega), Nat.add_sub_cancel' low]

theorem statusAt_inputs (low : 19 ≤ p) (high : p + n ≤ 25) : fieldAt (statusData s) p n = fieldAt (statusInputs s) (p - 19) n := by
  obtain ⟨_, _, h, _⟩ := fieldAt_statusData s (p - 19) n
  rw [← h (by omega), Nat.add_sub_cancel' low]

theorem statusAt_queue (low : 25 ≤ p) (high : p + n ≤ 35) : fieldAt (statusData s) p n = fieldAt (statusQueue s) (p - 25) n := by
  obtain ⟨_, _, _, h, _⟩ := fieldAt_statusData s (p - 25) n
  rw [← h (by omega), Nat.add_sub_cancel' low]

theorem statusAt_flags : fieldAt (statusData s) 35 1 = statusCascadeFlags s % 256 := by
  obtain ⟨_, _, _, _, h, _⟩ := fieldAt_statusData s 0 1
  exact (h (by omega)).trans (fieldAt_beBytes 1 _)

theorem statusAt_cascade (low : 36 ≤ p) (high : p + n ≤ 48) :
    fieldAt (statusData s) p n = fieldAt (statusOpenCascade s) (p - 36) n := by
  obtain ⟨_, _, _, _, _, h, _⟩ := fieldAt_statusData s (p - 36) n
  rw [← h (by omega), Nat.add_sub_cancel' low]

theorem statusAt_cascades (low : 48 ≤ p) (high : p + n ≤ 61) :
    fieldAt (statusData s) p n = fieldAt (statusCascades s) (p - 48) n := by
  obtain ⟨_, _, _, _, _, _, h, _⟩ := fieldAt_statusData s (p - 48) n
  rw [← h (by omega), Nat.add_sub_cancel' low]

theorem statusAt_stop (low : 61 ≤ p) (high : p + n ≤ 71) : fieldAt (statusData s) p n = fieldAt (statusStop s) (p - 61) n := by
  obtain ⟨_, _, _, _, _, _, _, h, _⟩ := fieldAt_statusData s (p - 61) n
  rw [← h (by omega), Nat.add_sub_cancel' low]

theorem statusAt_speed (low : 71 ≤ p) (high : p + n ≤ 82) : fieldAt (statusData s) p n = fieldAt (statusSpeed s) (p - 71) n := by
  obtain ⟨_, _, _, _, _, _, _, _, h, _⟩ := fieldAt_statusData s (p - 71) n
  rw [← h (by omega), Nat.add_sub_cancel' low]

theorem statusAt_run : fieldAt (statusData s) 82 1 = fieldAt (statusRun s) 0 1 := by
  obtain ⟨_, _, _, _, _, _, _, _, _, h, _⟩ := fieldAt_statusData s 0 1
  exact h (by omega)

theorem statusAt_reached (low : 83 ≤ p) (high : p + n ≤ 86) :
    fieldAt (statusData s) p n = fieldAt (optKeyBytes s.shu.lastReached) (p - 83) n := by
  obtain ⟨_, _, _, _, _, _, _, _, _, _, h, _⟩ := fieldAt_statusData s (p - 83) n
  rw [← h (by omega), Nat.add_sub_cancel' low]

theorem statusAt_post (low : 86 ≤ p) (high : p + n ≤ 116) : fieldAt (statusData s) p n = fieldAt (statusPost s) (p - 86) n := by
  obtain ⟨_, _, _, _, _, _, _, _, _, _, _, h, _⟩ := fieldAt_statusData s (p - 86) n
  rw [← h (by omega), Nat.add_sub_cancel' low]

theorem statusAt_supply (low : 116 ≤ p) (high : p + n ≤ 125) :
    fieldAt (statusData s) p n = fieldAt (statusSupply s) (p - 116) n := by
  obtain ⟨_, _, _, _, _, _, _, _, _, _, _, _, h, _⟩ := fieldAt_statusData s (p - 116) n
  rw [← h (by omega), Nat.add_sub_cancel' low]

theorem statusAt_node (low : 125 ≤ p) (high : p + n ≤ 135) : fieldAt (statusData s) p n = fieldAt (statusNode s) (p - 125) n := by
  obtain ⟨_, _, _, _, _, _, _, _, _, _, _, _, _, h⟩ := fieldAt_statusData s (p - 125) n
  rw [← h (by omega), Nat.add_sub_cancel' low]

theorem statusData_length (s : State) : (statusData s).length = 136 := by simp [statusData]

/-- The data ends with a byte of 0. -/
theorem statusAt_last : fieldAt (statusData s) 135 1 = 0 := by
  unfold statusData
  rw [fieldAt_right _ _ _ _ (by simp)]
  simp

end

/-! ### Masks, keys and status codes -/

/-- The first k of sixteen marks as a number. -/
def marksBelow (q : Nat → Bool) : Nat → Nat
  | 0 => 0
  | k + 1 => marksBelow q k + bitAt k (q k)

theorem marksBelow_lt (q : Nat → Bool) (k : Nat) : marksBelow q k < 2 ^ k := by
  induction k with
  | zero => simp [marksBelow]
  | succ k ih =>
    have := (q k).toNat_le
    rw [marksBelow, bitAt_eq, Nat.pow_succ]
    nlinarith

theorem marksBelow_testBit (q : Nat → Bool) {k i : Nat} (h : i < k) : (marksBelow q k).testBit i = q i := by
  induction k with
  | zero => omega
  | succ k ih =>
    rw [marksBelow, bitAt_eq, Nat.add_comm, Nat.testBit_two_pow_mul_add _ (marksBelow_lt q k)]
    split
    · next below => exact ih below
    · obtain rfl : i = k := by omega
      cases q i <;> simp

theorem inputMask_eq (p : InputNo → Bool) : inputMask p = marksBelow (fun i => p (Fin.ofNat 16 i)) 16 := by
  simp [inputMask, allInputs, marksBelow]
  rfl

/-- A mask of the inputs, bit by bit (R72). -/
theorem fieldAt_inputMask (p : InputNo → Bool) (n : InputNo) :
    (inputMask p % 2 ^ (8 * 2)).testBit n.val = p n := by
  have lt := marksBelow_lt (fun i => p (Fin.ofNat 16 i)) 16
  rw [inputMask_eq, Nat.mod_eq_of_lt lt, marksBelow_testBit _ n.isLt]
  simp

theorem optKeyBytes_none : fieldAt (optKeyBytes none) 0 3 = 0x0000FF := rfl

theorem optKeyBytes_some (k : ShiftKey) :
    fieldAt (optKeyBytes (some k)) 0 2 = k.day.toNat ∧ fieldAt (optKeyBytes (some k)) 2 1 = k.index % 256 := by
  have := k.day.isLt
  simp only [optKeyBytes, keyBytes, fieldAt_first, fieldAt_past, Nat.reduceLeDiff, Nat.reduceSub, fieldAt_beBytes]
  omega

/-- Two bits for each record, the oldest lowest. -/
theorem statusCodes_digit (l : List StationRecord) (i : Nat) :
    statusCodes l / 4 ^ i % 4 = (match l[i]? with
      | none => 0
      | some x => x.status.code) := by
  induction l generalizing i with
  | nil => simp [statusCodes]
  | cons x xs ih =>
    have code : x.status.code < 4 := by cases x.status <;> simp [RecordStatus.code]
    cases i with
    | zero =>
      simp only [statusCodes, Nat.pow_zero, Nat.div_one, List.getElem?_cons_zero]
      omega
    | succ i =>
      rw [List.getElem?_cons_succ, ← ih, statusCodes, Nat.pow_succ', ← Nat.div_div_eq_div_mul]
      congr 2
      omega

theorem statusCodes_digit_mod (l : List StationRecord) {i : Nat} (h : i < 8) :
    statusCodes l % 2 ^ (8 * 2) / 4 ^ i % 4 = (match l[i]? with
      | none => 0
      | some x => x.status.code) := by
  rw [← statusCodes_digit, show 2 ^ (8 * 2) = 4 ^ i * 4 ^ (8 - i) by rw [← Nat.pow_add, show i + (8 - i) = 8 by omega]; rfl,
    Nat.mod_mul_right_div_self, Nat.mod_mod_of_dvd]
  exact dvd_pow_self 4 (by omega)

/-! ### READ TALLY and READ SHIFT -/

theorem amountOf_toNat {w : Nat} (total base : BitVec w) : (amountOf total base).toNat = total.toNat - base.toNat := by
  unfold amountOf
  split
  · next le => exact BitVec.toNat_sub_of_le le
  · next gt =>
    simp
    omega

theorem SixFields.bytes_eq (f : SixFields) : f.bytes =
    beBytes 5 f.online.toNat ++ (beBytes 5 f.spinning.toNat ++ (beBytes 3 f.starts.toNat ++ (beBytes 3 f.syncs.toNat ++
      (beBytes 3 f.trips.toNat ++ beBytes 3 f.normalStops.toNat)))) := by
  simp [SixFields.bytes]

theorem fieldAt_tallyKey (t : Tallies) (unused : BitVec 16) (q n : Nat) (inside : q + n ≤ 3) :
    fieldAt (tallyData t unused) (75 + q) n = fieldAt (optKeyBytes t.lastClosed) q n := by
  have before : (tallyFieldsBytes t.tally.fields ++ beBytes 1 t.tally.flagsByte ++ t.baseline.fields.bytes
      ++ (amounts (sixOf t.tally.fields) t.baseline.fields).bytes).length = 75 := by
    simp [tallyFieldsBytes, SixFields.bytes]
  unfold tallyData
  rw [List.append_assoc, List.append_assoc, fieldAt_right _ _ _ _ (by omega), before, Nat.add_sub_cancel_left,
    fieldAt_left _ _ _ _ (by simpa using inside)]

theorem tallyData_length (t : Tallies) (unused : BitVec 16) : (tallyData t unused).length = 81 := by
  simp [tallyData, tallyFieldsBytes, SixFields.bytes]

theorem tallyData_fields (t : Tallies) (unused : BitVec 16) :
    let at_ := fieldAt (tallyData t unused)
    let f := t.tally.fields
    let b := t.baseline.fields
    (at_ 0 5 = f.online.toNat ∧ at_ 5 5 = f.spinning.toNat ∧ at_ 10 4 = f.revolutions.toNat ∧ at_ 14 3 = f.starts.toNat
        ∧ at_ 17 3 = f.syncs.toNat ∧ at_ 20 3 = f.trips.toNat ∧ at_ 23 3 = f.normalStops.toNat ∧ at_ 26 4 = f.outage.toNat)
      ∧ at_ 30 1 = t.tally.blank.toNat + 2 * t.tally.suspect.toNat + 4 * t.tally.saturated.toNat
      ∧ (at_ 31 5 = b.online.toNat ∧ at_ 36 5 = b.spinning.toNat ∧ at_ 41 3 = b.starts.toNat ∧ at_ 44 3 = b.syncs.toNat
        ∧ at_ 47 3 = b.trips.toNat ∧ at_ 50 3 = b.normalStops.toNat)
      ∧ (at_ 53 5 = f.online.toNat - b.online.toNat ∧ at_ 58 5 = f.spinning.toNat - b.spinning.toNat
        ∧ at_ 63 3 = f.starts.toNat - b.starts.toNat ∧ at_ 66 3 = f.syncs.toNat - b.syncs.toNat
        ∧ at_ 69 3 = f.trips.toNat - b.trips.toNat ∧ at_ 72 3 = f.normalStops.toNat - b.normalStops.toNat)
      ∧ at_ 78 1 = t.unitShifts.length % 256 ∧ at_ 79 2 = unused.toNat := by
  intro at_ f b
  have flags : t.tally.flagsByte = t.tally.blank.toNat + 2 * t.tally.suspect.toNat + 4 * t.tally.saturated.toNat := by
    simp [Tally.flagsByte, bitAt_eq]
  have := t.tally.blank.toNat_le
  have := t.tally.suspect.toNat_le
  have := t.tally.saturated.toNat_le
  have := f.online.isLt
  have := f.spinning.isLt
  have := f.revolutions.isLt
  have := f.starts.isLt
  have := f.syncs.isLt
  have := f.trips.isLt
  have := f.normalStops.isLt
  have := f.outage.isLt
  have := b.online.isLt
  have := b.spinning.isLt
  have := b.starts.isLt
  have := b.syncs.isLt
  have := b.trips.isLt
  have := b.normalStops.isLt
  have := unused.isLt
  have data : tallyData t unused = beBytes 5 f.online.toNat ++ (beBytes 5 f.spinning.toNat ++ (beBytes 4 f.revolutions.toNat ++
      (beBytes 3 f.starts.toNat ++ (beBytes 3 f.syncs.toNat ++ (beBytes 3 f.trips.toNat ++ (beBytes 3 f.normalStops.toNat ++
      (beBytes 4 f.outage.toNat ++ (beBytes 1 t.tally.flagsByte ++ (b.bytes ++ ((amounts (sixOf f) b).bytes ++
      (optKeyBytes t.lastClosed ++ (beBytes 1 t.unitShifts.length ++ beBytes 2 unused.toNat)))))))))))) := by
    simp [tallyData, tallyFieldsBytes, f, b]
  simp only [at_, data, SixFields.bytes_eq, amounts, sixOf, amountOf_toNat, List.append_assoc, flags]
  refine ⟨⟨?_, ?_, ?_, ?_, ?_, ?_, ?_, ?_⟩, ?_, ⟨?_, ?_, ?_, ?_, ?_, ?_⟩, ⟨?_, ?_, ?_, ?_, ?_, ?_⟩, ?_, ?_⟩
  all_goals simp only [fieldAt_first, fieldAt_past, fieldAt_right, optKeyBytes_length, Nat.reduceLeDiff, Nat.reduceSub,
    fieldAt_beBytes]
  all_goals omega

theorem unitShiftBytes_length (u : UnitShift) (corrupt : Bool) : (unitShiftBytes u corrupt).length = 38 := by
  cases h : u.acceptance <;> simp [unitShiftBytes, keyBytes, SixFields.bytes, acceptanceBytes, h]

theorem unitShiftBytes_fields (u : UnitShift) :
    let at_ := fieldAt (unitShiftBytes u u.corrupt)
    (at_ 0 2 = u.key.day.toNat ∧ at_ 2 1 = u.key.index % 256)
      ∧ (at_ 3 5 = u.amounts.online.toNat ∧ at_ 8 5 = u.amounts.spinning.toNat ∧ at_ 13 3 = u.amounts.starts.toNat
        ∧ at_ 16 3 = u.amounts.syncs.toNat ∧ at_ 19 3 = u.amounts.trips.toNat ∧ at_ 22 3 = u.amounts.normalStops.toNat)
      ∧ at_ 25 1 = u.stepped.toNat + 2 * u.catchUp.toNat + 4 * u.merged.toNat + 8 * u.notSound.toNat + 16 * u.suspect.toNat
          + 128 * u.corrupt.toNat := by
  intro at_
  have flags : unitShiftFlags u u.corrupt = u.stepped.toNat + 2 * u.catchUp.toNat + 4 * u.merged.toNat + 8 * u.notSound.toNat
      + 16 * u.suspect.toNat + 128 * u.corrupt.toNat := by
    simp [unitShiftFlags, bitAt_eq]
  have := u.stepped.toNat_le
  have := u.catchUp.toNat_le
  have := u.merged.toNat_le
  have := u.notSound.toNat_le
  have := u.suspect.toNat_le
  have := u.corrupt.toNat_le
  have := u.key.day.isLt
  have := u.amounts.online.isLt
  have := u.amounts.spinning.isLt
  have := u.amounts.starts.isLt
  have := u.amounts.syncs.isLt
  have := u.amounts.trips.isLt
  have := u.amounts.normalStops.isLt
  simp only [at_, unitShiftBytes, keyBytes, SixFields.bytes_eq, List.append_assoc, flags]
  refine ⟨⟨?_, ?_⟩, ⟨?_, ?_, ?_, ?_, ?_, ?_⟩, ?_⟩
  all_goals simp only [fieldAt_first, fieldAt_past, Nat.reduceLeDiff, Nat.reduceSub]
  all_goals omega

theorem fieldAt_acceptance (u : UnitShift) (q n : Nat) :
    fieldAt (unitShiftBytes u u.corrupt) (26 + q) n = fieldAt (acceptanceBytes u.acceptance) q n := by
  have before : (keyBytes u.key ++ u.amounts.bytes ++ beBytes 1 (unitShiftFlags u u.corrupt)).length = 26 := by
    simp [keyBytes, SixFields.bytes]
  rw [unitShiftBytes, fieldAt_right _ _ _ _ (by omega), before, Nat.add_sub_cancel_left]

theorem acceptanceBytes_fields (x : Acceptance) :
    fieldAt (acceptanceBytes (some x)) 0 1 = x.outcome.code
      ∧ fieldAt (acceptanceBytes (some x)) 1 2 = x.completion.date.day.toNat
      ∧ fieldAt (acceptanceBytes (some x)) 3 5 = x.completion.date.us % 2 ^ 40
      ∧ fieldAt (acceptanceBytes (some x)) 8 1 = x.completion.quality.code
      ∧ fieldAt (acceptanceBytes (some x)) 9 2 = x.due.toNat ∧ fieldAt (acceptanceBytes (some x)) 11 1 = x.post.val := by
  have := x.outcome.code_lt
  have := x.completion.date.day.isLt
  have := x.completion.quality.code_lt
  have := x.due.isLt
  have := x.post.isLt
  simp only [acceptanceBytes, stampBytes, dateBytes, List.append_assoc]
  refine ⟨?_, ?_, ?_, ?_, ?_, ?_⟩
  all_goals simp only [fieldAt_first, fieldAt_past, Nat.reduceLeDiff, Nat.reduceSub, fieldAt_beBytes]
  all_goals omega

/-! ### READ ROUND -/

theorem roundEntryBytes_length (e : RoundEntry) : (roundEntryBytes e).length = 13 := by simp [roundEntryBytes, beInt]

theorem MarkStatus.byte_toNat (m : MarkStatus) : m.byte.toNat = m.code.toNat + 128 * m.valid.toNat := by
  have := m.code.isLt
  have := m.valid.toNat_le
  rw [MarkStatus.byte, bitAt_eq, BitVec.toNat_ofNat]
  omega

theorem Disposition.code_lt (d : Disposition) : d.code < 5 := by cases d <;> simp [Disposition.code]

theorem CloseAction.code_lt (a : CloseAction) : a.code < 3 := by cases a <;> simp [CloseAction.code]

theorem roundEntryBytes_fields (e : RoundEntry) :
    fieldAt (roundEntryBytes e) 0 1 = e.node.val
      ∧ fieldAt (roundEntryBytes e) 1 1 = e.status.code.toNat + 128 * e.status.valid.toNat
      ∧ fieldAt (roundEntryBytes e) 2 2 = e.key.day.toNat ∧ fieldAt (roundEntryBytes e) 4 3 = e.key.second % 2 ^ 24
      ∧ fieldAt (roundEntryBytes e) 7 4 = (BitVec.ofInt 32 e.reading).toNat
      ∧ fieldAt (roundEntryBytes e) 11 1 = e.edgeSender.val ∧ fieldAt (roundEntryBytes e) 12 1 = e.disposition.code := by
  have := e.node.isLt
  have := e.key.day.isLt
  have := (BitVec.ofInt 32 e.reading).isLt
  have := e.edgeSender.isLt
  have := e.disposition.code_lt
  simp only [roundEntryBytes, beInt, Nat.reduceMul, List.append_assoc, List.cons_append, List.nil_append, ← e.status.byte_toNat]
  refine ⟨?_, ?_, ?_, ?_, ?_, ?_, ?_⟩
  all_goals simp only [fieldAt_first, fieldAt_past, Nat.reduceLeDiff, Nat.reduceSub, fieldAt_beBytes, fieldAt_cons_zero,
    fieldAt_cons_succ]
  all_goals omega

/-- READ ROUND: what stands before the entries. -/
def roundHead (r : ClosedRound) : List Byte :=
  beBytes 2 r.key.day.toNat ++ (beBytes 3 r.key.second
    ++ (beBytes 1 (bitAt 0 r.full + bitAt 1 r.ownReading.isSome + r.action.code * 4)
    ++ (beBytes 1 r.stateAtClose.code
    ++ (optStampBytes r.edge ++ (beBytes 1 (if r.edge.isSome then r.edgeSender.val else 0)
    ++ (beBytes 4 (BitVec.ofInt 32 (r.ownReading.getD 0)).toNat
    ++ (beBytes 1 r.used ++ (beBytes 1 r.trim ++ (beBytes 4 (BitVec.ofInt 32 r.midpoint).toNat
    ++ (beBytes 4 (BitVec.ofInt 32 r.correction).toNat ++ beBytes 1 r.entries.length))))))))))

theorem optStampBytes_length (t : Option Stamp) : (optStampBytes t).length = 8 := by
  cases t <;> simp [optStampBytes, noStampBytes]

theorem roundData_eq (r : ClosedRound) : roundData r = roundHead r ++ (r.entries.flatMap roundEntryBytes ++ []) := by
  simp [roundData, roundHead, beInt]

theorem roundHead_length (r : ClosedRound) : (roundHead r).length = 31 := by simp [roundHead, optStampBytes_length]

theorem fieldAt_roundHead (r : ClosedRound) (p n : Nat) (inside : p + n ≤ 31) :
    fieldAt (roundData r) p n = fieldAt (roundHead r) p n := by
  rw [roundData_eq, fieldAt_left _ _ _ _ (by rwa [roundHead_length])]

theorem fieldAt_roundEntry {r : ClosedRound} {i : Nat} {e : RoundEntry} (found : r.entries[i]? = some e) (q n : Nat)
    (inside : q + n ≤ 13) : fieldAt (roundData r) (31 + 13 * i + q) n = fieldAt (roundEntryBytes e) q n := by
  rw [roundData_eq, fieldAt_right _ _ _ _ (by rw [roundHead_length]; omega), roundHead_length,
    show 31 + 13 * i + q - 31 = 13 * i + q by omega]
  exact fieldAt_entry roundEntryBytes_length found q n inside _

theorem roundData_length (r : ClosedRound) : (roundData r).length = 31 + 13 * r.entries.length := by
  rw [roundData_eq, List.append_nil, List.length_append, roundHead_length, flatMap_length roundEntryBytes_length]

theorem roundHead_fields (r : ClosedRound) :
    let at_ := fieldAt (roundHead r)
    (at_ 0 2 = r.key.day.toNat ∧ at_ 2 3 = r.key.second % 2 ^ 24)
      ∧ at_ 5 1 = r.full.toNat + 2 * r.ownReading.isSome.toNat + 4 * r.action.code ∧ at_ 6 1 = r.stateAtClose.code
      ∧ at_ 15 1 = (if r.edge.isSome then r.edgeSender.val else 0)
      ∧ at_ 16 4 = (BitVec.ofInt 32 (r.ownReading.getD 0)).toNat ∧ at_ 20 1 = r.used % 256 ∧ at_ 21 1 = r.trim % 256
      ∧ at_ 22 4 = (BitVec.ofInt 32 r.midpoint).toNat ∧ at_ 26 4 = (BitVec.ofInt 32 r.correction).toNat
      ∧ at_ 30 1 = r.entries.length % 256 := by
  intro at_
  have := r.key.day.isLt
  have := r.full.toNat_le
  have := r.ownReading.isSome.toNat_le
  have := r.action.code_lt
  have := r.stateAtClose.code_lt
  have := r.edgeSender.isLt
  have := (BitVec.ofInt 32 (r.ownReading.getD 0)).isLt
  have := (BitVec.ofInt 32 r.midpoint).isLt
  have := (BitVec.ofInt 32 r.correction).isLt
  have small : (if r.edge.isSome then r.edgeSender.val else 0) < 256 := by split <;> omega
  simp only [at_, roundHead, bitAt_eq]
  refine ⟨⟨?_, ?_⟩, ?_, ?_, ?_, ?_, ?_, ?_, ?_, ?_, ?_⟩
  all_goals simp only [fieldAt_first, fieldAt_past, fieldAt_right, optStampBytes_length, Nat.reduceLeDiff, Nat.reduceSub,
    fieldAt_beBytes]
  all_goals omega

theorem fieldAt_roundEdge (r : ClosedRound) (q n : Nat) (inside : q + n ≤ 8) :
    fieldAt (roundHead r) (7 + q) n = fieldAt (optStampBytes r.edge) q n := by
  rw [roundHead, fieldAt_past _ _ _ _ _ (by omega), fieldAt_past _ _ _ _ _ (by omega), fieldAt_past _ _ _ _ _ (by omega),
    fieldAt_past _ _ _ _ _ (by omega), fieldAt_left _ _ _ _ (by rw [optStampBytes_length]; omega),
    show 7 + q - 2 - 3 - 1 - 1 = q by omega]

theorem optStampBytes_fields (t : Stamp) :
    fieldAt (optStampBytes (some t)) 0 2 = t.date.day.toNat ∧ fieldAt (optStampBytes (some t)) 2 5 = t.date.us % 2 ^ 40
      ∧ fieldAt (optStampBytes (some t)) 7 1 = t.quality.code := by
  have := t.date.day.isLt
  have := t.quality.code_lt
  simp only [optStampBytes, stampBytes, dateBytes, List.append_assoc]
  refine ⟨?_, ?_, ?_⟩
  all_goals simp only [fieldAt_first, fieldAt_past, Nat.reduceLeDiff, Nat.reduceSub, fieldAt_beBytes]
  all_goals omega

end Sys2Proof.Machine
end

section
namespace Sys2Proof.Machine

/-! ### The parts of READ STATUS -/

theorem SupplyState.code_lt (x : SupplyState) : x.code < 4 := by cases x <;> simp [SupplyState.code]

theorem NodeState.code_lt (x : NodeState) : x.code < 3 := by cases x <;> simp [NodeState.code]

theorem RunState.code_lt (x : RunState) : x.code < 3 := by cases x <;> simp [RunState.code]

theorem PostState.code_lt (x : PostState) : x.code < 4 := by cases x <;> simp [PostState.code]

theorem PressKey.code_lt (x : PressKey) : x.code < 2 := by cases x <;> simp [PressKey.code]

theorem StoreArea.code_lt (x : StoreArea) : x.code < 4 := by cases x <;> simp [StoreArea.code]

theorem SpeedPhase.code_lt (x : SpeedPhase) : x.code < 3 := by cases x <;> simp [SpeedPhase.code]

theorem capped_toNat (w n : Nat) : (capped w n).toNat = min n (2 ^ w - 1) := by
  unfold capped
  split
  · next lt =>
    rw [BitVec.toNat_ofNat, Nat.mod_eq_of_lt lt]
    omega
  · next ge =>
    rw [BitVec.toNat_allOnes]
    omega

section
variable (s : State)

/-- Bytes 0 to 18: line counters and clock. -/
theorem statusData_lineClock :
    let at_ := fieldAt (statusData s)
    let c := s.lif.counters
    (at_ 0 2 = c.intact.toNat ∧ at_ 2 2 = c.checkErrors.toNat ∧ at_ 4 2 = c.formErrors.toNat ∧ at_ 6 2 = c.unheard.toNat
        ∧ at_ 8 2 = c.arbitration.toNat ∧ at_ 10 2 = c.displaced.toNat ∧ at_ 12 2 = c.lateMarks.toNat)
      ∧ (at_ 14 1 = (s.clock.valid.toNat + 2 * s.clu.monitor.isLocked.toNat + 4 * s.clu.monitor.count) % 256
        ∧ at_ 15 4 = (BitVec.ofInt 32 s.clu.p).toNat) := by
  intro at_ c
  have := s.lif.counters.intact.isLt
  have := s.lif.counters.checkErrors.isLt
  have := s.lif.counters.formErrors.isLt
  have := s.lif.counters.unheard.isLt
  have := s.lif.counters.arbitration.isLt
  have := s.lif.counters.displaced.isLt
  have := s.lif.counters.lateMarks.isLt
  have := (BitVec.ofInt 32 s.clu.p).isLt
  simp only [at_, c, statusAt_line, statusAt_clock, Nat.reduceAdd, Nat.reduceLeDiff, Nat.reduceSub, statusLine, statusClock,
    List.flatMap_cons, List.flatMap_nil, List.append_nil, beInt, Nat.reduceMul, bitAt_eq]
  refine ⟨⟨?_, ?_, ?_, ?_, ?_, ?_, ?_⟩, ?_, ?_⟩
  all_goals simp only [fieldAt_first, fieldAt_past, Nat.reduceLeDiff, Nat.reduceSub, fieldAt_beBytes]
  all_goals omega

/-- Bytes 19 to 24: the inputs. -/
theorem statusData_inputs (n : InputNo) :
    (fieldAt (statusData s) 19 2).testBit n.val = (s.input n).level.isSome
      ∧ (fieldAt (statusData s) 21 2).testBit n.val = decide ((s.input n).level = some true)
      ∧ (fieldAt (statusData s) 23 2).testBit n.val = (s.input n).locked := by
  simp only [statusAt_inputs, Nat.reduceAdd, Nat.reduceLeDiff, Nat.reduceSub, statusInputs, List.append_assoc, fieldAt_first,
    fieldAt_past, fieldAt_beBytes, fieldAt_inputMask, and_self]

/-- Bytes 25 to 34: the Event Queue. -/
theorem statusData_queue :
    let at_ := fieldAt (statusData s)
    at_ 25 2 = s.evq.records.length % 65536 ∧ at_ 27 2 = s.evq.nextSeq.toNat ∧ at_ 29 1 = s.evq.openOverflow.isSome.toNat
      ∧ (∀ o, s.evq.openOverflow = some o → at_ 30 2 = o.seq.toNat ∧ at_ 32 3 = o.lostCount.toNat) := by
  intro at_
  have := s.evq.nextSeq.isLt
  simp only [at_, statusAt_queue, Nat.reduceAdd, Nat.reduceLeDiff, Nat.reduceSub, statusQueue, List.append_assoc]
  refine ⟨?_, ?_, ?_, fun o opened => ?_⟩
  · exact fieldAt_first 2 _ _
  · simp only [fieldAt_first, fieldAt_past, Nat.reduceLeDiff, Nat.reduceSub]
    omega
  · cases s.evq.openOverflow
    all_goals simp [fieldAt_first, fieldAt_past]
    rfl
  · have := o.seq.isLt
    have := o.lostCount.isLt
    simp only [opened, fieldAt_first, fieldAt_past, Nat.reduceLeDiff, Nat.reduceSub, fieldAt_beBytes]
    omega

/-- Byte 35: the cascade flags and the stop's. -/
theorem statusData_flags :
    fieldAt (statusData s) 35 1 = (match s.csu.current with
        | none => 0
        | some o => 1 + 2 * o.cascade.doubtful.toNat + 4 * o.cascade.full.toNat + 8 * o.cascade.late.toNat)
      + 16 * s.csu.slot.isSome.toNat + 32 * s.reportedStop.isSome.toNat
      + (match s.reportedStop with
        | some ⟨_, _, .awaitingClose _ _⟩ => 64
        | some ⟨_, _, .waiting _⟩ | none => 0) := by
  have awaits : (match s.reportedStop with
      | some ⟨_, _, .awaitingClose _ _⟩ => 64
      | some ⟨_, _, .waiting _⟩ | none => 0) = 64 * (s.reportedStop.any Stop.awaitsClose).toNat := by
    rcases s.reportedStop with _ | ⟨_, _, _ | _⟩ <;> rfl
  have := s.csu.slot.isSome.toNat_le
  have := s.reportedStop.isSome.toNat_le
  have := (s.reportedStop.any Stop.awaitsClose).toNat_le
  rw [statusAt_flags, awaits, statusCascadeFlags, bitAt_eq, bitAt_eq, bitAt_eq]
  cases s.csu.current with
  | none => dsimp only; omega
  | some o =>
    have flags : cascadeFlags o.cascade = o.cascade.doubtful.toNat + 2 * o.cascade.full.toNat + 4 * o.cascade.late.toNat := by
      simp [cascadeFlags, bitAt_eq]
    have := o.cascade.doubtful.toNat_le
    have := o.cascade.full.toNat_le
    have := o.cascade.late.toNat_le
    dsimp only
    omega

/-- Bytes 36 to 60: the open cascade, the slot, the list and the counters. -/
theorem statusData_cascades :
    let at_ := fieldAt (statusData s)
    (s.csu.current = none → at_ 36 8 = 0 ∧ at_ 44 4 = 0)
      ∧ (∀ o, s.csu.current = some o →
          at_ 36 2 = o.cascade.opening.date.day.toNat ∧ at_ 38 5 = o.cascade.opening.date.us % 2 ^ 40
            ∧ at_ 43 1 = o.cascade.opening.quality.code ∧ at_ 44 1 = o.cascade.opener.val
            ∧ at_ 45 1 = o.cascade.members.length % 256 ∧ at_ 46 2 = (o.closeAt - s.time.elapsed) / 1000 % 65536)
      ∧ (s.csu.slot = none → at_ 48 8 = 0)
      ∧ (∀ m, s.csu.slot = some m →
          at_ 48 1 = 16 * m.node.val + m.input.val ∧ at_ 49 2 = m.stamp.date.day.toNat ∧ at_ 51 5 = m.stamp.date.us % 2 ^ 40)
      ∧ (at_ 56 1 = s.csu.list.length % 256 ∧ at_ 57 2 = s.csu.stray.toNat ∧ at_ 59 2 = s.csu.lost.toNat) := by
  intro at_
  simp only [at_, statusAt_cascade, statusAt_cascades, Nat.reduceAdd, Nat.reduceLeDiff, Nat.reduceSub]
  refine ⟨fun shut => ?_, fun o opened => ?_, fun free => ?_, fun m held => ?_, ?_⟩
  · rw [statusOpenCascade, shut]
    exact ⟨rfl, rfl⟩
  · have := o.cascade.opening.date.day.isLt
    have := o.cascade.opening.quality.code_lt
    have := o.cascade.opener.isLt
    simp only [statusOpenCascade, opened, stampBytes, dateBytes, List.append_assoc, msLeft]
    refine ⟨?_, ?_, ?_, ?_, ?_, ?_⟩
    all_goals simp only [fieldAt_first, fieldAt_past, Nat.reduceLeDiff, Nat.reduceSub, fieldAt_beBytes]
    all_goals omega
  · simp [statusCascades, free, fieldAt_first]
  · have := m.stamp.date.day.isLt
    have place := nodeInputByte_lt m.node m.input
    simp only [nodeInputByte] at place
    simp only [statusCascades, held, dateBytes, List.append_assoc, nodeInputByte]
    refine ⟨?_, ?_, ?_⟩
    all_goals simp only [fieldAt_first, fieldAt_past, Nat.reduceLeDiff, Nat.reduceSub]
    all_goals omega
  · have := s.csu.stray.isLt
    have := s.csu.lost.isLt
    simp only [statusCascades, dateBytes, List.append_assoc]
    cases s.csu.slot
    all_goals
      simp only [List.append_assoc, fieldAt_first, fieldAt_past, Nat.reduceLeDiff, Nat.reduceSub, fieldAt_beBytes]
      omega

/-- Bytes 61 to 70: the stop. -/
theorem statusData_stop :
    let at_ := fieldAt (statusData s)
    (s.reportedStop = none → at_ 61 8 = 0 ∧ at_ 69 2 = 0)
      ∧ (∀ x, s.reportedStop = some x →
          at_ 61 2 = x.stamp.date.day.toNat ∧ at_ 63 5 = x.stamp.date.us % 2 ^ 40 ∧ at_ 68 1 = x.stamp.quality.code
            ∧ at_ 69 2 = (match x.phase with
              | .waiting deadline => (deadline - s.time.elapsed) / 1000 % 65536
              | .awaitingClose _ _ => 0)) := by
  intro at_
  simp only [at_, statusAt_stop, Nat.reduceAdd, Nat.reduceLeDiff, Nat.reduceSub]
  refine ⟨fun free => ?_, fun x waits => ?_⟩
  · rw [statusStop, free]
    exact ⟨rfl, rfl⟩
  · have := x.stamp.date.day.isLt
    have := x.stamp.quality.code_lt
    simp only [statusStop, waits, stampBytes, dateBytes, List.append_assoc]
    refine ⟨?_, ?_, ?_, ?_⟩
    all_goals simp only [fieldAt_first, fieldAt_past, Nat.reduceLeDiff, Nat.reduceSub, fieldAt_beBytes]
    case refine_4 => cases x.phase <;> rfl
    all_goals omega

/-- Bytes 71 to 82: the Speed Unit and the run state. -/
theorem statusData_run :
    let at_ := fieldAt (statusData s)
    at_ 71 1 = (match s.spu.phase with
        | .noEdge => 0
        | .firstPeriod _ => 1
        | .measuring _ => 2) + 4 * s.spu.silent.toNat
      ∧ (at_ 72 4 = s.spu.speed % 2 ^ 32 ∧ at_ 76 3 = s.spu.lastPeriod.getD 0 % 2 ^ 24 ∧ at_ 79 2 = s.spu.pulsesLast % 65536
        ∧ at_ 81 1 = s.spu.revPulses % 256)
      ∧ (s.cfg.unitRole = false → at_ 82 1 = 0)
      ∧ (s.cfg.unitRole = true →
          at_ 82 1 = s.run.state.code + 4 * s.run.breakerClosed.toNat + 8 * s.run.turning.toNat
            + 16 * s.run.initialPhase.toNat + 32 * s.run.speedSilent.toNat) := by
  intro at_
  have phase : (match s.spu.phase with
      | .noEdge => 0
      | .firstPeriod _ => 1
      | .measuring _ => 2) = s.spu.phase.code := by cases s.spu.phase <;> rfl
  have := s.spu.phase.code_lt
  have := s.spu.silent.toNat_le
  have := s.run.state.code_lt
  have := s.run.breakerClosed.toNat_le
  have := s.run.turning.toNat_le
  have := s.run.initialPhase.toNat_le
  have := s.run.speedSilent.toNat_le
  rw [phase]
  simp only [at_, statusAt_speed, statusAt_run, Nat.reduceAdd, Nat.reduceLeDiff, Nat.reduceSub, statusSpeed, statusRun, bitAt_eq,
    List.append_assoc]
  refine ⟨?_, ⟨?_, ?_, ?_, ?_⟩, fun post => ?_, fun unit => ?_⟩
  case refine_6 => simp [post, reportedOn]
  case refine_7 =>
    simp only [unit, reportedOn, if_true, fieldAt_beBytes]
    omega
  all_goals simp only [fieldAt_first, fieldAt_past, Nat.reduceLeDiff, Nat.reduceSub, fieldAt_beBytes]
  all_goals omega

/-- Bytes 116 to 135: the Supply Monitor, the store check, the node. -/
theorem statusData_supplyNode :
    let at_ := fieldAt (statusData s)
    (at_ 116 1 = s.sup.state.code + 4 * s.sup.nodeStateAtReset.code + 16 * s.sup.creditMark.toNat
          + 32 * s.sup.firstFailure.isSome.toNat + 64 * s.sup.failureOverflow.toNat
        ∧ (s.sup.firstFailure = none → at_ 117 2 = 0)
        ∧ (∀ area index, s.sup.firstFailure = some (area, index) → at_ 117 1 = area.code ∧ at_ 118 1 = index % 256)
        ∧ at_ 119 4 = min (s.sup.outageUs / 100000) 4294967295 ∧ at_ 123 2 = s.chk.passes.toNat)
      ∧ (at_ 125 1 = s.lpt.nodeState.code + 4 * s.cfg.unitRole.toNat + 8 * s.cfg.postRole.toNat + 16 * s.lif.lineSpeed.toNat
        ∧ at_ 126 1 = s.lif.nodeNumber.val ∧ at_ 127 2 = s.atl.flags.toNat ∧ at_ 129 2 = s.cfg.enableMask.toNat
        ∧ at_ 131 2 = s.cfg.mapA.toNat ∧ at_ 133 2 = s.cfg.mapB.toNat ∧ at_ 135 1 = 0) := by
  intro at_
  have := s.sup.state.code_lt
  have := s.sup.nodeStateAtReset.code_lt
  have := s.sup.creditMark.toNat_le
  have := s.sup.firstFailure.isSome.toNat_le
  have := s.sup.failureOverflow.toNat_le
  have := s.chk.passes.isLt
  have := s.lpt.nodeState.code_lt
  have := s.cfg.unitRole.toNat_le
  have := s.cfg.postRole.toNat_le
  have := s.lif.lineSpeed.isLt
  have := s.lif.nodeNumber.isLt
  have := s.atl.flags.isLt
  have := s.cfg.enableMask.isLt
  have := s.cfg.mapA.isLt
  have := s.cfg.mapB.isLt
  have outage : s.sup.outageTenths.toNat = min (s.sup.outageUs / 100000) 4294967295 := capped_toNat 32 _
  simp only [at_, statusAt_supply, statusAt_node, statusAt_last, Nat.reduceAdd, Nat.reduceLeDiff, Nat.reduceSub, statusSupply,
    statusNode, bitAt_eq, List.append_assoc, List.flatMap_cons, List.flatMap_nil, List.append_nil, outage]
  refine ⟨⟨?_, fun sound => ?_, fun area index failed => ?_, ?_, ?_⟩, ?_, ?_, ?_, ?_, ?_, ?_, ?_⟩
  case refine_2 => simp [sound, fieldAt_past, fieldAt_first]
  case refine_3 =>
    have := area.code_lt
    simp only [failed, List.append_assoc, fieldAt_first, fieldAt_past, Nat.reduceLeDiff, Nat.reduceSub]
    omega
  case refine_4 | refine_5 =>
    cases s.sup.firstFailure
    all_goals simp only [List.append_assoc, fieldAt_first, fieldAt_past, Nat.reduceLeDiff, Nat.reduceSub, fieldAt_beBytes]
    all_goals omega
  all_goals simp only [fieldAt_first, fieldAt_past, Nat.reduceLeDiff, Nat.reduceSub, fieldAt_beBytes]
  all_goals omega

/-- A key as Table 12-10 shows it: its day and its boundary index, and boundary index FFh where there is none. -/
def ShowsKey (at_ : Nat → Nat → Nat) (p : Nat) (o : Option ShiftKey) : Prop :=
  (o = none → at_ p 3 = 0x0000FF) ∧ ∀ k, o = some k → at_ p 2 = k.day.toNat ∧ at_ (p + 2) 1 = k.index % 256

theorem ShowsKey.of_optKeyBytes {at_ : Nat → Nat → Nat} {p : Nat} {o : Option ShiftKey}
    (shown : ∀ q n, q = 0 ∧ n = 3 ∨ q = 0 ∧ n = 2 ∨ q = 2 ∧ n = 1 → at_ (p + q) n = fieldAt (optKeyBytes o) q n) :
    ShowsKey at_ p o := by
  refine ⟨fun none => ?_, fun k some => ?_⟩
  · rw [show at_ p 3 = _ from shown 0 3 (by simp), none, optKeyBytes_none]
  · obtain ⟨day, index⟩ := optKeyBytes_some k
    rw [show at_ p 2 = _ from shown 0 2 (by simp), shown 2 1 (by simp), some]
    exact ⟨day, index⟩

/-- Bytes 83 to 85: the last shift moment reached. -/
theorem statusData_reached : ShowsKey (fieldAt (statusData s)) 83 s.shu.lastReached := by
  refine .of_optKeyBytes fun q n inside => ?_
  rw [statusAt_reached (by omega) (by omega), Nat.add_sub_cancel_left]

/-- Bytes 86 to 115 of a node that is no post. -/
theorem statusData_noPost (noPost : s.cfg.postRole = false) : fieldAt (statusData s) 86 30 = 0 := by
  rw [statusAt_post (by omega) (by omega), statusPost, noPost]
  simp [reportedOn]

/-- The post's items, a value and its rest. -/
theorem statusPost_eq (post : s.cfg.postRole = true) :
    statusPost s = beBytes 1 (statusMode s) ++ (optKeyBytes s.target ++ (beBytes 3 s.graceSeconds
      ++ (beBytes 3 s.pairingLeft ++ (optKeyBytes s.lastAccepted ++ (optKeyBytes s.shu.lastCreated
      ++ (optKeyBytes (s.shu.heldResult.map Prod.fst) ++ (beBytes 1 s.shu.records.length ++ (beBytes 2 (statusCodes s.shu.records)
      ++ (beBytes 2 s.shu.unused.toNat ++ (beBytes 2 s.shu.unmatched.toNat ++ (beBytes 2 s.shu.repeated.toNat
      ++ beBytes 2 s.shu.lostRecords.toNat))))))))))) := by
  simp [statusPost, post, reportedOn]

theorem statusPost_numbers (post : s.cfg.postRole = true) :
    let at_ := fieldAt (statusPost s)
    at_ 0 1 = statusMode s % 256 ∧ at_ 4 3 = s.graceSeconds % 2 ^ 24 ∧ at_ 7 3 = s.pairingLeft % 2 ^ 24
      ∧ at_ 19 1 = s.shu.records.length % 256 ∧ at_ 20 2 = statusCodes s.shu.records % 2 ^ (8 * 2)
      ∧ at_ 22 2 = s.shu.unused.toNat ∧ at_ 24 2 = s.shu.unmatched.toNat ∧ at_ 26 2 = s.shu.repeated.toNat
      ∧ at_ 28 2 = s.shu.lostRecords.toNat := by
  intro at_
  have := s.shu.unused.isLt
  have := s.shu.unmatched.isLt
  have := s.shu.repeated.isLt
  have := s.shu.lostRecords.isLt
  simp only [at_, statusPost_eq s post]
  refine ⟨?_, ?_, ?_, ?_, ?_, ?_, ?_, ?_, ?_⟩
  all_goals simp only [fieldAt_first, fieldAt_past, fieldAt_right, optKeyBytes_length, Nat.reduceLeDiff, Nat.reduceSub,
    fieldAt_beBytes]
  all_goals omega

theorem statusPost_keys (post : s.cfg.postRole = true) :
    let at_ := fieldAt (statusPost s)
    ShowsKey at_ 1 s.target ∧ ShowsKey at_ 10 s.lastAccepted ∧ ShowsKey at_ 13 s.shu.lastCreated
      ∧ ShowsKey at_ 16 (s.shu.heldResult.map Prod.fst) := by
  intro at_
  simp only [at_, statusPost_eq s post]
  refine ⟨.of_optKeyBytes ?_, .of_optKeyBytes ?_, .of_optKeyBytes ?_, .of_optKeyBytes ?_⟩
  all_goals
    rintro q n (⟨rfl, rfl⟩ | ⟨rfl, rfl⟩ | ⟨rfl, rfl⟩)
    all_goals simp only [fieldAt_left, fieldAt_past, fieldAt_right, optKeyBytes_length, Nat.reduceLeDiff, Nat.reduceSub,
      Nat.reduceAdd, Nat.le_refl]

/-- The left fields of the status data of a post are the fields of its items. -/
theorem statusData_postKey {p q : Nat} {o : Option ShiftKey} (shown : ShowsKey (fieldAt (statusPost s)) q o) (place : p = 86 + q)
    (inside : q ≤ 27) : ShowsKey (fieldAt (statusData s)) p o := by
  obtain ⟨absent, present⟩ := shown
  have moved : ∀ r n, r + n ≤ 30 → fieldAt (statusData s) (86 + r) n = fieldAt (statusPost s) r n := fun r n fits => by
    rw [statusAt_post (by omega) (by omega), Nat.add_sub_cancel_left]
  subst place
  refine ⟨fun none => ?_, fun k some => ?_⟩
  · rw [moved _ _ (by omega), absent none]
  · rw [moved _ _ (by omega), Nat.add_assoc, moved _ _ (by omega)]
    exact present k some

/-- Bytes 86 to 115 of a post. -/
theorem statusData_post (post : s.cfg.postRole = true) :
    let at_ := fieldAt (statusData s)
    (s.shu.held = none → at_ 86 1 = s.shu.mode.code ∧ at_ 93 3 = 0)
      ∧ (∀ p, s.shu.held = some p → at_ 86 1 = s.shu.mode.code + 4 + 8 * p.key.code
        ∧ at_ 93 3 = (p.since + s.cfg.pairingS * 1000000 - s.time.elapsed) / 1000 % 2 ^ 24)
      ∧ ShowsKey at_ 87 s.target
      ∧ (s.shu.grace = none → at_ 90 3 = 0)
      ∧ (∀ t, s.shu.grace = some t →
        at_ 90 3 = (t.base + ((s.time.elapsed - t.since : Nat) : Int)).toNat / 1000000 % 2 ^ 24)
      ∧ ShowsKey at_ 96 s.lastAccepted ∧ ShowsKey at_ 99 s.shu.lastCreated ∧ ShowsKey at_ 102 (s.shu.heldResult.map Prod.fst)
      ∧ at_ 105 1 = s.shu.records.length % 256
      ∧ (∀ i, i < 8 → at_ 106 2 / 4 ^ i % 4 = (match s.shu.records[i]? with
        | none => 0
        | some x => x.status.code))
      ∧ at_ 108 2 = s.shu.unused.toNat ∧ at_ 110 2 = s.shu.unmatched.toNat ∧ at_ 112 2 = s.shu.repeated.toNat
      ∧ at_ 114 2 = s.shu.lostRecords.toNat := by
  intro at_
  have := s.shu.mode.code_lt
  obtain ⟨mode, grace, pairing, count, codes, unused, unmatched, repeated, lost⟩ := statusPost_numbers s post
  obtain ⟨target, accepted, created, held⟩ := statusPost_keys s post
  have inPost : ∀ p n, 86 ≤ p → p + n ≤ 116 → at_ p n = fieldAt (statusPost s) (p - 86) n := fun p n => statusAt_post
  rw [inPost 86 1 (by omega) (by omega), inPost 90 3 (by omega) (by omega), inPost 93 3 (by omega) (by omega),
    inPost 105 1 (by omega) (by omega), inPost 106 2 (by omega) (by omega), inPost 108 2 (by omega) (by omega),
    inPost 110 2 (by omega) (by omega), inPost 112 2 (by omega) (by omega), inPost 114 2 (by omega) (by omega)]
  simp only [Nat.reduceSub, mode, grace, pairing, count, codes, unused, unmatched, repeated, lost, and_true, true_and]
  refine ⟨fun free => ?_, fun p holds => ?_, statusData_postKey s target rfl (by omega), fun stopped => ?_, fun t runs => ?_,
    statusData_postKey s accepted rfl (by omega), statusData_postKey s created rfl (by omega),
    statusData_postKey s held rfl (by omega), fun i low => statusCodes_digit_mod _ low⟩
  · simp only [statusMode, State.pairingLeft, free]
    omega
  · have := p.key.code_lt
    simp only [statusMode, State.pairingLeft, holds, msLeft, and_true]
    omega
  · simp only [State.graceSeconds, stopped, Nat.zero_mod]
  · simp only [State.graceSeconds, runs, Timer.value]

end

/-! ### The reads -/

section
variable {s : State}

theorem State.done_eq (s : State) (c : CommandCode) (data : List Byte) : s.done c data = s.respond ([0x01#8, c.byte] ++ data) := rfl

theorem State.readRoundCommand_none (shut : s.clu.lastClosed = none) : s.readRoundCommand = s.empty .readRound := by
  rw [State.readRoundCommand, shut]

theorem State.readRoundCommand_some {r : ClosedRound} (closed : s.clu.lastClosed = some r) :
    s.readRoundCommand = s.done .readRound (roundData r) := by
  rw [State.readRoundCommand, closed]

theorem State.readShiftCommand_past {n : Nat} (high : 3 < n) : s.readShiftCommand n = s.refuse .readShift .range := if_pos high

theorem State.readShiftCommand_none {n : Nat} (low : n ≤ 3) (free : s.tallies.unitShifts[n]? = none) :
    s.readShiftCommand n = s.empty .readShift := by
  rw [State.readShiftCommand, if_neg (by omega), free]

theorem State.readShiftCommand_some {n : Nat} {u : UnitShift} (low : n ≤ 3) (listed : s.tallies.unitShifts[n]? = some u) :
    s.readShiftCommand n = s.done .readShift (unitShiftBytes u u.corrupt) := by
  rw [State.readShiftCommand, if_neg (by omega), listed]

end

/-- Settles O17, part by part: the answers, the layout of each part of READ STATUS, and the layouts of the other three. -/
theorem readsAnswer : Obligations.ReadsAnswer := by
  refine ⟨?_, ?_, ⟨rfl, rfl, rfl, rfl, rfl, rfl, rfl⟩, ?_, ?_, ?_⟩
  · intro w s a answered opened
    have by_row : ∀ {row : Instr} {f : State → State} {bytes : List Byte}, exec row s = .next (a.viaPort f).finish →
        f a = a.respond bytes → exec row s = .next (answered bytes) := by
      intro row bytes f is same
      rw [is, State.viaPort_open opened, same]
      rfl
    have status : exec (.readStatus w) s = .next (a.viaPort State.readStatusCommand).finish := rfl
    have tally : exec (.readTally w) s = .next (a.viaPort State.readTallyCommand).finish := rfl
    have round : exec (.readRound w) s = .next (a.viaPort State.readRoundCommand).finish := rfl
    have shift : ∀ n : Byte, exec (.readShift w n) s = .next (a.viaPort (State.readShiftCommand n.toNat)).finish := fun _ => rfl
    exact ⟨by_row status (State.done_eq ..), statusData_length a, by_row tally (State.done_eq ..), tallyData_length _ _,
      fun shut => by_row round (State.readRoundCommand_none shut), fun r closed => by_row round (State.readRoundCommand_some closed),
      fun n high => by_row (shift n) (State.readShiftCommand_past high),
      fun n low free => by_row (shift n) (State.readShiftCommand_none low free),
      fun n u low listed => ⟨by_row (shift n) (State.readShiftCommand_some low listed), unitShiftBytes_length u _⟩⟩
  · intro s at_ c stop showsKey
    obtain ⟨line, clock⟩ := statusData_lineClock s
    obtain ⟨shut, opened, free, held, lists⟩ := statusData_cascades s
    obtain ⟨noStop, aStop⟩ := statusData_stop s
    obtain ⟨phase, speed, noUnit, unit⟩ := statusData_run s
    obtain ⟨supply, node⟩ := statusData_supplyNode s
    exact ⟨line, clock, statusData_inputs s, statusData_queue s, statusData_flags s, shut, opened, free, held, lists, noStop, aStop,
      phase, speed, noUnit, unit, statusData_reached s, statusData_noPost s, statusData_post s, supply, node⟩
  · intro t unused at_ f b
    obtain ⟨fields, flags, baseline, amounts, count, handovers⟩ := tallyData_fields t unused
    have key : ShowsKey at_ 75 t.lastClosed := .of_optKeyBytes fun q n inside => fieldAt_tallyKey t unused q n (by omega)
    exact ⟨fields, flags, baseline, amounts, key.1, key.2, count, handovers⟩
  · intro u at_
    obtain ⟨key, amounts, flags⟩ := unitShiftBytes_fields u
    have accepted : ∀ q n, at_ (26 + q) n = fieldAt (acceptanceBytes u.acceptance) q n := fieldAt_acceptance u
    refine ⟨key, amounts, flags, fun none => ?_, fun x some => ?_⟩
    · rw [show at_ 26 12 = _ from accepted 0 12, none]
      simp [acceptanceBytes]
    · obtain ⟨outcome, day, us, quality, due, post⟩ := acceptanceBytes_fields x
      rw [show at_ 26 1 = _ from accepted 0 1, show at_ 27 2 = _ from accepted 1 2, show at_ 29 5 = _ from accepted 3 5,
        show at_ 34 1 = _ from accepted 8 1, show at_ 35 2 = _ from accepted 9 2, show at_ 37 1 = _ from accepted 11 1, some]
      exact ⟨outcome, day, us, quality, due, post⟩
  · intro r at_
    obtain ⟨key, flags, state, sender, reading, used, trim, midpoint, correction, count⟩ := roundHead_fields r
    have head : ∀ p n, p + n ≤ 31 → at_ p n = fieldAt (roundHead r) p n := fieldAt_roundHead r
    have edgeAt : ∀ q n, q + n ≤ 8 → at_ (7 + q) n = fieldAt (optStampBytes r.edge) q n := fun q n inside =>
      (head _ _ (by omega)).trans (fieldAt_roundEdge r q n inside)
    rw [← head _ _ (by omega)] at flags state sender reading used trim midpoint correction count
    rw [← head _ _ (by omega), ← head _ _ (by omega)] at key
    refine ⟨key, flags, state, fun none => ?_, fun e some => ?_, reading, used, trim, midpoint, correction, count,
      roundData_length r, fun i e found => ?_⟩
    · rw [show at_ 7 8 = _ from edgeAt 0 8 (by omega), sender, none]
      exact ⟨rfl, rfl⟩
    · obtain ⟨day, us, quality⟩ := optStampBytes_fields e
      rw [show at_ 7 2 = _ from edgeAt 0 2 (by omega), show at_ 9 5 = _ from edgeAt 2 5 (by omega),
        show at_ 14 1 = _ from edgeAt 7 1 (by omega), sender, some]
      exact ⟨day, us, quality, rfl⟩
    · obtain ⟨node, status, day, second, reading, sender, disposition⟩ := roundEntryBytes_fields e
      have entry : ∀ q n, q + n ≤ 13 → at_ (31 + 13 * i + q) n = fieldAt (roundEntryBytes e) q n := fieldAt_roundEntry found
      intro p
      rw [show at_ p 1 = _ from entry 0 1 (by omega), entry 1 1 (by omega), entry 2 2 (by omega), entry 4 3 (by omega),
        entry 7 4 (by omega), entry 11 1 (by omega), entry 12 1 (by omega)]
      exact ⟨node, status, day, second, reading, sender, disposition⟩

end Sys2Proof.Machine
end

section
/-! The Station Line: the view, the stuck line and the ends of a frame (R6, R9 to R19). -/

namespace Sys2Proof.Machine

/-! ### Conditions of the rows -/

section
variable {s : State}

theorem State.when_of {condition : Bool} {effect : State} (holds : condition = true) : s.when condition effect = effect := if_pos holds

theorem State.when_not {condition : Bool} {effect : State} (fails : condition = false) : s.when condition effect = s := by
  rw [fails]
  rfl

theorem State.sees_of {v : LineView} (working : s.working = true) (view : s.lif.view = v) : s.sees v = true := by
  simp [State.sees, working, view]

theorem State.not_sees {v : LineView} (other : s.lif.view ≠ v) : s.sees v = false := by
  simp [State.sees, other]

theorem State.highFor_of {us : Nat} (high : s.lif.highFrom + us ≤ s.time.elapsed) : s.highFor us = true := decide_eq_true high

theorem State.not_highFor {us : Nat} (low : s.time.elapsed < s.lif.highFrom + us) : s.highFor us = false :=
  decide_eq_false (by omega)

theorem State.ownGap_eq (s : State) : s.ownGap = 8 * (10 + s.lif.lineSpeed.toNat) := by
  simp only [State.ownGap, idleGapUs, bitPeriodUs, halfBitUs]
  omega

theorem State.receiving_of {st : Start} (working : s.working = true) (view : s.lif.view = .frame) (idle : s.lif.send = none)
    (start : s.lif.start = some st) : s.receiving = true := by
  simp [State.receiving, State.sees_of working view, idle, start]

theorem State.sendingFrame_of {snd : Send} (working : s.working = true) (view : s.lif.view = .frame) (sends : s.lif.send = some snd) :
    s.sendingFrame = true := by
  simp [State.sendingFrame, State.sees_of working view, sends]

theorem State.not_sendingFrame (idle : s.lif.send = none) : s.sendingFrame = false := by
  simp [State.sendingFrame, idle]

/-- One count at most for a frame (R17). -/
theorem State.countOnce_eq (s : State) (f : LineCounters → LineCounters) :
    s.countOnce f = { s with lif := { s.lif with
      counted := true
      counters := if s.lif.counted then s.lif.counters else f s.lif.counters } } := by
  unfold State.countOnce
  split
  · next counted =>
    conv => lhs; rw [show s = { s with lif := { s.lif with counted := s.lif.counted, counters := s.lif.counters } } from rfl, counted]
  · rfl

end

/-- Settles O22, row by row. -/
theorem lineViewMoves : Obligations.LineViewMoves := by
  intro w s a now gap quiet working
  have idleRow : ∀ high, exec (.lineIdle ⟨w, high⟩) s =
      .next (a.when (a.sees .quiet && a.idleAfter high) (a.lineIdle high)).finish := fun _ => rfl
  have abandonRow : ∀ matched, exec (.frameAbandoned ⟨w, matched⟩) s =
      .next (if a.sendingFrame then a.when (a.highFor nominalGapUs) (a.breakOwnFrame nominalGapUs)
        else a.when (a.receiving && a.highFor nominalGapUs) (a.abandonFrame matched)).finish := fun _ => rfl
  have startRow : exec (.startCondition w) s = .next (a.when (a.sees .idle) a.startSeen).finish := rfl
  have notStartRow : exec (.notAStart w) s = .next (a.when (a.sees .idle || a.sees .quiet) a.lineQuiet).finish := rfl
  have leftRow : exec (.lineStuckLeft w) s =
      .next (a.when (a.sees .stuck && a.highFor a.ownGap) (a.lineQuietAfter a.ownGap)).finish := rfl
  have ownGap : a.ownGap = gap := a.ownGap_eq
  refine ⟨fun high view long fits => ?_, fun high short => ?_, fun early matched => ?_, fun view => ?_, fun view => ?_,
    fun view fits => ?_, fun early => ?_, fun st matched view idle start fits => ?_⟩
  · have after : a.idleAfter high = true := by
      rw [State.idleAfter, State.highFor_of fits]
      simp [nominalGapUs, long]
    rw [idleRow, State.when_of (by rw [State.sees_of working view, after]; rfl)]
    rfl
  · have notAfter : a.idleAfter high = false := by
      obtain short | early := short
      · rw [State.idleAfter, decide_eq_false (by rw [nominalGapUs]; omega), Bool.false_and]
      · rw [State.idleAfter, State.not_highFor early, Bool.and_false]
    rw [idleRow, State.when_not (by rw [notAfter, Bool.and_false])]
  · have short : a.highFor nominalGapUs = false := State.not_highFor early
    rw [abandonRow, short, Bool.and_false]
    split
    all_goals rfl
  · rw [startRow, State.when_of (State.sees_of working view)]
    rfl
  · have seen : (a.sees .idle || a.sees .quiet) = true := by
      obtain view | view := view
      · rw [State.sees_of working view, Bool.true_or]
      · rw [State.sees_of working view, Bool.or_true]
    rw [notStartRow, State.when_of seen]
    rfl
  · rw [leftRow, ownGap, State.when_of (by rw [State.sees_of working view, State.highFor_of fits]; rfl)]
    rfl
  · rw [leftRow, ownGap, State.when_not (by rw [State.not_highFor early, Bool.and_false])]
  · have long : a.highFor nominalGapUs = true := State.highFor_of fits
    rw [abandonRow, State.not_sendingFrame idle, State.receiving_of working view idle start, long]
    exact congrArg (fun t : State => Host.Outcome.next (t.lineQuietAfter nominalGapUs).finish) (State.countOnce_eq _ _)

end Sys2Proof.Machine
end

section
/-! The Station Line: sends broken off and faulty frames (R10, R17, R19, R22). -/

namespace Sys2Proof.Machine

section
variable {s : State}

/-! ### A send broken off -/

theorem State.breakOffSend_eq {f : QueuedFrame} (frame : s.lif.frameInSend = some f) :
    let released (l : List QueuedFrame) : State := { s with lif := { s.lif with
      lclkDriven := false
      ldatDriven := false
      send := none
      joinable := false
      sendList := l } }
    s.breakOffSend = (if f.removalAsked
      then (released (s.lif.sendList.eraseP QueuedFrame.inSend)).reportEnd f.content .withdrawn
      else released (s.lif.sendList.map fun g => if g.inSend then { g with inSend := false } else g)).queueWaiting := by
  simp only [State.breakOffSend, frame]
  rfl

/-- The stuck line, from what is left of a frame or a send. -/
theorem State.enterStuck_eq (s : State) (matched : Bool) :
    let counted := if s.receiving then (s.acknowledged matched).countOnce LineCounters.addForm else s
    let broken := if counted.lif.send.isSome then counted.breakOffSend else counted
    s.enterStuck matched = { broken with
      lif := { broken.lif with
        view := .stuck
        start := none
        counted := false
        joinable := false
        highFrom := s.time.elapsed }
      atl := { broken.atl with flags := broken.atl.flags ||| Source.lineFault.mark } } := rfl

end

/-- Settles O23, by what the line was doing. -/
theorem lineSticks : Obligations.LineSticks := by
  intro w matched s a stuck released working unstuck
  have run : exec (.lineStuck ⟨w, matched⟩) s = .next (a.enterStuck matched).finish := by
    change Host.Outcome.next (a.when (a.working && !a.sees .stuck) (a.enterStuck matched)).finish = _
    rw [State.when_of (by rw [working, State.not_sees unstuck]; rfl)]
  refine ⟨fun idle view started => ?_, fun idle noFrame => ?_, fun snd f sends frame => ?_⟩
  · obtain ⟨st, start⟩ := Option.isSome_iff_exists.mp started
    have counted : ((a.acknowledged matched).countOnce LineCounters.addForm).lif.send = none := by
      rw [State.countOnce_eq]
      exact idle
    rw [run, State.enterStuck_eq, State.receiving_of working view idle start, if_pos rfl, counted, State.countOnce_eq]
    rfl
  · have silent : a.receiving = false := by
      obtain view | start := noFrame
      · rw [State.receiving, State.not_sees view, Bool.false_and, Bool.false_and]
      · rw [State.receiving, start, Option.isSome_none, Bool.and_false]
    rw [run, State.enterStuck_eq, silent, if_neg Bool.false_ne_true, idle]
    rfl
  · have silent : a.receiving = false := by simp [State.receiving, sends]
    rw [run, State.enterStuck_eq, silent, if_neg Bool.false_ne_true, sends, Option.isSome_some, if_pos rfl,
      State.breakOffSend_eq frame]
    refine ⟨fun kept => ?_, fun asked => ?_⟩
    · rw [kept]
      rfl
    · rw [asked]
      rfl

/-- Settles O26: both rows break the send off, one after counting the loss, the other after counting the frame. -/
theorem sendBreaksOff : Obligations.SendBreaksOff := by
  refine ⟨?_, frameBits_getElem⟩
  intro w bit s snd f a released broken working sends frame
  have sentBit : a.sentBit bit = (frameBits snd.bytes)[bit]? := by
    simp [State.sentBit, sends, working]
  have lossRow : exec (.arbitrationLoss w bit) s = .next (a.when (decide (a.sentBit bit = some true))
      (a.count fun c => { c with arbitration := satInc c.arbitration }).breakOffSend).finish := rfl
  have faultRow : exec (.driverFault w bit) s = .next (a.when (decide (a.sentBit bit = some false))
      (a.countOnce LineCounters.addForm).breakOffSend).finish := rfl
  refine ⟨fun one => ?_, fun zero => ?_⟩
  · rw [lossRow, State.when_of (decide_eq_true (sentBit.trans one)), State.breakOffSend_eq (f := f)]
    · rfl
    · exact frame
  · rw [faultRow, State.when_of (decide_eq_true (sentBit.trans zero)), State.countOnce_eq, State.breakOffSend_eq (f := f)]
    exact frame

/-! ### Faulty frames -/

theorem State.breakOffSend_elapsed (s : State) : s.breakOffSend.time.elapsed = s.time.elapsed := by simp

/-- Settles O30: a frame in reception by the cause; an own frame by whether the cause ends it. -/
theorem faultyFrameCounted : Obligations.FaultyFrameCounted := by
  refine ⟨?_, ?_⟩
  · intro w s st a after form working view idle start
    have receiving : a.receiving = true := State.receiving_of working view idle start
    have checkRow : ∀ header body check stopped, exec (.checkError w header body check stopped) s =
        .next (a.when (a.receiving && !a.lif.counted && checkDiffers header body check) (a.receiveWrong stopped)).finish :=
      fun _ _ _ _ => rfl
    have formRow : ∀ cause, causePossible cause = true →
        exec (.formError w cause) s = .next (a.receiveFaulty cause).finish := by
      intro cause possible
      change Host.Outcome.next (if a.sendingFrame then a.when (endsFrame cause) (a.breakOwnFrame 0)
        else a.when (a.receiving && causePossible cause) (a.receiveFaulty cause)).finish = _
      rw [State.not_sendingFrame idle, receiving, possible]
      rfl
    have open_ : ∀ c acked, ({ a with lif := { a.lif with
        counted := true, counters := c, acked := acked, joinable := false } } : State) = after c false acked := by
      intro c acked
      simp only [after, Bool.false_eq_true, if_false, Bool.not_false, view.symm]
    refine ⟨fun header body check stopped differs => ⟨fun fresh => ?_, fun counted => ?_⟩, fun header invalid => ?_, ?_,
      fun matched => ?_, ?_⟩
    · rw [checkRow, State.when_of (by rw [receiving, fresh, differs]; rfl), State.receiveWrong, State.countOnce_eq, fresh]
      cases stopped
      · exact congrArg (fun t : State => Host.Outcome.next t.finish) (open_ _ _)
      · rfl
    · rw [checkRow, State.when_not (by rw [counted, Bool.not_true, Bool.and_false, Bool.false_and])]
    · rw [formRow _ (by rw [causePossible, invalid]; rfl)]
      dsimp only [State.receiveFaulty]
      rw [State.countOnce_eq]
      exact congrArg (fun t : State => Host.Outcome.next t.finish) (open_ _ _)
    · rw [formRow _ rfl]
      dsimp only [State.receiveFaulty]
      rw [State.countOnce_eq]
      rfl
    · rw [formRow _ rfl]
      dsimp only [State.receiveFaulty]
      rw [State.countOnce_eq]
      rfl
    · rw [formRow _ rfl]
      dsimp only [State.receiveFaulty]
      rw [State.countOnce_eq, ← Bool.and_true a.active]
      exact congrArg (fun t : State => Host.Outcome.next t.finish) (open_ _ _)
  · intro w s snd f a released broken quiet working view sends frame
    have sending : a.sendingFrame = true := State.sendingFrame_of working view sends
    have formRow : ∀ cause, exec (.formError w cause) s = .next (a.when (endsFrame cause) (a.breakOwnFrame 0)).finish := by
      intro cause
      change Host.Outcome.next (if a.sendingFrame then a.when (endsFrame cause) (a.breakOwnFrame 0)
        else a.when (a.receiving && causePossible cause) (a.receiveFaulty cause)).finish = _
      rw [sending]
      rfl
    have breaks : ∀ high, a.breakOwnFrame high = quiet broken.queueWaiting (a.time.elapsed - high) := by
      intro high
      have off : (a.countOnce LineCounters.addForm).breakOffSend = broken.queueWaiting := by
        rw [State.countOnce_eq, State.breakOffSend_eq (f := f)]
        exact frame
      have now : broken.queueWaiting.time.elapsed = a.time.elapsed := by
        rw [← off, State.breakOffSend_elapsed, State.countOnce_eq]
      rw [State.breakOwnFrame, off, State.lineQuietAfter, now]
      rfl
    refine ⟨?_, fun matched => ?_, fun matched high => ?_, fun header => formRow _, formRow _⟩
    · rw [formRow, endsFrame, State.when_of rfl, breaks]
      rfl
    · rw [formRow, endsFrame, State.when_of rfl, breaks]
      rfl
    · change Host.Outcome.next (if a.sendingFrame then a.when (a.highFor nominalGapUs) (a.breakOwnFrame nominalGapUs)
        else a.when (a.receiving && a.highFor nominalGapUs) (a.abandonFrame matched)).finish = _
      rw [sending, if_pos rfl, State.when_of (State.highFor_of (us := nominalGapUs) high), breaks]
      rfl

end Sys2Proof.Machine
end

section
/-! The Station Line: the end of an attempt (R13 to R15, R22, R153). -/

namespace Sys2Proof.Machine

section
variable {s : State}

/-! ### The end of an attempt -/

theorem State.sending_of {snd : Send} {f : QueuedFrame} (working : s.working = true) (sends : s.lif.send = some snd)
    (frame : s.lif.frameInSend = some f) : s.sending = some (snd.start, f) := by
  simp [State.sending, sends, frame, working]

/-- The line back at QUIET with no send, as an attempt's end leaves it. -/
def State.sendOver (s : State) : State := { s with lif := s.lif.released.toQuiet s.time.elapsed }

theorem State.endAttempt_mark {f : QueuedFrame} {k : RoundKey} (content : f.content = .mark k) (start : Start) (heard : Bool) :
    s.endAttempt start f heard = (s.sendOver.markEnds k start heard).queueWaiting := by
  simp only [State.endAttempt, content]
  rfl

theorem State.endAttempt_other {f : QueuedFrame} (other : f.kind ≠ .mark) (start : Start) (heard : Bool) :
    s.endAttempt start f heard = (if heard then s.sendOver.removeSent.reportEnd f.content .heard
      else s.sendOver.unheardFrame f).queueWaiting := by
  unfold State.endAttempt
  cases content : f.content with
  | mark k => exact absurd (congrArg FrameContent.kind content) other
  | trip change input active => rfl
  | handover k o d due => rfl
  | tally k v => rfl

theorem State.unheardFrame_asked {f : QueuedFrame} (asked : f.removalAsked = true) :
    s.unheardFrame f = s.withdrawSent f.content := by simp [State.unheardFrame, asked]

theorem State.unheardFrame_again {f : QueuedFrame} (kept : f.removalAsked = false) (below : f.attempts + 1 < 3) :
    s.unheardFrame f =
      s.setSendList (mapInSend (fun g => { g with inSend := false, attempts := g.attempts + 1 }) s.lif.sendList) := by
  simp [State.unheardFrame, kept, below]

theorem State.unheardFrame_third {f : QueuedFrame} (kept : f.removalAsked = false) (third : 3 ≤ f.attempts + 1) :
    s.unheardFrame f =
      ((s.removeSent.count LineCounters.addUnheard).sendFailed f.content false).reportEnd f.content .notSent := by
  simp [State.unheardFrame, kept, Nat.not_lt.mpr third]

/-! ### The report of a HANDOVER frame's end -/

theorem State.reportEnd_other {c : FrameContent} (other : c.kind ≠ .handover) (own : OwnFrame) : s.reportEnd c own = s := by
  cases c with
  | handover k o d due => exact absurd rfl other
  | trip change input active => rfl
  | mark k => rfl
  | tally k v => rfl

theorem State.reportFrame_none {k : ShiftKey} {own : OwnFrame} (absent : s.shu.resultOf k = none) : s.reportFrame k own = s := by
  simp [State.reportFrame, absent]

theorem State.reportFrame_settled {k : ShiftKey} {own : OwnFrame} {r : Result} (result : s.shu.resultOf k = some r)
    (settled : r.own ≠ some .pending) : s.reportFrame k own = s := by
  simp [State.reportFrame, result, settled]

theorem State.reportFrame_pending {k : ShiftKey} {own : OwnFrame} {r : Result} (result : s.shu.resultOf k = some r)
    (pending : r.own = some .pending) : s.reportFrame k own =
      s.giveResult k { r with own := some own, settled := r.settled || decide (own = .heard ∨ own = .notSent) } := by
  simp [State.reportFrame, result, pending, Bool.or_assoc]

theorem State.giveResult_none {k : ShiftKey} {r : Result} (absent : s.shu.recordOf k = none) :
    s.giveResult k r = { s with shu := { s.shu with heldResult := some (k, r) } } := by
  simp [State.giveResult, absent]

theorem State.giveResult_some {k : ShiftKey} {r : Result} {x : StationRecord} (record : s.shu.recordOf k = some x) :
    s.giveResult k r = { s with
      shu := { s.shu with records := s.shu.records.map fun y => if y.key = k then y.give r else y }
      atl := { s.atl with flags := if x.status = .awaitingAcceptance ∧ r.settled = true
        then s.atl.flags ||| Source.stationShiftComplete.mark else s.atl.flags } } := by
  simp only [State.giveResult, record]
  by_cases completes : x.status = .awaitingAcceptance ∧ r.settled = true
  · simp [completes, Source.markIf]
  · have : (decide (x.status = .awaitingAcceptance) && r.settled) = false := by
      simpa using completes
    simp [completes, this, Source.markIf]

/-- What a list of records holds for a key after the records of one key were changed. -/
theorem find_map_key (f : StationRecord → StationRecord) (same : ∀ y, (f y).key = y.key) (l : List StationRecord) (k k' : ShiftKey) :
    (l.map fun y => if y.key = k then f y else y).find? (fun y => decide (y.key = k')) =
      (l.find? fun y => decide (y.key = k')).map fun y => if k' = k then f y else y := by
  induction l with
  | nil => rfl
  | cons x xs ih =>
    have key : (if x.key = k then f x else x).key = x.key := by
      split
      · exact same x
      · rfl
    simp only [List.map_cons, List.find?_cons, key, ih]
    by_cases here : x.key = k'
    · simp [here]
    · simp [here]

end

/-- Settles O27: the rows by heard, asked and count; the report and the result by where the key's result is kept. -/
theorem attemptEnds : Obligations.AttemptEnds := by
  refine ⟨?_, ?_, ?_, ?_, ?_⟩
  · intro w s snd f a ended gone again working sends frame other
    have run : ∀ heard, exec (.attemptEnd w heard) s = .next (a.endAttempt snd.start f heard).finish := by
      intro heard
      change Host.Outcome.next (match a.sending with
        | none => a
        | some x => a.endAttempt x.1 x.2 heard).finish = _
      rw [State.sending_of working sends frame]
    refine ⟨?_, fun asked => ?_, fun kept below => ?_, fun kept third => ?_⟩
    · rw [run, State.endAttempt_other other]
      rfl
    · rw [run, State.endAttempt_other other, if_neg Bool.false_ne_true, State.unheardFrame_asked asked]
      rfl
    · rw [run, State.endAttempt_other other, if_neg Bool.false_ne_true, State.unheardFrame_again kept below]
      rfl
    · rw [run, State.endAttempt_other other, if_neg Bool.false_ne_true, State.unheardFrame_third kept third]
      rfl
  · intro s c now
    refine ⟨?_, ?_, ?_⟩
    · rintro change i level rfl
      simp only [State.sendFailed, State.requestNow, sendFailedDetail, bitAt_eq, FrameContent.kind, FrameKind.code]
      simp [Nat.mul_comm, now, State.stamp]
    · rintro k o d due rfl
      rfl
    · rintro k v rfl
      rfl
  · intro k
    have := k.day.isLt
    rw [keyDetail, BitVec.toNat_ofNat]
    omega
  · intro s c own
    refine ⟨fun other => State.reportEnd_other other own, ?_⟩
    rintro k o d due rfl
    exact ⟨State.reportFrame_none, fun r => State.reportFrame_settled, fun r => State.reportFrame_pending⟩
  · intro s k r
    refine ⟨State.giveResult_none, fun x record => ?_⟩
    intro completes
    have given := State.giveResult_some (r := r) record
    have found : ∀ k', (s.giveResult k r).shu.recordOf k' = (s.shu.recordOf k').map fun y => if k' = k then y.give r else y := by
      intro k'
      rw [given]
      exact find_map_key (·.give r) (fun _ => rfl) _ _ _
    refine ⟨?_, ?_, fun k' other => ?_, ?_⟩
    · rw [given]
    · rw [found, record, Option.map_some, if_pos rfl]
      rfl
    · rw [found]
      simp [other]
    · rw [given]

/-- The own MARK's start date, in the own place of the start list and as the edge of its round (R32 to R34). -/
theorem State.handBack_eq (s : State) (k : RoundKey) (start : Start) :
    s.handBack k start = { s with clu := { s.clu with
      startList := s.clu.startList.set s.lif.nodeNumber.val (some start)
      round := s.clu.round.map fun (r : Round) => if r.key = k ∧ r.edge = none then { r with
          edge := some ⟨start.date, start.quality⟩
          edgeSender := s.lif.nodeNumber
          ownReading := some (start.date.minus k.boundary) } else r } } := by
  have listed : (s.setStart s.lif.nodeNumber start).clu.round = s.clu.round := rfl
  simp only [State.handBack, listed]
  cases round : s.clu.round with
  | none => simp [State.setStart, round]
  | some r =>
    by_cases own : r.key = k
    · subst own
      cases edge : r.edge <;> simp [State.setStart, State.setRound, Round.setEdge, edge]
    · simp [State.setStart, own, round]

/-- Settles O28: the start date handed back, the frame removed and, unheard, counted. -/
theorem markAttemptEnds : Obligations.MarkAttemptEnds := by
  intro w heard s snd f k a working sends frame content
  have run : exec (.attemptEnd w heard) s = .next (a.endAttempt snd.start f heard).finish := by
    change Host.Outcome.next (match a.sending with
      | none => a
      | some x => a.endAttempt x.1 x.2 heard).finish = _
    rw [State.sending_of working sends frame]
  rw [run, State.endAttempt_mark content, State.markEnds, State.handBack_eq]
  cases heard
  all_goals rfl

end Sys2Proof.Machine
end

section
/-! The send list: queue requests, displacement and the own MARK (R15, R20, R21). -/

namespace Sys2Proof.Machine

/-! ### The last frame that meets a test -/

section
variable {p : QueuedFrame → Bool} {before after : List QueuedFrame} {g : QueuedFrame}

theorem findLast_of_split (holds : p g = true) (rest : ∀ f ∈ after, p f = false) : findLast p (before ++ g :: after) = some g := by
  have none : after.reverse.find? p = none := by
    simpa using fun f mem => rest f mem
  simp [findLast, none, holds]

theorem removeLast_of_split (holds : p g = true) (rest : ∀ f ∈ after, p f = false) :
    removeLast p (before ++ g :: after) = before ++ after := by
  have rest' : ∀ f ∈ after.reverse, ¬ p f = true := by simpa using fun f mem => rest f mem
  simp [removeLast, List.eraseP_append_right _ rest', holds]

theorem findLast_eq_none {l : List QueuedFrame} (rest : ∀ f ∈ l, p f = false) : findLast p l = none := by
  simpa [findLast] using fun f mem => rest f mem

end

section
variable {s : State} {c : FrameContent}

theorem State.queueFrame_refused (refused : s.active = false ∨ s.alreadyListed c = true) : s.queueFrame c = (s, .refused) := by
  unfold State.queueFrame
  rw [if_pos]
  obtain out | listed := refused
  · simp [out]
  · simp [listed]

theorem State.queueFrame_fits (active : s.active = true) (fresh : s.alreadyListed c = false)
    (fits : (s.lif.sendList.filter fun f => !f.isMark).length < 7) :
    s.queueFrame c = (s.setSendList (insertFrame (s.freshFrame c) s.lif.sendList), .queued) := by
  simp only [State.queueFrame, active, fresh, Bool.not_true, Bool.or_self, Bool.false_eq_true, if_false, fits, if_true]

theorem State.queueFrame_full (active : s.active = true) (fresh : s.alreadyListed c = false)
    (full : 7 ≤ (s.lif.sendList.filter fun f => !f.isMark).length) : s.queueFrame c = s.queueByDisplacing c := by
  simp only [State.queueFrame, active, fresh, Bool.not_true, Bool.or_self, Bool.false_eq_true, if_false, Nat.not_lt.mpr full]

/-- A frame that gives way to a TRIP, HANDOVER or TALLY is a HANDOVER or a TALLY. -/
theorem displaceable_kind {kind : FrameKind} {g : QueuedFrame} (gives : displaceable kind g = true) :
    g.kind = .tally ∨ g.kind = .handover := by
  simp only [displaceable, QueuedFrame.isMark, Bool.and_eq_true, decide_eq_true_eq] at gives
  obtain ⟨⟨above, other⟩, _⟩ := gives
  cases is : g.kind with
  | tally => exact .inl rfl
  | handover => exact .inr rfl
  | mark => simp [is] at other
  | trip =>
    rw [is] at above
    cases kind <;> simp [FrameKind.code] at above

end

/-- Settles O31, by the branches of the request. -/
theorem queueRequestTaken : Obligations.QueueRequestTaken := by
  intro s c _ fresh others displaced recorded
  refine ⟨State.queueFrame_refused, State.queueFrame_fits, ?_, ?_⟩
  · intro before g after active unlisted full list gives rest swapped
    have queued : s.queueFrame c = (swapped.displaced g.content, .queued) := by
      have found : findLast (displaceable c.kind) s.lif.sendList = some g := by
        rw [list]
        exact findLast_of_split gives rest
      have removed : removeLast (displaceable c.kind) s.lif.sendList = before ++ after := by
        rw [list]
        exact removeLast_of_split gives rest
      rw [State.queueFrame_full active unlisted full]
      simp only [State.queueByDisplacing, found, removed]
      rfl
    refine ⟨fun k v content => ?_, fun k o d due content => ?_, displaceable_kind gives⟩
    · rw [queued, content]
      rfl
    · rw [queued, content]
      rfl
  · intro active unlisted full rest dropped
    have drops : s.queueFrame c = (dropped.displaced c, .dropped) := by
      rw [State.queueFrame_full active unlisted full]
      simp only [State.queueByDisplacing, findLast_eq_none rest]
      rfl
    refine ⟨?_, ?_, ?_⟩
    · rintro change i level rfl
      have detail : sendFailedDetail (.trip change i level) = BitVec.ofNat 32 (16 * i.val + (if level then 1 else 0)) := by
        simp only [sendFailedDetail, Nat.mul_comm, bitAt, Nat.pow_zero]
      rw [drops, ← detail]
      rfl
    · rintro k o d due rfl
      rw [drops]
      rfl
    · rintro k v rfl
      rw [drops]
      rfl

/-! ### The own MARK -/

section
variable {s : State} {k : RoundKey}

theorem State.ownMarkBody_round {r : Round} {reading : Int} (start : Start) (round : s.clu.round = some r) (own : r.key = k)
    (read : r.ownReading = some reading) :
    s.ownMarkBody k start = markBody k (MarkStatus.of s.clu.state s.clock.valid) reading r.edgeSender := by
  simp [State.ownMarkBody, round, read, own]

theorem State.ownMarkBody_delay (start : Start) (unread : ∀ r, s.clu.round = some r → r.key = k → r.ownReading = none) :
    s.ownMarkBody k start =
      markBody k (MarkStatus.of s.clu.state s.clock.valid) (start.date.minus k.boundary) s.lif.nodeNumber := by
  unfold State.ownMarkBody
  cases round : s.clu.round with
  | none => rfl
  | some r =>
    dsimp only
    cases read : r.ownReading with
    | none => rfl
    | some reading =>
      dsimp only
      rw [if_neg]
      intro own
      rw [unread r round own] at read
      exact nomatch read

theorem State.queueMark_inactive (out : s.active = false) : s.queueMark k = s := by simp [State.queueMark, out]

theorem State.queueMark_free (active : s.active = true) (free : s.lif.sendList.find? QueuedFrame.isMark = none) :
    s.queueMark k = s.setSendList (insertFrame (s.freshFrame (.mark k)) s.lif.sendList) := by
  simp [State.queueMark, active, free]

theorem State.queueMark_taken {m : QueuedFrame} (active : s.active = true)
    (listed : s.lif.sendList.find? QueuedFrame.isMark = some m) : s.queueMark k =
      if m.inSend then { s with lif := { s.lif with waitingMark := some k } }
      else (s.setSendList (insertFrame (s.freshFrame (.mark k)) (s.lif.sendList.eraseP QueuedFrame.isMark))).count
        LineCounters.addLateMark := by
  simp only [State.queueMark, active, listed, Bool.not_true, Bool.false_eq_true, if_false]

theorem State.queueWaiting_none (free : s.lif.waitingMark = none) : s.queueWaiting = s := by simp [State.queueWaiting, free]

theorem State.queueWaiting_some (waits : s.lif.waitingMark = some k) :
    s.queueWaiting = ({ s with lif := { s.lif with waitingMark := none } }).queueMark k := by simp [State.queueWaiting, waits]

theorem State.dropMark_waiting (waits : s.lif.waitingMark = some k) :
    s.dropMark k = ({ s with lif := { s.lif with waitingMark := none } }).count LineCounters.addLateMark := if_pos waits

theorem State.dropMark_listed {m : QueuedFrame} (other : s.lif.waitingMark ≠ some k)
    (listed : s.lif.sendList.find? (QueuedFrame.isMarkOf k) = some m) : s.dropMark k =
      if m.inSend then s else (s.setSendList (s.lif.sendList.eraseP (QueuedFrame.isMarkOf k))).count LineCounters.addLateMark := by
  simp only [State.dropMark, if_neg other, listed]

theorem State.dropMark_absent (other : s.lif.waitingMark ≠ some k)
    (absent : s.lif.sendList.find? (QueuedFrame.isMarkOf k) = none) : s.dropMark k = s := by
  simp only [State.dropMark, if_neg other, absent]

end

/-- Settles O25, case by case. -/
theorem ownMarkHandled : Obligations.OwnMarkHandled := by
  intro s k start status fresh listed
  refine ⟨fun r reading => State.ownMarkBody_round start, State.ownMarkBody_delay start, State.queueMark_inactive,
    State.queueMark_free, fun m active mark waits => ?_, fun m active mark sends => ?_, State.queueWaiting_none,
    State.queueWaiting_some, State.dropMark_waiting, fun m => State.dropMark_listed, State.dropMark_absent⟩
  · rw [State.queueMark_taken active mark, waits]
    rfl
  · rw [State.queueMark_taken active mark, sends]
    rfl

end Sys2Proof.Machine
end

section
/-! The frames on the line: sends, check, bodies (R5, R8, R9, Tables 1-3 and 12-1 to 12-4). -/

namespace Sys2Proof.Machine

/-! ### The layout of a frame -/

theorem frameBytes_layout (kind : FrameKind) (node : NodeNo) (body : List Byte) :
    ∃ header high low : Byte, frameBytes kind node body = header :: body ++ [high, low]
      ∧ header.toNat = 16 * kind.code + node.val
      ∧ high.toNat * 256 + low.toNat = (crc16 (header :: body)).toNat := by
  have code : kind.code < 16 := by cases kind <;> simp [FrameKind.code]
  have := node.isLt
  have := (crc16 (headerByte kind node :: body)).isLt
  refine ⟨headerByte kind node, _, _, rfl, ?_, ?_⟩
  · rw [headerByte, BitVec.toNat_ofNat]
    omega
  · simp only [BitVec.toNat_ofNat]
    omega

theorem tripBody_layout (change : Stamp) (input : InputNo) (active : Bool) :
    let body := tripBody change input active
    let at_ := fieldAt body
    body.length = 9 ∧ at_ 0 2 = change.date.day.toNat ∧ at_ 2 5 = change.date.us % 2 ^ 40 ∧ at_ 7 1 = change.quality.code
      ∧ at_ 8 1 = 16 * input.val + active.toNat := by
  intro body at_
  have := change.date.day.isLt
  have := change.quality.code_lt
  have := input.isLt
  have := active.toNat_le
  refine ⟨by simp [body, tripBody], ?_⟩
  simp only [at_, body, tripBody, dateBytes, bitAt_eq, List.append_assoc]
  refine ⟨?_, ?_, ?_, ?_⟩
  all_goals simp only [fieldAt_first, fieldAt_past, Nat.reduceLeDiff, Nat.reduceSub, fieldAt_beBytes]
  all_goals omega

theorem handoverBody_layout (k : ShiftKey) (outcome : HandoverOutcome) (completion : Date) (due : BitVec 16) :
    let body := handoverBody k outcome completion due
    let at_ := fieldAt body
    body.length = 13 ∧ at_ 0 2 = k.day.toNat ∧ at_ 2 1 = k.index % 256 ∧ at_ 3 1 = outcome.code
      ∧ at_ 4 2 = completion.day.toNat ∧ at_ 6 5 = completion.us % 2 ^ 40 ∧ at_ 11 2 = due.toNat := by
  intro body at_
  have := k.day.isLt
  have := outcome.code_lt
  have := completion.day.isLt
  have := due.isLt
  refine ⟨by simp [body, handoverBody, keyBytes], ?_⟩
  simp only [at_, body, handoverBody, keyBytes, dateBytes, List.append_assoc]
  refine ⟨?_, ?_, ?_, ?_, ?_, ?_⟩
  all_goals simp only [fieldAt_first, fieldAt_past, Nat.reduceLeDiff, Nat.reduceSub, fieldAt_beBytes]
  all_goals omega

theorem markBody_layout (k : RoundKey) (status : MarkStatus) (reading : Int) (edgeSender : NodeNo) :
    let body := markBody k status reading edgeSender
    let at_ := fieldAt body
    body.length = 11 ∧ at_ 0 2 = k.day.toNat ∧ at_ 2 3 = k.second % 2 ^ 24
      ∧ at_ 5 1 = status.code.toNat + 128 * status.valid.toNat ∧ at_ 6 4 = (BitVec.ofInt 32 reading).toNat
      ∧ at_ 10 1 = edgeSender.val := by
  intro body at_
  have := k.day.isLt
  have := (BitVec.ofInt 32 reading).isLt
  have := edgeSender.isLt
  refine ⟨by simp [body, markBody, beInt], ?_⟩
  simp only [at_, body, markBody, beInt, Nat.reduceMul, List.append_assoc, List.cons_append, List.nil_append,
    ← status.byte_toNat]
  refine ⟨?_, ?_, ?_, ?_, ?_⟩
  all_goals simp only [fieldAt_first, fieldAt_past, Nat.reduceLeDiff, Nat.reduceSub, fieldAt_beBytes, fieldAt_cons_zero,
    fieldAt_cons_succ]
  all_goals omega

theorem tallyBody_layout (k : ShiftKey) (v : TallyValues) :
    let body := tallyBody k v
    let at_ := fieldAt body
    body.length = 14 ∧ at_ 0 2 = k.day.toNat ∧ at_ 2 1 = k.index % 256 ∧ at_ 3 3 = v.online.toNat
      ∧ at_ 6 3 = v.spinning.toNat ∧ at_ 9 1 = v.starts.toNat ∧ at_ 10 1 = v.syncs.toNat ∧ at_ 11 1 = v.trips.toNat
      ∧ at_ 12 1 = v.normalStops.toNat ∧ at_ 13 1 = v.flags.toNat := by
  intro body at_
  have := k.day.isLt
  have := v.online.isLt
  have := v.spinning.isLt
  refine ⟨by simp [body, tallyBody, keyBytes, TallyValues.bytes], ?_⟩
  simp only [at_, body, tallyBody, keyBytes, TallyValues.bytes, List.append_assoc]
  refine ⟨?_, ?_, ?_, ?_, ?_, ?_, ?_, ?_, ?_⟩
  all_goals simp only [fieldAt_first, fieldAt_past, Nat.reduceLeDiff, Nat.reduceSub, fieldAt_cons_zero,
    fieldAt_cons_succ]
  all_goals omega

theorem MarkStatus.of_code (state : ClockState) (valid : Bool) : (MarkStatus.of state valid).code.toNat = state.code := by
  have := state.code_lt
  rw [MarkStatus.of, BitVec.toNat_ofNat]
  omega

/-! ### The beginning of a send -/

section
variable {s : State} {f : QueuedFrame} {fs : List QueuedFrame}

theorem State.beginSend_eq (listed : s.lif.sendList = f :: fs) (start : Start) (lclk : Bool) :
    s.beginSend start lclk = { s with lif := { s.lif with
      lclkDriven := lclk
      ldatDriven := true
      view := .frame
      start := some start
      counted := false
      joinable := false
      highFrom := s.time.elapsed
      acked := false
      sendList := { f with inSend := true } :: fs
      send := some ⟨frameBytes f.kind s.lif.nodeNumber (s.bodyAt f.content start), start⟩ } } := by
  simp only [State.beginSend, listed]

theorem State.joinStart_of {st : Start} (active : s.active = true) (working : s.working = true) (listed : s.lif.sendList = f :: fs)
    (idle : s.lif.send = none) (view : s.lif.view = .frame) (start : s.lif.start = some st) :
    s.joinStart = if s.lif.joinable = true ∧ s.time.elapsed ≤ st.osc + longestHalfUs then some st else none := by
  simp only [State.joinStart, active, State.sees_of working view, idle, listed, start, Option.isNone_none, List.isEmpty_cons,
    Bool.not_false, Bool.and_self, if_true, Option.filter_some, Lif.beforeClock, Bool.and_eq_true, decide_eq_true_eq]

theorem State.joinStart_sending {snd : Send} (sends : s.lif.send = some snd) : s.joinStart = none := by
  simp [State.joinStart, sends]

end

theorem State.working_of_active {s : State} (active : s.active = true) : s.working = true := by
  rw [State.active, Bool.and_eq_true] at active
  exact active.1

/-- Settles O24: the rows that begin a send, then the layouts. -/
theorem sendBegins : Obligations.SendBegins := by
  refine ⟨?_, fun kind node body => ?_, fun bytes b => ?_, fun _ _ => tripBody_layout, fun _ _ => handoverBody_layout,
    markBody_layout, fun _ _ => tallyBody_layout, fun state valid => ⟨MarkStatus.of_code state valid, rfl⟩, rfl, rfl, rfl⟩
  · intro w s f fs a now gap sent active listed
    have working : a.working = true := State.working_of_active active
    have ownGap : a.ownGap = gap := a.ownGap_eq
    have beginRow : exec (.sendBegin w) s = .next (a.when a.maySend (a.beginSend a.startNow false)).finish := rfl
    have joinRow : exec (.contentionJoin w) s = .next (match a.joinStart with
        | none => a.takeClock
        | some start => a.beginSend start true).finish := rfl
    have silent : a.lif.send = none → a.takeClock = a := fun idle => by simp [State.takeClock, idle]
    refine ⟨fun idle view high => ?_, fun early => ?_, fun st idle view start => ⟨fun joinable soon => ?_, fun late => ?_⟩,
      fun snd sends => ?_⟩
    · have may : a.maySend = true := by
        simp [State.maySend, active, State.sees_of working view, idle, listed, ownGap, State.highFor_of high]
      rw [beginRow, State.when_of may, State.beginSend_eq listed]
      rfl
    · have mayNot : a.maySend = false := by simp [State.maySend, ownGap, State.not_highFor early]
      rw [beginRow, State.when_not mayNot]
    · rw [joinRow, State.joinStart_of active working listed idle view start, if_pos ⟨joinable, soon⟩]
      exact congrArg (fun t : State => Host.Outcome.next t.finish) (State.beginSend_eq listed st true)
    · have past : ¬ (a.lif.joinable = true ∧ a.time.elapsed ≤ st.osc + longestHalfUs) := by
        rintro ⟨joinable, soon⟩
        obtain closed | gone := late
        · rw [joinable] at closed
          exact nomatch closed
        · exact absurd soon (Nat.not_le.mpr gone)
      rw [joinRow, State.joinStart_of active working listed idle view start, if_neg past]
      exact congrArg (fun t : State => Host.Outcome.next t.finish) (silent idle)
    · rw [joinRow, State.joinStart_sending sends]
      simp only [State.takeClock, working, sends, Option.isSome_some, Bool.and_self, if_true]
  · obtain ⟨header, high, low, bytes, named, check⟩ := frameBytes_layout kind node body
    refine ⟨header, high, low, bytes, ?_, check⟩
    rw [named]
    cases kind <;> rfl
  · intro shift
    exact ⟨rfl, crc16_append bytes b⟩

end Sys2Proof.Machine
end

section
/-! The clock: steps, state changes, rounds and the reference (R28 to R50). -/

namespace Sys2Proof.Machine

section
variable {s : State}

/-- Equal effects end in equal outcomes. -/
theorem next_finish {t u : State} (same : t = u) : (.next t.finish : Host.Outcome State Fault Refusal) = .next u.finish := by
  rw [same]

/-! ### What a step leaves of the clock -/

@[simp] theorem State.stepClock_clu (s : State) (d : Date) (c : StepCause) : (s.stepClock d c).clu = { s.clu with p := 0 } := by
  simp [State.stepClock, State.recordStep, State.setClock]

@[simp] theorem State.stepClock_clock (s : State) (d : Date) (c : StepCause) : (s.stepClock d c).clock = ⟨d, true⟩ := by
  simp [State.stepClock, State.recordStep, State.setClock]

@[simp] theorem State.stepClock_time (s : State) (d : Date) (c : StepCause) :
    (s.stepClock d c).time = { s.time with spread := 0, spreadDone := 0, boundaryDue := boundaryLanded d } := by
  simp [State.stepClock, State.recordStep, State.setClock]

@[simp] theorem State.stepClock_active (s : State) (d : Date) (c : StepCause) : (s.stepClock d c).active = s.active := by
  simp [State.active, State.working]

theorem State.changeState_clu (s : State) (q : ClockState) (c : StateCause) : (s.changeState q c).clu = { s.clu with
    state := q
    formation := 0
    short := 0
    outlier := 0
    split := 0
    latestForeign := none } := by
  simp [State.changeState]

/-! ### The reference lock -/

theorem State.lockReference_of (locked : s.clu.monitor.isLocked = true) (lockable : s.clu.state.lockable = true)
    (valid : s.clock.valid = true) : s.lockReference = s.changeState .referenced .referenceLock := by
  simp [State.lockReference, locked, lockable, valid]

theorem State.lockReference_not (free : s.clu.monitor.isLocked = false ∨ s.clu.state.lockable = false ∨ s.clock.valid = false) :
    s.lockReference = s := by
  unfold State.lockReference
  rw [if_neg]
  obtain free | free | free := free
  all_goals simp [free]

theorem State.stepAndLock_valid (valid : s.clock.valid = true) (d : Date) (c : StepCause) : s.stepAndLock d c = s.stepClock d c := by
  simp [State.stepAndLock, valid]

theorem State.stepAndLock_invalid (invalid : s.clock.valid = false) (d : Date) (c : StepCause) :
    s.stepAndLock d c = (s.stepClock d c).lockReference := by
  simp [State.stepAndLock, invalid]

/-! ### The slew amount -/

theorem slewAmount_natAbs (p : Int) (limit : Nat) : (slewAmount p limit).natAbs = min p.natAbs limit := by
  rw [slewAmount, Int.natAbs_mul, Int.natAbs_natCast]
  obtain rfl | other := eq_or_ne p 0
  · simp
  · rw [Int.natAbs_sign_of_ne_zero other, Nat.one_mul]

theorem slewAmount_nonneg {p : Int} (sign : 0 ≤ p) (limit : Nat) : 0 ≤ slewAmount p limit :=
  Int.mul_nonneg (Int.sign_nonneg_iff.mpr sign) (Int.natCast_nonneg _)

theorem slewAmount_nonpos {p : Int} (sign : p ≤ 0) (limit : Nat) : slewAmount p limit ≤ 0 :=
  Int.mul_nonpos_of_nonpos_of_nonneg (Int.sign_nonpos_iff.mpr sign) (Int.natCast_nonneg _)

/-! ### The own boundary -/

theorem State.ownBoundary_of {k : RoundKey} (active : s.active = true) (runs : s.clu.state ≠ .solo) (due : s.time.boundaryDue = some k) :
    s.ownBoundary = some k := by
  simp [State.ownBoundary, active, runs, due]

theorem State.takeBoundary_opens {k : RoundKey} (closed : s.clu.round = none) (fresh : s.clu.lastKey ≠ some k) :
    s.takeBoundary k = (({ s with time := { s.time with boundaryDue := none } }).setRound
      (some (Round.start k s.lif.nodeNumber))).queueMark k := by
  simp [State.takeBoundary, State.openRound, closed, fresh, State.setRound, Round.start]

theorem State.takeBoundary_shut {k : RoundKey} (closed : s.clu.round = none) (last : s.clu.lastKey = some k) :
    s.takeBoundary k = { s with time := { s.time with boundaryDue := none } } := by
  simp [State.takeBoundary, State.openRound, closed, last]

theorem State.takeBoundary_open {k : RoundKey} {r : Round} (round : s.clu.round = some r) :
    s.takeBoundary k = if r.key = k then ({ s with time := { s.time with boundaryDue := none } }).queueMark k
      else { s with time := { s.time with boundaryDue := none } } := by
  simp [State.takeBoundary, State.openRound, round]

end

/-- Settles O33, by the slew amount of R28. -/
theorem oscillatorSecondBegins : Obligations.OscillatorSecondBegins := by
  intro w s a working ended
  have run : exec (.oscillatorSecond w) s = .next (a.when a.secondDue a.beginSecond).finish := rfl
  have due : a.secondDue = true := by
    rw [State.secondDue, working, Bool.true_and]
    exact decide_eq_true ended
  refine ⟨slewAmount a.clu.p a.cfg.slewUs, slewAmount_natAbs _ _, fun sign => slewAmount_nonneg sign _,
    fun sign => slewAmount_nonpos sign _, ?_⟩
  rw [run, State.when_of due]
  rfl

/-- Settles O34, by the open round. -/
theorem roundBoundaryTaken : Obligations.RoundBoundaryTaken := by
  intro w s k a taken active runs due
  have run : exec (.roundBoundary w) s = .next (a.takeBoundary k).finish := by
    change Host.Outcome.next (match a.ownBoundary with
      | none => a
      | some k => a.takeBoundary k).finish = _
    rw [State.ownBoundary_of active runs due]
  refine ⟨fun closed fresh => ?_, fun r round own => ?_, fun r round other => ?_, fun closed last => ?_⟩
  · rw [run, State.takeBoundary_opens closed fresh]
    rfl
  · rw [run, State.takeBoundary_open round, if_pos own]
  · rw [run, State.takeBoundary_open round, if_neg other]
  · rw [run, State.takeBoundary_shut closed last]

/-! ### The reference second -/

section
variable {s : State}

theorem State.badInterval_searching {n : Nat} (monitor : s.clu.monitor = .searching n) :
    s.badInterval = s.setMonitor (.searching 0) := by
  simp [State.badInterval, monitor]

theorem State.badInterval_first (monitor : s.clu.monitor = .locked 0) : s.badInterval = s.setMonitor (.locked 1) := by
  simp [State.badInterval, monitor]

theorem State.badInterval_second (monitor : s.clu.monitor = .locked 1) :
    s.badInterval = (s.setMonitor (.searching 0)).loseReference := by
  simp [State.badInterval, monitor]

theorem State.goodInterval_counts {n : Nat} (monitor : s.clu.monitor = .searching n) (below : n < 3)
    (other : s.clu.state ≠ .referenced) : s.goodInterval = s.setMonitor (.searching (n + 1)) := by
  have few : ¬ 4 ≤ n + 1 := by omega
  simp [State.goodInterval, monitor, few, State.setMonitor, other]

theorem State.goodInterval_locks (monitor : s.clu.monitor = .searching 3) :
    s.goodInterval = if (s.setMonitor (.locked 0)).lockReference.clu.state = .referenced
      then (s.setMonitor (.locked 0)).lockReference.discipline else (s.setMonitor (.locked 0)).lockReference := by
  simp [State.goodInterval, monitor]

theorem State.goodInterval_locked {n : Nat} (monitor : s.clu.monitor = .locked n) :
    s.goodInterval = if s.clu.state = .referenced then (s.setMonitor (.locked 0)).discipline else s.setMonitor (.locked 0) := by
  simp [State.goodInterval, monitor, State.setMonitor]

/-- The edge noted, before its interval is judged. -/
def State.edgeNoted (s : State) : State := { s with clu := { s.clu with refEdge := some s.time.elapsed, refMark := s.time.elapsed } }

theorem State.referenceEdge_first (free : s.clu.refEdge = none) : s.referenceEdge = s.edgeNoted := by
  simp [State.referenceEdge, free, State.edgeNoted]

theorem State.referenceEdge_good {e : Nat} (held : s.clu.refEdge = some e) (low : 999900 ≤ s.time.elapsed - e)
    (high : s.time.elapsed - e ≤ 1000100) : s.referenceEdge = s.edgeNoted.goodInterval := by
  simp [State.referenceEdge, held, goodLength, low, high, State.edgeNoted]

theorem State.referenceEdge_bad {e : Nat} (held : s.clu.refEdge = some e)
    (out : s.time.elapsed - e < 999900 ∨ 1000100 < s.time.elapsed - e) : s.referenceEdge = s.edgeNoted.badInterval := by
  have bad : goodLength (s.time.elapsed - e) = false := by
    simp only [goodLength, Bool.and_eq_false_iff, decide_eq_false_iff_not]
    omega
  simp [State.referenceEdge, held, bad, State.edgeNoted]

/-! ### The discipline -/

theorem offsetOf_spec (us : Nat) : offsetOf us ≤ 499999 ∧ -500000 ≤ offsetOf us ∧ (1000000 : Int) ∣ (us : Int) - offsetOf us := by
  unfold offsetOf
  dsimp only
  split
  all_goals omega

theorem State.discipline_within (within : (offsetOf s.clock.date.us).natAbs ≤ s.cfg.boundUs) :
    s.discipline = s.replaceP (-(offsetOf s.clock.date.us)) := by
  simp [State.discipline, State.beyondBound, Nat.not_lt.mpr within]

theorem State.discipline_beyond (beyond : s.cfg.boundUs < (offsetOf s.clock.date.us).natAbs) :
    s.discipline =
      let stepped := s.stepClock (s.clock.date.plus (-(offsetOf s.clock.date.us))) .reference
      match stepped.closeDue with
      | none => stepped
      | some r => stepped.closeRound r := by
  rw [State.discipline]
  exact if_pos (decide_eq_true beyond)

theorem State.closeDue_of {r : Round} (active : s.active = true) (round : s.clu.round = some r)
    (due : 400000 ≤ s.clock.date.minus r.key.boundary) : s.closeDue = some r := by
  simp [State.closeDue, round, active, due]

theorem State.closeDue_none (closed : s.clu.round = none) : s.closeDue = none := by
  simp [State.closeDue, closed]

theorem State.closeDue_early {r : Round} (round : s.clu.round = some r)
    (early : s.active = false ∨ s.clock.date.minus r.key.boundary < 400000) : s.closeDue = none := by
  simp only [State.closeDue, round]
  rw [if_neg]
  obtain out | early := early
  · simp [out]
  · simp [early]

end

/-- Settles O39, by the monitor. -/
theorem referenceSilenceTaken : Obligations.ReferenceSilenceTaken := by
  refine ⟨?_, fun s => ⟨fun other => if_neg other, fun referenced => ?_⟩⟩
  · intro w s a silent working ended
    have run : exec (.refsecSilence w) s = .next (a.when a.silenceDue a.referenceSilence).finish := rfl
    have due : a.silenceDue = true := by
      rw [State.silenceDue, working, Bool.true_and]
      exact decide_eq_true ended
    refine ⟨fun n monitor => ?_, fun monitor => ?_, fun monitor => ?_⟩
    · rw [run, State.when_of due]
      exact next_finish (State.badInterval_searching (s := silent a.clu.monitor) monitor)
    · rw [run, State.when_of due]
      exact next_finish (State.badInterval_first (s := silent a.clu.monitor) monitor)
    · rw [run, State.when_of due]
      exact next_finish (State.badInterval_second (s := silent a.clu.monitor) monitor)
  · have lost : s.loseReference = (s.changeState .holdover .referenceLost).setFlag .referenceLost := if_pos referenced
    refine ⟨?_, ?_, lost⟩
    · rw [lost]
      simp
    · rw [lost]
      simp [State.changeState_clu]

/-- Settles O38: the edge by its interval and the monitor, the discipline by the offset. -/
theorem referenceEdgeTaken : Obligations.ReferenceEdgeTaken := by
  refine ⟨?_, fun s => ?_⟩
  · intro w s a now timed working
    have run : exec (.refsecEdge w) s = .next a.referenceEdge.finish := by
      change Host.Outcome.next (a.when a.working a.referenceEdge).finish = _
      rw [State.when_of working]
    refine ⟨fun free => ?_, fun e n held low high other => ⟨fun monitor below => ?_, fun monitor => ?_, fun monitor unlockable => ?_,
      fun monitor valid started => ?_⟩, fun e n held low high referenced monitor => ?_,
      fun e n held out => ⟨fun monitor => ?_, fun monitor => ?_, fun monitor => ?_⟩⟩
    · rw [run, State.referenceEdge_first free]
      rfl
    · rw [run, State.referenceEdge_good held low high, State.goodInterval_counts (s := a.edgeNoted) monitor below other]
      rfl
    · rw [run, State.referenceEdge_good held low high, State.goodInterval_locked (s := a.edgeNoted) monitor,
        if_neg (show ¬ a.edgeNoted.clu.state = .referenced from other)]
      rfl
    · have stays : (a.edgeNoted.setMonitor (.locked 0)).lockReference = a.edgeNoted.setMonitor (.locked 0) := by
        refine State.lockReference_not (.inr ?_)
        obtain invalid | solo := unlockable
        · exact .inr invalid
        · refine .inl ?_
          change a.clu.state.lockable = false
          rw [solo]
          rfl
      rw [run, State.referenceEdge_good held low high, State.goodInterval_locks (s := a.edgeNoted) monitor, stays,
        if_neg (show ¬ (a.edgeNoted.setMonitor (.locked 0)).clu.state = .referenced from other)]
      rfl
    · have lockable : a.clu.state.lockable = true := by
        cases state : a.clu.state with
        | solo => exact absurd state started
        | referenced => exact absurd state other
        | joining | agreed | holdover => rfl
      have locks : (a.edgeNoted.setMonitor (.locked 0)).lockReference =
          (timed (.locked 0)).changeState .referenced .referenceLock := State.lockReference_of rfl lockable valid
      rw [run, State.referenceEdge_good held low high, State.goodInterval_locks (s := a.edgeNoted) monitor, locks,
        if_pos (State.changeState_state ..)]
    · rw [run, State.referenceEdge_good held low high, State.goodInterval_locked (s := a.edgeNoted) monitor,
        if_pos (show a.edgeNoted.clu.state = .referenced from referenced)]
      rfl
    · rw [run, State.referenceEdge_bad held out, State.badInterval_searching (s := a.edgeNoted) monitor]
      rfl
    · rw [run, State.referenceEdge_bad held out, State.badInterval_first (s := a.edgeNoted) monitor]
      rfl
    · rw [run, State.referenceEdge_bad held out, State.badInterval_second (s := a.edgeNoted) monitor]
      rfl
  · intro off
    obtain ⟨high, low, whole⟩ := offsetOf_spec s.clock.date.us
    refine ⟨high, low, whole, State.discipline_within, fun beyond => ?_⟩
    intro stepped
    have disciplined := State.discipline_beyond beyond
    have clock : stepped.clock.date = s.clock.date.plus (-off) := by simp [stepped]
    have round : stepped.clu.round = s.clu.round := by simp [stepped]
    have active : stepped.active = s.active := State.stepClock_active ..
    refine ⟨fun closed => ?_, fun r opened => ⟨fun works reached => ?_, fun early => ?_⟩⟩
    · rw [disciplined]
      dsimp only
      rw [State.closeDue_none (round.trans closed)]
    · rw [disciplined]
      dsimp only
      rw [State.closeDue_of (active.trans works) (round.trans opened) (by rwa [clock])]
    · rw [disciplined]
      dsimp only
      rw [State.closeDue_early (round.trans opened) (by rwa [active, clock])]

end Sys2Proof.Machine
end

section
/-! The closes of rounds (R36 to R46). -/

namespace Sys2Proof.Machine

section
variable {s : State} {r : Round} {v : CloseValues}

/-! ### What a transition of the clock state leaves -/

/-- What the Clock Unit keeps across a transition of its state: the round and the closed ones, the start list and the monitor. -/
def State.clockBooks (s : State) :=
  (s.clu.round, s.clu.lastKey, s.clu.lastClosed, s.clu.startList, s.clu.monitor, s.time.elapsed)

@[simp] theorem State.changeState_clockBooks (s : State) (q : ClockState) (c : StateCause) :
    (s.changeState q c).clockBooks = s.clockBooks := by
  simp [State.clockBooks, State.changeState_clu]

@[simp] theorem State.stepClock_clockBooks (s : State) (d : Date) (c : StepCause) :
    (s.stepClock d c).clockBooks = s.clockBooks := by
  simp [State.clockBooks]

@[simp] theorem State.lockReference_clockBooks (s : State) : s.lockReference.clockBooks = s.clockBooks :=
  ite_holds (p := fun t : State => t.clockBooks = s.clockBooks) (by simp) rfl

@[simp] theorem State.stepAndLock_clockBooks (s : State) (d : Date) (c : StepCause) :
    (s.stepAndLock d c).clockBooks = s.clockBooks :=
  ite_holds (p := fun t : State => t.clockBooks = s.clockBooks) (by simp) (by simp)

theorem State.abandonRound_closed (closed : s.clu.round = none) : s.abandonRound = s := by
  simp [State.abandonRound, closed]

theorem State.coarseSet_clockBooks (closed : s.clu.round = none) (f : ForeignMark) :
    (s.coarseSet f).clockBooks = s.clockBooks := by
  have stepped : ∀ t : State, ({ t with clu := { t.clu with formation := 0 } } : State).clockBooks = t.clockBooks := fun _ => rfl
  rw [State.coarseSet, State.abandonRound_closed closed]
  dsimp only
  rw [State.lockReference_clockBooks, stepped, State.stepClock_clockBooks]

theorem State.splitTest_clockBooks (s : State) (r : Round) : (s.splitTest r).clockBooks = s.clockBooks :=
  ite_holds (p := fun t : State => t.clockBooks = s.clockBooks) rfl rfl

theorem State.splitClose_clockBooks (closed : s.clu.round = none) : s.splitClose.1.clockBooks = s.clockBooks := by
  have left : ((s.setFlag .split).changeState .joining .split).clu.round = none := by
    rw [State.changeState_clu]
    exact closed
  unfold State.splitClose
  split
  · exact State.changeState_clockBooks ..
  · exact (State.coarseSet_clockBooks left _).trans (State.changeState_clockBooks ..)

theorem State.agreedShort_clockBooks (s : State) : s.agreedShort.clockBooks = s.clockBooks :=
  ite_holds (p := fun t : State => t.clockBooks = s.clockBooks) (State.changeState_clockBooks ..) rfl

theorem State.agreedFull_clockBooks (s : State) (c : Int) : (s.agreedFull c).1.clockBooks = s.clockBooks := by
  unfold State.agreedFull
  dsimp only
  split
  · exact ite_holds (p := fun t : State => t.clockBooks = s.clockBooks) (State.changeState_clockBooks ..) rfl
  · rfl

theorem State.agreedClose_clockBooks (closed : s.clu.round = none) (r : Round) (v : CloseValues) :
    (s.agreedClose r v).1.clockBooks = s.clockBooks := by
  have tested := s.splitTest_clockBooks r
  have stays : (s.splitTest r).clu.round = none := (congrArg Prod.fst tested).trans closed
  unfold State.agreedClose
  dsimp only
  split
  · exact (State.splitClose_clockBooks stays).trans tested
  · split
    · exact (State.agreedFull_clockBooks _ _).trans tested
    · exact (State.agreedShort_clockBooks _).trans tested

theorem State.joiningFull_clockBooks (s : State) (c : Int) : (s.joiningFull c).1.clockBooks = s.clockBooks := by
  unfold State.joiningFull
  split
  · exact ite_holds (p := fun t : State => t.clockBooks = s.clockBooks) (by simp) (by simp)
  · exact State.changeState_clockBooks ..

theorem State.formationClose_clockBooks (s : State) (r : Round) : (s.formationClose r).clockBooks = s.clockBooks := by
  unfold State.formationClose
  dsimp only
  split
  · rfl
  · exact ite_holds (p := fun t : State => t.clockBooks = s.clockBooks) (State.changeState_clockBooks ..) rfl

theorem State.holdoverFull_clockBooks (s : State) (c : Int) : (s.holdoverFull c).1.clockBooks = s.clockBooks := by
  unfold State.holdoverFull
  split
  · exact State.changeState_clockBooks ..
  · exact State.changeState_clockBooks ..

theorem State.closeTransition_clockBooks (closed : s.clu.round = none) (r : Round) (v : CloseValues) :
    (s.closeTransition r v).1.clockBooks = s.clockBooks := by
  unfold State.closeTransition
  split
  next =>
    split
    · exact State.joiningFull_clockBooks ..
    · exact State.formationClose_clockBooks ..
  next => exact State.agreedClose_clockBooks closed r v
  next =>
    split
    · exact State.holdoverFull_clockBooks ..
    · rfl
  all_goals rfl

/-! ### The values of a close -/

theorem sortReadings_eq (l : List Int) : sortReadings l = l.insertionSort (· ≤ ·) := by
  have inserts : ∀ x l, insertReading x l = l.orderedInsert (· ≤ ·) x := by
    intro x l
    induction l with
    | nil => rfl
    | cons y ys ih => rw [insertReading, ih, List.orderedInsert_cons]
  induction l with
  | nil => rfl
  | cons x xs ih =>
    rw [List.insertionSort_cons, ← ih, ← inserts]
    rfl

theorem usedEntries_eq (table : List RoundEntry) :
    usedEntries table =
      let eligible := table.filter RoundEntry.eligible
      let referenced := eligible.filter RoundEntry.isReferenced
      if referenced = [] then eligible else referenced := by
  simp only [usedEntries, List.filter_eq_nil_iff]
  by_cases some : (table.filter RoundEntry.eligible).any RoundEntry.isReferenced = true
  · rw [if_pos some, if_neg]
    obtain ⟨e, listed, is⟩ := List.any_eq_true.mp some
    exact fun none => none e listed is
  · rw [if_neg some, if_pos]
    exact fun e listed is => some (List.any_eq_true.mpr ⟨e, listed, is⟩)

/-! ### AGREED -/

theorem State.splitTest_eq (s : State) (r : Round) : s.splitTest r = { s with
    clu := { s.clu with split := if ownGroup r < s.clu.foreignSenders.length then s.clu.split + 1 else 0 }
    atl := { s.atl with flags :=
      if s.clu.foreignSenders.length = ownGroup r then s.atl.flags ||| Source.split.mark else s.atl.flags } } := by
  have group : 1 ≤ ownGroup r := Nat.le_add_left ..
  unfold State.splitTest
  dsimp only
  by_cases equal : s.clu.foreignSenders.length = ownGroup r
  · rw [if_pos ⟨equal ▸ group, equal⟩, if_pos equal]
    rfl
  · rw [if_neg (fun both => equal both.2), if_neg equal]

theorem State.closeTransition_agreed (agreed : s.clu.state = .agreed) (r : Round) (v : CloseValues) :
    s.closeTransition r v = if 3 ≤ (s.splitTest r).clu.split then (s.splitTest r).splitClose
      else if v.full then (s.splitTest r).agreedFull v.correction else ((s.splitTest r).agreedShort, .none) := by
  simp only [State.closeTransition, agreed, State.agreedClose]

theorem State.closeTransition_idle (idle : s.clu.state = .referenced ∨ s.clu.state = .solo) (r : Round) (v : CloseValues) :
    s.closeTransition r v = (s, .none) := by
  obtain state | state := idle
  all_goals simp [State.closeTransition, state]

theorem State.closeTransition_joining_short (joins : s.clu.state = .joining) (r : Round) (short : v.full = false) :
    s.closeTransition r v = (s.formationClose r, .none) := by
  simp [State.closeTransition, joins, short]

end

end Sys2Proof.Machine
end

section
/-! The closes of rounds: the obligations (R36 to R46). -/

namespace Sys2Proof.Machine

section
variable {s : State} {r : Round} {v : CloseValues}

/-- A round taken from the open place, its key kept (R31). -/
def State.roundShut (s : State) (r : Round) : State := { s with clu := { s.clu with round := none, lastKey := some r.key } }

/-- The close of a round, with the transition it makes and the values it finds. -/
theorem State.closeRound_eq (values : s.closeValues r = v) :
    let x := (s.roundShut r).closeTransition r v
    let dropped := x.1.dropMark r.key
    s.closeRound r = { dropped with clu := { dropped.clu with
      lastClosed := some (closedRoundOf r s.clu.state v x.2)
      foreignSenders := [] } } := by
  subst values
  rfl

/-- The Clock Unit's fields after a close, from those after the transition. -/
theorem State.closeRound_clu (values : s.closeValues r = v) :
    let x := (s.roundShut r).closeTransition r v
    (s.closeRound r).clu = { x.1.clu with
      lastClosed := some (closedRoundOf r s.clu.state v x.2)
      foreignSenders := [] } := by
  intro x
  have clu : (x.1.dropMark r.key).clu = x.1.clu := by simp
  rw [State.closeRound_eq values]
  dsimp only
  rw [clu]

theorem State.closeRound_time (values : s.closeValues r = v) :
    (s.closeRound r).time = ((s.roundShut r).closeTransition r v).1.time
      ∧ (s.closeRound r).clock = ((s.roundShut r).closeTransition r v).1.clock := by
  rw [State.closeRound_eq values]
  dsimp only
  simp only [State.dropMark_frame, and_self]

theorem State.splitClose_none (unheard : s.clu.latestForeign = none) :
    s.splitClose = ((s.setFlag .split).changeState .joining .split, .none) := by
  simp [State.splitClose, unheard]

theorem State.splitClose_some {f : ForeignMark} (heard : s.clu.latestForeign = some f) :
    s.splitClose = (((s.setFlag .split).changeState .joining .split).coarseSet f, .step) := by
  simp [State.splitClose, heard]

theorem State.beyondBound_of {c : Int} (beyond : s.cfg.boundUs < c.natAbs) : s.beyondBound c = true := decide_eq_true beyond

theorem State.not_beyondBound {c : Int} (within : c.natAbs ≤ s.cfg.boundUs) : s.beyondBound c = false :=
  decide_eq_false (Nat.not_lt.mpr within)

theorem State.agreedFull_within {c : Int} (within : c.natAbs ≤ s.cfg.boundUs) : s.agreedFull c = ({ s with
    time := { s.time with spread := 0, spreadDone := 0 }
    clu := { s.clu with short := 0, outlier := 0, p := -c } }, .slew) := by
  rw [State.agreedFull, State.not_beyondBound within]
  rfl

theorem State.agreedFull_beyond {c : Int} (beyond : s.cfg.boundUs < c.natAbs) :
    let counted : State := { s with clu := { s.clu with short := 0, outlier := s.clu.outlier + 1 } }
    s.agreedFull c = (if 2 ≤ s.clu.outlier + 1 then counted.changeState .joining .outliers else counted, .none) := by
  rw [State.agreedFull, State.beyondBound_of beyond]
  rfl

theorem State.joiningFull_beyond {c : Int} (beyond : s.cfg.boundUs < c.natAbs) :
    let stepped := s.stepAndLock (s.clock.date.plus (-c)) .round
    s.joiningFull c = (if stepped.clu.state = .joining then stepped.changeState .agreed .fullRound else stepped, .step) := by
  rw [State.joiningFull, State.beyondBound_of beyond]
  rfl

theorem State.joiningFull_within {c : Int} (within : c.natAbs ≤ s.cfg.boundUs) :
    s.joiningFull c = ((s.replaceP (-c)).changeState .agreed .fullRound, .slew) := by
  rw [State.joiningFull, State.not_beyondBound within]
  rfl

theorem State.roundShut_books (s : State) (r : Round) (v : CloseValues) :
    ((s.roundShut r).closeTransition r v).1.clu.round = none
      ∧ ((s.roundShut r).closeTransition r v).1.clu.lastKey = some r.key
      ∧ ((s.roundShut r).closeTransition r v).1.clu.startList = s.clu.startList
      ∧ ((s.roundShut r).closeTransition r v).1.clu.monitor = s.clu.monitor
      ∧ ((s.roundShut r).closeTransition r v).1.time.elapsed = s.time.elapsed := by
  have books := State.closeTransition_clockBooks (s := s.roundShut r) rfl r v
  simp only [State.clockBooks, Prod.mk.injEq] at books
  obtain ⟨round, key, _, starts, monitor, now⟩ := books
  exact ⟨round, key, starts, monitor, now⟩

end

/-- A state that differs from another in what the clock and its reports can change. -/
theorem State.eq_of_clockFrame {t a : State} (isc : t.isc = a.isc) (csu : t.csu = a.csu) (spu : t.spu = a.spu) (run : t.run = a.run)
    (sup : t.sup = a.sup) (chk : t.chk = a.chk) (lpt : t.lpt = a.lpt) (pins : t.pins = a.pins) (free : t.free = a.free)
    (pending : t.pending = a.pending) : t = { a with
      time := t.time
      clock := t.clock
      clu := t.clu
      lif := t.lif
      evq := t.evq
      tallies := t.tallies
      shu := t.shu
      lastAccepted := t.lastAccepted
      atl := t.atl } :=
  State.eq_of_fields rfl rfl rfl rfl isc rfl csu spu run rfl rfl rfl sup chk lpt rfl pins free pending

/-- Settles O35: the close by its values and transition, then the transitions of AGREED. -/
theorem roundCloses : Obligations.RoundCloses := by
  refine ⟨?_, fun l => ?_, fun table => usedEntries_eq table, ?_, fun s r v idle => State.closeTransition_idle idle r v⟩
  · intro w s r a table full readings trim mid v x dropped active opened reached
    have run : exec (.roundClose w) s = .next (a.closeRound r).finish := by
      change Host.Outcome.next (match a.closeDue with
        | none => a
        | some r => a.closeRound r).finish = _
      rw [State.closeDue_of active opened reached]
    have values : a.closeValues r = v := by
      simp only [v, full, State.closeValues, decide_eq_true_eq]
      rfl
    have isFull : v.full = full := by
      simp only [v]
      cases full
      all_goals rfl
    have isTable : v.table = table := by
      simp only [v]
      cases full
      all_goals rfl
    have closed : a.closeRound r = { dropped with clu := { dropped.clu with
        lastClosed := some ⟨r.key, full, a.clu.state, r.edge, r.edgeSender, r.ownReading, v.used, v.trim, v.midpoint,
          v.correction, x.2, table⟩
        foreignSenders := [] } } := by
      rw [← isFull, ← isTable]
      exact State.closeRound_eq values
    obtain ⟨round, key, starts, monitor, now⟩ := State.roundShut_books a r v
    have clu := State.closeRound_clu values
    obtain ⟨time, clock⟩ := State.closeRound_time values
    refine ⟨by rw [run, closed], _, run, ?_, ?_, ?_, ?_, ?_, ⟨?_, ?_, ?_⟩, fun idle => ?_, State.eq_of_clockFrame (by simp) (by simp)
      (by simp) (by simp) (by simp) (by simp) (by simp) (by simp) (by simp) (by simp), ?_, ?_⟩
    all_goals simp only [State.finish_fields, clu, time, clock]
    · exact round
    · exact key
    · exact starts
    · exact monitor
    · rfl
    · rfl
    · rfl
    · have stays : (a.roundShut r).closeTransition r v = (a.roundShut r, .none) :=
        State.closeTransition_idle (s := a.roundShut r) idle r v
      rw [stays]
      exact ⟨_, rfl, rfl, rfl⟩
    · exact State.closeRound_tally a r
    · exact now
  · rw [sortReadings_eq]
    exact ⟨List.perm_insertionSort _ l, List.pairwise_insertionSort _ l⟩
  · intro s r v agreed foreign group split tested short outlier
    have test : s.splitTest r = tested := State.splitTest_eq s r
    have step := State.closeTransition_agreed agreed r v
    rw [test] at step
    refine ⟨fun three => ?_, fun few partly => ?_, fun few whole within => ?_, fun few whole beyond => ?_⟩
    · intro left
      rw [if_pos three] at step
      rw [step]
      exact ⟨fun unheard => State.splitClose_none (s := tested) unheard, fun f heard => State.splitClose_some (s := tested) heard⟩
    · rw [step, if_neg (Nat.not_le.mpr few), partly]
      rfl
    · rw [step, if_neg (Nat.not_le.mpr few), whole, if_pos rfl]
      exact State.agreedFull_within (s := tested) within
    · rw [step, if_neg (Nat.not_le.mpr few), whole, if_pos rfl]
      exact State.agreedFull_beyond (s := tested) beyond

/-! ### JOINING -/

section
variable {s : State} {r : Round}

theorem heldSound_eq_false : heldSound r = false ↔ ∀ e ∈ r.entries, e.status.sound = false := by simp [heldSound]

theorem heldSound_of {e : RoundEntry} (listed : e ∈ r.entries) (sound : e.status.sound = true) : heldSound r = true :=
  List.any_eq_true.mpr ⟨e, listed, sound⟩

/-- Founding waits for the lowest of the JOINING numbers with valid time (R42). -/
theorem State.lowestJoining_iff : s.lowestJoining r = true ↔
    ∀ e ∈ r.entries, e.status.code.toNat = 1 → e.status.valid = true → s.lif.nodeNumber < e.node := by
  simp only [State.lowestJoining, List.all_eq_true, Bool.or_eq_true, Bool.not_eq_true', decide_eq_true_eq,
    Bool.and_eq_false_iff, decide_eq_false_iff_not]
  refine forall₂_congr fun e _ => ⟨fun either code valid => ?_, fun lower => ?_⟩
  · obtain (other | invalid) | less := either
    · exact absurd code other
    · rw [valid] at invalid
      exact nomatch invalid
    · exact less
  · by_cases code : e.status.code.toNat = ClockState.joining.code
    · cases valid : e.status.valid with
      | false => exact .inl (.inr rfl)
      | true => exact .inr (lower code valid)
    · exact .inl (.inl code)

theorem State.formationClose_sound (sound : heldSound r = true) :
    s.formationClose r = { s with clu := { s.clu with formation := 0 } } := if_pos sound

/-- The formation counter one up, as far as the formation wait (R42). -/
def State.formationCounted (s : State) : State :=
  { s with clu := { s.clu with formation := min (s.clu.formation + 1) s.cfg.formationWait } }

/-- The three conditions of founding (R42). -/
def State.founds (s : State) (r : Round) : Prop :=
  s.cfg.formationWait ≤ s.clu.formation + 1 ∧ s.clock.valid = true
    ∧ ∀ e ∈ r.entries, e.status.code.toNat = 1 → e.status.valid = true → s.lif.nodeNumber < e.node

theorem State.formationClose_founds (unsound : heldSound r = false) (founds : s.founds r) :
    s.formationClose r = s.formationCounted.changeState .agreed .founded := by
  obtain ⟨waited, valid, lowest⟩ := founds
  rw [State.formationClose, unsound, if_neg Bool.false_ne_true]
  exact if_pos ⟨Nat.min_eq_right waited, valid, State.lowestJoining_iff.mpr lowest⟩

theorem State.formationClose_waits (unsound : heldSound r = false) (waits : ¬ s.founds r) :
    s.formationClose r = s.formationCounted := by
  rw [State.formationClose, unsound, if_neg Bool.false_ne_true]
  refine if_neg ?_
  rintro ⟨counted, valid, lowest⟩
  exact waits ⟨min_eq_right_iff.mp counted, valid, State.lowestJoining_iff.mp lowest⟩

end

/-- Settles O37: a full round by its bound and the lock, a short one by what the table holds. -/
theorem joiningRoundClose : Obligations.JoiningRoundClose := by
  intro s r v joins
  have whole : v.full = true → s.closeTransition r v = s.joiningFull v.correction := State.closeTransition_joining_full joins r
  refine ⟨fun full beyond free => ?_, fun full beyond invalid locked => ?_, fun full within => ?_, fun short => ?_⟩
  · have steps : s.stepAndLock (s.clock.date.plus (-v.correction)) .round = s.stepClock (s.clock.date.plus (-v.correction)) .round := by
      obtain valid | unlocked := free
      · exact State.stepAndLock_valid valid _ _
      · cases valid : s.clock.valid with
        | true => exact State.stepAndLock_valid valid _ _
        | false =>
          rw [State.stepAndLock_invalid valid]
          exact State.lockReference_not (.inl (by simpa using unlocked))
    rw [whole full, State.joiningFull_beyond beyond]
    rw [steps, if_pos (by simpa using joins)]
  · have locks : s.stepAndLock (s.clock.date.plus (-v.correction)) .round =
        (s.stepClock (s.clock.date.plus (-v.correction)) .round).changeState .referenced .referenceLock := by
      rw [State.stepAndLock_invalid invalid]
      exact State.lockReference_of (by simpa using locked) (by simp [joins, ClockState.lockable]) (by simp)
    rw [whole full, State.joiningFull_beyond beyond]
    rw [locks, if_neg (by simp)]
  · rw [whole full, State.joiningFull_within within]
  · refine ⟨State.closeTransition_joining_short joins r short, ?_⟩
    have joinsCounted : s.formationCounted.clu.state ≠ .agreed := by
      change s.clu.state ≠ .agreed
      simp [joins]
    have cleared : s.clu.state ≠ .agreed := by simp [joins]
    cases sound : heldSound r with
    | true =>
      obtain ⟨e, listed, is⟩ := List.any_eq_true.mp sound
      have cannot : ¬ ∀ e ∈ r.entries, e.status.sound = false := fun all => by
        rw [all e listed] at is
        exact nomatch is
      rw [State.formationClose_sound sound]
      exact ⟨rfl, rfl, ⟨fun agreed => absurd agreed cleared, fun all => absurd all.1 cannot⟩, fun _ => rfl,
        fun all => absurd all cannot⟩
    | false =>
      have unsound := heldSound_eq_false.mp sound
      have cannot : ¬ ∃ e ∈ r.entries, e.status.sound = true := by
        rintro ⟨e, listed, is⟩
        rw [unsound e listed] at is
        exact nomatch is
      by_cases founds : s.founds r
      · rw [State.formationClose_founds sound founds]
        obtain ⟨waited, valid, lowest⟩ := founds
        refine ⟨by simp [State.formationCounted], by simp [State.changeState_clu, State.formationCounted], ?_,
          fun some => absurd some cannot, fun _ => (if_pos (State.changeState_state ..)).symm⟩
        exact ⟨fun _ => ⟨unsound, waited, valid, lowest⟩, fun _ => State.changeState_state ..⟩
      · rw [State.formationClose_waits sound founds]
        refine ⟨rfl, rfl, ⟨fun agreed => absurd agreed joinsCounted, ?_⟩, fun some => absurd some cannot,
          fun _ => (if_neg joinsCounted).symm⟩
        rintro ⟨_, waited, valid, lowest⟩
        exact absurd ⟨waited, valid, lowest⟩ founds

end Sys2Proof.Machine
end

section
/-! The Input Scanner: the sweep, qualified changes and chatter (R56 to R71). -/

namespace Sys2Proof.Machine

section
variable {s : State} {n : InputNo}

/-! ### Samples -/

theorem State.sampled_owed (high : Bool) (owed : (s.input n).owed ≠ .none) : s.sampled n high = s.input n := by
  unfold State.sampled
  dsimp only
  cases is : (s.input n).owed with
  | none => exact absurd is owed
  | first active stamp => rfl
  | change first => rfl

theorem State.sampled_first (high : Bool) (free : (s.input n).owed = .none) (unknown : (s.input n).level = none) :
    s.sampled n high = { s.input n with owed := .first (levelOf (s.inputCfg n) high) s.stamp } := by
  simp only [State.sampled, free, unknown]

theorem State.sampled_same {high : Bool} (free : (s.input n).owed = .none)
    (level : (s.input n).level = some (levelOf (s.inputCfg n) high)) :
    s.sampled n high = { s.input n with run := 0, first := none } := by
  simp only [State.sampled, free, level, if_true]

theorem State.sampled_other {high : Bool} (free : (s.input n).owed = .none)
    (level : (s.input n).level = some (!levelOf (s.inputCfg n) high)) :
    s.sampled n high = if s.qualCount n ≤ (s.input n).run + 1 then { s.input n with owed := .change (s.runStart (s.input n)) }
      else { s.input n with run := (s.input n).run + 1, first := some (s.runStart (s.input n)) } := by
  have differs : ¬ levelOf (s.inputCfg n) high = !levelOf (s.inputCfg n) high := by
    cases levelOf (s.inputCfg n) high <;> simp
  simp only [State.sampled, free, level, if_neg differs]

theorem NodeConfig.emphasis_eq_false {c : NodeConfig} (plain : ∀ n : InputNo, c.inputs[n.val].fast = false) : c.emphasis = false := by
  simpa [NodeConfig.emphasis] using fun n _ => plain n

theorem NodeConfig.emphasis_of {c : NodeConfig} (fast : ∃ n : InputNo, c.inputs[n.val].fast = true) : c.emphasis = true := by
  obtain ⟨n, fast⟩ := fast
  exact List.any_eq_true.mpr ⟨n, mem_allInputs n, fast⟩

theorem State.firstDue_of {level : Bool} {stamp : Stamp} (active : s.active = true) (owed : (s.input n).owed = .first level stamp) :
    s.firstDue n = some (level, stamp) := by
  simp [State.firstDue, owed, active]

theorem State.firstSampled_other {level : Bool} {stamp : Stamp} (other : (s.inputCfg n).role ≠ .breaker) :
    s.firstSampled n level stamp =
      s.setInput n { s.input n with level := some level, run := 0, first := none, owed := .none } := by
  unfold State.firstSampled
  cases role : (s.inputCfg n).role with
  | breaker => exact absurd role other
  | none | handKey | takeKey => rfl

theorem State.firstSampled_breaker {level : Bool} {stamp : Stamp} (role : (s.inputCfg n).role = .breaker) :
    s.firstSampled n level stamp =
      (s.setInput n { s.input n with level := some level, run := 0, first := none, owed := .none }).breakerLevel level stamp := by
  simp only [State.firstSampled, role]

end

/-- Settles O40: the slot input by input, the sweep's cycle, and the first sample by role. -/
theorem samplesTaken : Obligations.SamplesTaken := by
  refine ⟨?_, fun c => ⟨fun plain => ?_, fun fast => ?_⟩, ?_⟩
  · intro w levels s a active begun
    have run : exec (.sampleSlot w levels) s = .next (a.sampleSlot levels).finish := by
      change Host.Outcome.next (a.when a.slotDue (a.sampleSlot levels)).finish = _
      rw [State.when_of (by rw [State.slotDue, active, Bool.true_and]; exact decide_eq_true begun)]
    have frame := State.sampleSlot_frame a levels
    have isc : (a.sampleSlot levels).finish.isc = (a.sampleSlot levels).isc := by simp
    refine ⟨_, run, ?_, ?_, ?_, fun n => ?_⟩
    · rw [isc, frame]
    · rw [isc, frame]
    · refine State.eq_of_fields ?_ ?_ ?_ ?_ ?_ ?_ ?_ ?_ ?_ ?_ ?_ ?_ ?_ ?_ ?_ ?_ ?_ ?_ ?_
      all_goals simp only [State.finish_fields]
      all_goals rw [frame]
    · intro active i now began
      have input : (a.sampleSlot levels).finish.input n = if a.cfg.samples a.isc.slot n = true
          then a.sampled n (levels.getLsbD n.val) else a.input n := by
        rw [State.input, isc]
        exact State.sampleSlot_input a levels n
      rw [input]
      refine ⟨fun out => ?_, fun owed => ?_, fun inside free => ?_⟩
      · rw [out]
        rfl
      · split
        · exact State.sampled_owed _ owed
        · rfl
      · rw [if_pos inside]
        refine ⟨State.sampled_first _ free, State.sampled_same free, fun level few => ?_, fun level complete => ?_⟩
        · rw [State.sampled_other free level, if_neg (Nat.not_le.mpr few)]
          rfl
        · rw [State.sampled_other free level, if_pos complete]
          rfl
  · have calm := NodeConfig.emphasis_eq_false plain
    refine ⟨by rw [NodeConfig.cycle, calm]; rfl, fun slot n => ?_⟩
    simp [NodeConfig.samples, calm]
  · have emphasis := NodeConfig.emphasis_of fast
    refine ⟨by rw [NodeConfig.cycle, emphasis]; rfl, fun slot n => ?_⟩
    simp only [NodeConfig.samples, emphasis, if_true]
    obtain even | odd := Nat.mod_two_eq_zero_or_one slot
    · simp [even]
    · simp [odd]
  · intro w n high stamp s a level set active owed
    have run : exec (.firstSample w n high) s = .next (a.firstSampled n level stamp).finish := by
      change Host.Outcome.next (match a.firstDue n with
        | none => a
        | some c => a.when (levelOf (a.inputCfg n) high == c.1) (a.firstSampled n c.1 c.2)).finish = _
      rw [State.firstDue_of active owed]
      dsimp only
      rw [State.when_of (beq_self_eq_true _)]
    refine ⟨fun other => ?_, fun breaker => ?_⟩
    · rw [run, State.firstSampled_other other]
    · rw [run, State.firstSampled_breaker breaker]

/-! ### Qualified changes and chatter -/

section
variable {s : State} {n : InputNo}

theorem State.changeDue_of {level : Bool} {first : Start} (active : s.active = true) (known : (s.input n).level = some level)
    (owed : (s.input n).owed = .change first) : s.changeDue n = some (!level, first) := by
  simp [State.changeDue, owed, known, active]

/-- A change of an input that is not LOCKED: window, handing on, and the lock at the limit (R63, R66, R67). -/
theorem State.qualified_unlocked (free : (s.input n).locked = false) (level : Bool) (first : Start) :
    let change : Stamp := ⟨first.date, first.quality⟩
    let expiry := first.osc + s.cfg.chatterMs * 1000
    let count := (s.input n).chatter.countAfter
    let handed := (s.setInput n ⟨some level, 0, none, .counting expiry count, .none⟩).handOn n level change
    s.qualified n level first = if s.cfg.chatterCount ≤ count then handed.lockInput n level change expiry else handed := by
  unfold State.qualified
  dsimp only
  cases chatter : (s.input n).chatter with
  | locked expiry suppressed last => simp [InputState.locked, chatter] at free
  | quiet => rfl
  | counting expiry count => rfl

theorem State.qualified_locked {expiry : Nat} {suppressed : BitVec 16} {last : Option Stamp}
    (chatter : (s.input n).chatter = .locked expiry suppressed last) (level : Bool) (first : Start) :
    s.qualified n level first = s.setInput n ⟨some level, 0, none,
      .locked (first.osc + s.cfg.chatterMs * 1000) (satInc suppressed) (some ⟨first.date, first.quality⟩), .none⟩ := by
  simp only [State.qualified, chatter]

theorem State.windowDue_counting {expiry count : Nat} (active : s.active = true)
    (chatter : (s.input n).chatter = .counting expiry count) (ended : expiry ≤ s.time.elapsed) : s.windowDue n = true := by
  simp [State.windowDue, chatter, active, ended]

theorem State.windowDue_locked {expiry : Nat} {suppressed : BitVec 16} {last : Option Stamp} (active : s.active = true)
    (chatter : (s.input n).chatter = .locked expiry suppressed last) (ended : expiry ≤ s.time.elapsed) :
    s.windowDue n = true := by
  simp [State.windowDue, chatter, active, ended]

/-- A LOCKED input released: to QUIET with its record, and the BREAKER input's level to the Run Unit if it differs (R69, R70). -/
theorem State.release_eq {level : Bool} (known : (s.input n).level = some level) (suppressed : BitVec 16) (last : Option Stamp) :
    let released := (s.setInput n { s.input n with chatter := .quiet }).request .chatterRelease
      ⟨s.clock.date, s.clu.state⟩ (n.val + bitAt 4 level) (suppressed.zeroExtend 32)
    ((s.inputCfg n).role ≠ .breaker ∨ last = none ∨ level = s.run.breakerClosed → s.release n suppressed last = released)
      ∧ ∀ date, (s.inputCfg n).role = .breaker → last = some date → level ≠ s.run.breakerClosed →
          s.release n suppressed last = released.breakerLevel level date := by
  intro released
  have shape : s.release n suppressed last = (match (s.inputCfg n).role, last with
      | .breaker, some date => if level = s.run.breakerClosed then released else released.breakerLevel level date
      | .breaker, none | .none, _ | .handKey, _ | .takeKey, _ => released) := by
    have given : (s.input n).level.getD false = level := by rw [known, Option.getD_some]
    unfold State.release
    dsimp only
    rw [given]
    rfl
  rw [shape]
  refine ⟨fun quiet => ?_, fun date role dated differs => ?_⟩
  · cases role : (s.inputCfg n).role with
    | none | handKey | takeKey => rfl
    | breaker =>
      cases last with
      | none => rfl
      | some date =>
        obtain other | undated | same := quiet
        · exact absurd role other
        · exact nomatch undated
        · exact if_pos same
  · subst dated
    rw [role]
    exact if_neg differs

end

/-- Settles O41: the row by the state of the input's chatter, the four operations by their equations. -/
theorem changeQualifies : Obligations.ChangeQualifies := by
  refine ⟨?_, ⟨rfl, fun _ _ => rfl⟩, fun s n level change expiry => ?_, fun s n level change => ⟨rfl, ?_, ?_, ?_, ?_⟩⟩
  · intro w n s level first a change expiry count moved recorded handed active known owed free
    have run : exec (.qualifiedChange w n) s = .next (a.qualified n (!level) first).finish := by
      change Host.Outcome.next (match a.changeDue n with
        | none => a
        | some c => a.qualified n c.1 c.2).finish = _
      rw [State.changeDue_of active known owed]
    have hands : moved.handOn n (!level) change = handed := by
      unfold State.handOn State.recordChange
      change State.handByRole (if (a.inputCfg n).edges.selects (!level) then
        (if (a.inputCfg n).cascade then recorded.localMember n (!level) change else recorded) else moved) n (!level) change = handed
      simp only [handed]
      split
      · split
        · rfl
        · rfl
      · rfl
    rw [run, State.qualified_unlocked free, hands]
  · intro i
    rfl
  · intro role
    simp only [State.handByRole, role]
  · intro role
    simp only [State.handByRole, role]
  · intro role
    simp only [State.handByRole, role]
    cases level
    all_goals rfl
  · intro role
    simp only [State.handByRole, role]
    cases level
    all_goals rfl

/-- Settles O42: a suppressed change, and the window's end by the chatter state. -/
theorem chatterSuppressesAndReleases : Obligations.ChatterSuppressesAndReleases := by
  intro w n s a active
  have windowRow : a.windowDue n = true → exec (.chatterWindowExpiry w n) s = .next (a.windowCloses n).finish := by
    intro due
    change Host.Outcome.next (a.when (a.windowDue n) (a.windowCloses n)).finish = _
    rw [State.when_of due]
  refine ⟨fun level first expiry suppressed last known owed chatter => ?_, fun expiry count chatter ended => ?_, ?_⟩
  · change Host.Outcome.next (match a.changeDue n with
      | none => a
      | some c => a.qualified n c.1 c.2).finish = _
    rw [State.changeDue_of active known owed]
    exact next_finish (State.qualified_locked chatter (!level) first)
  · rw [windowRow (State.windowDue_counting active chatter ended)]
    simp only [State.windowCloses, chatter]
  · intro level expiry suppressed last known chatter ended released
    have closes : a.windowCloses n = a.release n suppressed last := by simp only [State.windowCloses, chatter]
    obtain ⟨quiet, told⟩ := State.release_eq known suppressed last
    rw [windowRow (State.windowDue_locked active chatter ended), closes]
    exact ⟨fun still => next_finish (quiet still), fun date role dated differs => next_finish (told date role dated differs)⟩

end Sys2Proof.Machine
end

section
/-! The Cascade Unit and the stops (R86 to R105). -/

namespace Sys2Proof.Machine

/-! ### Records appended -/

/-- A record with the contents of a request. -/
def Record.Holds (r : Record) (kind : RecordKind) (stamp : Stamp) (a : Nat) (b : BitVec 32) : Prop :=
  r.kind = kind ∧ r.stamp = stamp ∧ r.detailA = BitVec.ofNat 8 a ∧ r.detailB = b

section
variable {s : State}

/-- Below 255 records a request appends its record. -/
theorem State.request_appends (kind : RecordKind) (stamp : Stamp) (a : Nat) (b : BitVec 32) (below : s.evq.records.length < 255) :
    ∃ r, (s.request kind stamp a b).evq.records = s.evq.records ++ [r] ∧ r.Holds kind stamp a b := by
  obtain ⟨_, kind_eq, stamp_eq, detailA, detailB, _⟩ := Evq.recordFor_fields s.evq kind stamp (BitVec.ofNat 8 a) b
  exact ⟨_, (Evq.place_below below).1, kind_eq, stamp_eq, detailA, detailB⟩

/-- Behind a record that is no OVERFLOW record a request appends one. -/
theorem State.request_follows {r : Record} {l : List Record} (kind : RecordKind) (stamp : Stamp) (a : Nat) (b : BitVec 32)
    (tail : s.evq.records = l ++ [r]) (ordinary : r.kind ≠ .overflow) :
    ∃ x, (s.request kind stamp a b).evq.records = s.evq.records ++ [x] := by
  by_cases below : s.evq.records.length < 255
  · obtain ⟨x, records, _⟩ := State.request_appends kind stamp a b below
    exact ⟨x, records⟩
  · have closed : s.evq.openOverflow = none := by
      cases open_ : s.evq.openOverflow with
      | none => rfl
      | some o =>
        obtain ⟨last, is⟩ := Evq.openOverflow_some open_
        rw [tail, List.getLast?_concat, Option.some_inj] at last
        exact absurd (last ▸ is) ordinary
    exact ⟨_, (Evq.place_first (Nat.not_lt.mp below) closed).1⟩

end

/-! ### Members -/

theorem Member.same_iff (m x : Member) : m.same x = true ↔ m.node = x.node ∧ m.input = x.input ∧ m.stamp.date = x.stamp.date := by
  simp [Member.same, and_assoc]

theorem Member.same_eq_false {m x : Member} (other : ¬ (m.node = x.node ∧ m.input = x.input ∧ m.stamp.date = x.stamp.date)) :
    m.same x = false := by
  rw [← Member.same_iff] at other
  exact Bool.not_eq_true _ ▸ other

theorem Member.before_iff (m x : Member) : m.before x = true ↔ m.stamp.date.earlier x.stamp.date = true
    ∨ (m.stamp.date = x.stamp.date ∧ (m.node < x.node ∨ (m.node = x.node ∧ m.input < x.input))) := by
  simp [Member.before]

/-- The place of a member: behind those it does not precede, before the first it precedes. -/
theorem insertMember_place (m : Member) (l : List Member) : ∃ before rest, l = before ++ rest
    ∧ insertMember m l = before ++ m :: rest ∧ (∀ x ∈ before, ¬ m.before x = true)
    ∧ ∀ x after, rest = x :: after → m.before x = true := by
  induction l with
  | nil => exact ⟨[], [], rfl, rfl, nofun, nofun⟩
  | cons x xs ih =>
    by_cases precedes : m.before x = true
    · refine ⟨[], x :: xs, rfl, if_pos precedes, nofun, fun y after same => ?_⟩
      obtain ⟨rfl, _⟩ := List.cons.inj same
      exact precedes
    · obtain ⟨before, rest, list, inserted, behind, next⟩ := ih
      refine ⟨x :: before, rest, congrArg _ list, ?_, ?_, next⟩
      · rw [insertMember, if_neg precedes, inserted]
        rfl
      · intro y listed
        obtain rfl | later := List.mem_cons.mp listed
        · exact precedes
        · exact behind y later

theorem changeLast_split {p : Cascade → Bool} (f : Cascade → Cascade) (before : List Cascade) {c : Cascade} {newer : List Cascade}
    (holds : p c = true) (rest : ∀ x ∈ newer, p x = false) :
    changeLast p f (before ++ c :: newer) = before ++ f c :: newer := by
  have none : newer.any p = false := by simpa using rest
  induction before with
  | nil => simp [changeLast, none, holds]
  | cons x xs ih =>
    have some : (xs ++ c :: newer).any p = true := by simp [holds]
    rw [List.cons_append, changeLast, if_pos some, ih]
    rfl

section
variable {s : State} {m : Member}

theorem State.placeMember_lateShut (shut : s.csu.current = none)
    (late : s.csu.list.any (fun c => c.covers s.cfg.spanMs m.stamp.date) = true) : s.placeMember m = { s with csu := { s.csu with
      list := changeLast (fun c => c.covers s.cfg.spanMs m.stamp.date) (fun c => c.addLate m) s.csu.list } } := by
  simp only [State.placeMember, shut, late, if_true]

theorem State.placeMember_opens (shut : s.csu.current = none)
    (new : s.csu.list.any (fun c => c.covers s.cfg.spanMs m.stamp.date) = false) : s.placeMember m = s.openCascade m := by
  simp only [State.placeMember, shut, new, Bool.false_eq_true, if_false]

theorem State.placeMember_inserted {o : OpenCascade} (opened : s.csu.current = some o)
    (covers : o.cascade.covers s.cfg.spanMs m.stamp.date = true) :
    s.placeMember m = { s with csu := { s.csu with current := some { o with cascade := o.cascade.insert m } } } := by
  simp only [State.placeMember, opened, covers, if_true]

theorem State.placeMember_late {o : OpenCascade} (opened : s.csu.current = some o)
    (outside : o.cascade.covers s.cfg.spanMs m.stamp.date = false)
    (late : s.csu.list.any (fun c => c.covers s.cfg.spanMs m.stamp.date) = true) : s.placeMember m = { s with csu := { s.csu with
      list := changeLast (fun c => c.covers s.cfg.spanMs m.stamp.date) (fun c => c.addLate m) s.csu.list } } := by
  simp only [State.placeMember, opened, outside, late, Bool.false_eq_true, if_true, if_false]

theorem State.placeMember_outside {o : OpenCascade} (opened : s.csu.current = some o)
    (outside : o.cascade.covers s.cfg.spanMs m.stamp.date = false)
    (new : s.csu.list.any (fun c => c.covers s.cfg.spanMs m.stamp.date) = false) :
    s.placeMember m = if m.stamp.date.later (o.cascade.spanEnd s.cfg.spanMs) then s.toSlot m else s.countStray := by
  simp only [State.placeMember, opened, outside, new, Bool.false_eq_true, if_false]

theorem Cascade.stored_iff (c : Cascade) (m : Member) : c.members.any (Member.same m) = true ↔
    ∃ x ∈ c.members, m.node = x.node ∧ m.input = x.input ∧ m.stamp.date = x.stamp.date := by
  simp [Member.same_iff]

theorem State.toSlot_taken {o : Member} (taken : s.csu.slot = some o) : s.toSlot m = if m.same o then s
    else if m.stamp.date.earlier o.stamp.date then ({ s with csu := { s.csu with slot := some m } }).countStray
    else s.countStray := by
  simp only [State.toSlot, taken]

end

/-- Settles O43: the tests of placing a member in order, then what each place does with it. -/
theorem memberIsPlaced : Obligations.MemberIsPlaced := by
  refine ⟨?_, fun c spanMs d => ?_, fun p f before c newer holds rest => changeLast_split f before holds rest, fun c m => ?_,
    fun s m => ⟨fun free => ?_, fun o taken => ?_⟩⟩
  · intro s m w covers late
    refine ⟨State.placeMember_lateShut, State.placeMember_opens, fun o => State.placeMember_inserted,
      fun o => State.placeMember_late, fun o opened outside new past => ?_, fun o opened outside new past => ?_⟩
    · rw [State.placeMember_outside opened outside new, if_pos past]
    · rw [State.placeMember_outside opened outside new, past]
      rfl
  · intro us
    refine ⟨rfl, ?_⟩
    simp only [Cascade.covers, Date.within, Bool.and_eq_true, Bool.not_eq_true']
    rfl
  · intro stored precedes
    have known : c.members.any (Member.same m) = true ↔ stored := c.stored_iff m
    refine ⟨fun is => ⟨if_pos (known.mpr is), if_pos (known.mpr is)⟩, fun new => if_neg (mt known.mp new), fun new full => ?_,
      fun new room => ?_⟩
    · rw [Cascade.insert, if_neg (mt known.mp new), if_pos full]
    · obtain ⟨before, rest, list, inserted, behind, next⟩ := insertMember_place m c.members
      refine ⟨before, rest, list, ?_, fun x listed => ?_, fun x after same => ?_⟩
      · rw [Cascade.insert, if_neg (mt known.mp new), if_neg (Nat.not_le.mpr room), inserted]
        rfl
      · exact mt (Member.before_iff m x).mpr (behind x listed)
      · exact (Member.before_iff m x).mp (next x after same)
  · simp only [State.toSlot, free]
  · intro same
    refine ⟨fun is => ?_, fun other earlier => ?_, fun other later => ?_⟩
    · rw [State.toSlot_taken taken, if_pos ((Member.same_iff m o).mpr is)]
    · rw [State.toSlot_taken taken, Member.same_eq_false other, if_pos earlier]
      rfl
    · rw [State.toSlot_taken taken, Member.same_eq_false other, later]
      rfl

end Sys2Proof.Machine
end

section
/-! The close of a cascade and the classification of a stop (R96 to R104). -/

namespace Sys2Proof.Machine

section
variable {s : State}

/-! ### The close of a cascade -/

/-- A cascade closed: in the list, with its record and its flag (R96). -/
def State.closedNoted (s : State) (c : Cascade) : State :=
  (({ s with csu := s.csu.addClosed c }).request .cascadeClosed c.opening
    (c.members.length + (if c.doubtful then 32 else 0) + (if c.full then 64 else 0)) (cascadeDetail c)).setFlag .cascadeClosed

theorem State.closeCascade_eq (s : State) (c : Cascade) :
    s.closeCascade c = (if s.cfg.unitRole then (s.closedNoted c).closeNotice c else s.closedNoted c).openPending := rfl

theorem State.closedNoted_flag (s : State) (c : Cascade) : (s.closedNoted c).flag .cascadeClosed = true := by
  simp [State.closedNoted]

theorem State.classify_flag (x : Stop) (trip : Option (NodeNo × InputNo)) (f : StopFlags) {g : Source} (set : s.flag g = true) :
    (s.classify x trip f).flag g = true := by
  change (s.recordStop x.stamp trip f ((s.time.elapsed - x.takenAt) / 1000)).flag g = true
  unfold State.recordStop
  rw [State.request_flag, set, Bool.true_or]

theorem State.closeNotice_flag (c : Cascade) {g : Source} (set : s.flag g = true) : (s.closeNotice c).flag g = true := by
  unfold State.closeNotice
  cases s.run.stop with
  | none => exact set
  | some x =>
    dsimp only
    cases x.phase with
    | waiting deadline => exact ite_holds (p := fun t : State => t.flag g = true) (State.classify_flag _ _ _ set) set
    | awaitingClose opening opener => exact ite_holds (p := fun t : State => t.flag g = true) (State.classify_flag _ _ _ set) set

/-- The next cascade opened by the pending opener: the Cascade Unit alone changes. -/
theorem State.openPending_eq (s : State) : s.openPending = { s with csu := { s.csu with
    slot := none
    current := match s.csu.slot with
      | none => s.csu.current
      | some m => some ⟨cascadeOf m, s.time.elapsed + (s.cfg.spanMs + s.cfg.settleMs) * 1000⟩ } } := by
  unfold State.openPending
  cases slot : s.csu.slot with
  | none =>
    dsimp only
    rw [← slot]
  | some m => rfl

theorem State.cascadeDue_of {o : OpenCascade} (active : s.active = true) (opened : s.csu.current = some o)
    (ended : o.closeAt ≤ s.time.elapsed) : s.cascadeDue = some o.cascade := by
  simp [State.cascadeDue, opened, active, ended]

end

section
variable {s : State} {c : Cascade}

/-- The Cascade Unit after a close: the closed cascade listed, the pending opener's opened. -/
theorem State.closeCascade_csu (s : State) (c : Cascade) : (s.closeCascade c).csu = { s.csu.addClosed c with
    slot := none
    current := match s.csu.slot with
      | none => none
      | some m => some ⟨cascadeOf m, s.time.elapsed + (s.cfg.spanMs + s.cfg.settleMs) * 1000⟩ } := by
  rw [State.closeCascade_eq, State.openPending_eq]
  split
  · simp [State.cfg, State.closedNoted, Csu.addClosed]
  · simp [State.cfg, State.closedNoted, Csu.addClosed]

theorem State.closeNotice_records {r : Record} {l : List Record} (tail : s.evq.records = l ++ [r]) (ordinary : r.kind ≠ .overflow) :
    ∃ rest, (s.closeNotice c).evq.records = l ++ r :: rest := by
  have kept : ∃ rest, s.evq.records = l ++ r :: rest := ⟨[], tail⟩
  have classified : ∀ x trip, ∃ rest, (s.classify x trip .none).evq.records = l ++ r :: rest := by
    intro x trip
    obtain ⟨y, records⟩ := State.request_follows .stopClassified x.stamp _ _ tail ordinary
    exact ⟨[y], records.trans (by rw [tail, List.append_assoc]; rfl)⟩
  unfold State.closeNotice
  cases s.run.stop with
  | none => exact kept
  | some x =>
    dsimp only
    cases x.phase with
    | waiting deadline => exact ite_holds (p := fun t : State => ∃ rest, t.evq.records = l ++ r :: rest) (classified _ _) kept
    | awaitingClose opening opener =>
      exact ite_holds (p := fun t : State => ∃ rest, t.evq.records = l ++ r :: rest) (classified _ _) kept

end

/-- Settles O44: the row by the close, the close by its parts. -/
theorem cascadeCloses : Obligations.CascadeCloses := by
  intro w s o a c t flags noted active opened ended
  have run : exec (.cascadeClose w) s = .next t.finish := by
    change Host.Outcome.next (match a.cascadeDue with
      | none => a
      | some c => a.closeCascade c).finish = _
    rw [State.cascadeDue_of active opened ended]
  have closes : t = (if a.cfg.unitRole then noted.closeNotice c else noted).openPending := State.closeCascade_eq a c
  have csu := State.closeCascade_csu a c
  have stops : a.run.stop = none → noted.closeNotice c = noted := fun free => State.closeNotice_of_no_stop c (by
    simpa [noted] using free)
  refine ⟨run, fun post => ?_, fun unit => ?_, fun room => ?_, fun full => ?_, ?_, ?_, fun free => ?_, fun m taken => ?_, ?_, ?_, ?_,
    fun below => ?_⟩
  · rw [closes, post]
    rfl
  · rw [closes, unit]
    rfl
  · have few : ¬ 4 ≤ a.csu.list.length := Nat.not_le.mpr room
    simp only [t, csu, Csu.addClosed, if_neg few, and_self]
  · simp only [t, csu, Csu.addClosed, if_pos full, and_self]
  · rw [show t.csu = _ from csu]
  · rw [show t.csu = _ from csu]
    rfl
  · rw [show t.csu = _ from csu, free]
  · rw [show t.csu = _ from csu, taken]
    rfl
  · have set : noted.flag .cascadeClosed = true := State.closedNoted_flag a c
    change t.flag .cascadeClosed = true
    rw [closes, State.openPending_eq]
    split
    · exact State.closeNotice_flag c set
    · exact set
  · exact State.eq_of_fields (by simp [t]) (by simp [t]) (by simp [t]) (by simp [t]) (by simp [t]) rfl rfl (by simp [t]) rfl rfl
      (by simp [t]) (by simp [t]) (by simp [t]) (by simp [t]) (by simp [t]) rfl (by simp [t]) (by simp [t]) (by simp [t])
  · intro quiet
    have kept : t = noted.openPending := by
      rw [closes]
      obtain free | post := quiet
      · rw [stops free, ite_self]
      · rw [post]
        rfl
    rw [kept, State.openPending_eq]
    exact ⟨by simp [noted], by simp [noted]⟩
  · obtain ⟨r, records, kind, stamp, _, _⟩ := State.request_appends (s := { a with csu := a.csu.addClosed c }) .cascadeClosed
      c.opening flags (cascadeDetail c) below
    have tail : noted.evq.records = a.evq.records ++ [r] := records
    rw [closes, State.openPending_eq]
    split
    · obtain ⟨rest, noticed⟩ := State.closeNotice_records (c := c) tail (by rw [kind]; nofun)
      exact ⟨r, rest, noticed, kind, stamp⟩
    · exact ⟨r, [], tail, kind, stamp⟩

/-! ### The increases of the tally -/

theorem atTop_eq {w : Nat} {x top : BitVec w} (is : top = BitVec.allOnes w) : atTop x = decide (x = top) := by rw [is, atTop]

theorem capped_eq_min (n : Nat) : capped 32 n = BitVec.ofNat 32 (min n 4294967295) := by
  refine BitVec.eq_of_toNat_eq ?_
  rw [capped_toNat, BitVec.toNat_ofNat]
  omega

/-! ### A stop classified -/

section
variable {s : State}

theorem State.classify_eq (s : State) (x : Stop) (trip : Option (NodeNo × InputNo)) (f : StopFlags) :
    let recorded := s.recordStop x.stamp trip f ((s.time.elapsed - x.takenAt) / 1000)
    s.classify x trip f = { recorded with
      run := { s.run with stop := none }
      tallies := { s.tallies with
        tally := ((if trip.isSome then Tally.addTrip else Tally.addNormalStop) s.tallies.tally).sealed } } := rfl

theorem State.deadlineDue_of {x : Stop} {deadline : Nat} (active : s.active = true) (stop : s.run.stop = some x)
    (phase : x.phase = .waiting deadline) (ended : deadline ≤ s.time.elapsed) : s.deadlineDue = some x := by
  simp [State.deadlineDue, stop, phase, active, ended]

/-- What the list decides of a stop whose cascade is not open (R102). -/
theorem State.decideStop_byList {x : Stop} (closed : ∀ o, s.csu.current = some o → o.cascade.covers s.cfg.spanMs x.stamp.date = false) :
    s.decideStop x = s.classify x
      (match s.csu.list.find? fun c => c.covers s.cfg.spanMs x.stamp.date && s.qualifies c with
        | some c => c.firstOut
        | none => none) .none := by
  unfold State.decideStop
  cases current : s.csu.current with
  | none => rfl
  | some o =>
    dsimp only
    rw [closed o current]
    rfl

theorem State.decideStop_awaits {x : Stop} {o : OpenCascade} (opened : s.csu.current = some o)
    (covers : o.cascade.covers s.cfg.spanMs x.stamp.date = true) : s.decideStop x = { s with run := { s.run with
      stop := some { x with phase := .awaitingClose o.cascade.opening.date o.cascade.opener } } } := by
  simp only [State.decideStop, opened, covers, if_true]

end

theorem find_first {α : Type} {p : α → Bool} {before rest : List α} {c : α} (holds : p c = true) (none : ∀ d ∈ before, p d = false) :
    (before ++ c :: rest).find? p = some c := by
  rw [List.find?_append, List.find?_eq_none.mpr fun d listed => by simp [none d listed], List.find?_cons_of_pos holds]
  rfl

/-- Settles O46: the deadline by what covers the stop's date, the classification by its parts, and the increases. -/
theorem stopDeadlineDecides : Obligations.StopDeadlineDecides := by
  refine ⟨?_, ?_, ?_⟩
  · intro w s x deadline a span active stop phase ended
    have run : exec (.stopDeadline w) s = .next (a.decideStop x).finish := by
      change Host.Outcome.next (match a.deadlineDue with
        | none => a
        | some stop => a.decideStop stop).finish = _
      rw [State.deadlineDue_of active stop phase ended]
    refine ⟨fun o opened covers => ?_, fun closed => ⟨fun before c rest list holds others => ?_, fun others => ?_⟩⟩
    · rw [run, State.decideStop_awaits opened covers]
    · rw [run, State.decideStop_byList closed, list, find_first (p := fun c => c.covers a.cfg.spanMs x.stamp.date && a.qualifies c) holds others]
      rfl
    · have none : a.csu.list.find? (fun c => c.covers a.cfg.spanMs x.stamp.date && a.qualifies c) = none :=
        List.find?_eq_none.mpr fun d listed => by simpa using others d listed
      rw [run, State.decideStop_byList closed, none]
      rfl
  · intro s x trip f t
    have fields : t.tallies.tally.fields = ((if trip.isSome then Tally.addTrip else Tally.addNormalStop) s.tallies.tally).fields :=
      (Tally.sealed_fields _).1
    have saturated : t.tallies.tally.saturated =
        ((if trip.isSome then Tally.addTrip else Tally.addNormalStop) s.tallies.tally).saturated :=
      (Tally.sealed_fields _).2.2.2
    refine ⟨?_, rfl, fun below => ?_, ?_, ?_, Tally.sealed_check _⟩
    · exact State.eq_of_fields (by simp [t]) (by simp [t]) (by simp [t]) (by simp [t]) (by simp [t]) rfl (by simp [t]) (by simp [t])
        rfl rfl (by simp [t]) (by simp [t]) (by simp [t]) (by simp [t]) (by simp [t]) rfl (by simp [t]) (by simp [t]) (by simp [t])
    · obtain ⟨r, records, kind, stamp, detailA, detailB⟩ := State.request_appends .stopClassified x.stamp
        (bitAt 0 trip.isSome + bitAt 1 f.superseded + bitAt 2 f.outage + bitAt 3 f.reset) _ below
      refine ⟨r, records, kind, stamp, ?_, detailB⟩
      rw [detailA]
      simp only [bitAt_eq]
      norm_num
    · rw [fields]
      cases trip
      all_goals rfl
    · rw [saturated]
      cases trip with
      | none => exact congrArg (s.tallies.tally.saturated || ·) (atTop_eq (x := s.tallies.tally.fields.normalStops) rfl)
      | some place => exact congrArg (s.tallies.tally.saturated || ·) (atTop_eq (x := s.tallies.tally.fields.trips) rfl)
  · intro t tenths f credited
    have held : ∀ (w : Nat) (x top : BitVec w), top = BitVec.allOnes w → ∀ g, t.credit g (atTop x) = credited g (decide (x = top)) := by
      intro w x top is g
      rw [atTop_eq is]
      rfl
    refine ⟨held 24 _ _ rfl _, held 24 _ _ rfl _, held 24 _ _ rfl _, held 24 _ _ rfl _, held 40 _ _ rfl _, held 40 _ _ rfl _, rfl, rfl, ?_⟩
    simp only [Tally.addOutage, capped_eq_min, Tally.credit]
    rfl

end Sys2Proof.Machine
end

section
/-! The run state machine (R114 to R121) and the Speed Unit (R108 to R113, R125). -/

namespace Sys2Proof.Machine

section
variable {s : State}

/-! ### The SPEED SILENT timing -/

theorem State.timeSilence_holds (online : s.run.state = .online) (silent : s.spu.silent = true) :
    s.timeSilence = { s with run := { s.run with
      silentSince := match s.run.silentSince with
        | some t => some t
        | none => some s.time.elapsed } } := by
  unfold State.timeSilence
  rw [if_pos (by simp [online, silent])] <;> rfl

theorem State.timeSilence_ends (ends : s.run.state ≠ .online ∨ s.spu.silent = false) :
    s.timeSilence = { s with run := { s.run with silentSince := none, speedSilent := false } } := by
  unfold State.timeSilence
  rw [if_neg]
  obtain other | heard := ends
  · simp [other]
  · simp [heard]

/-! ### RUN CHANGE records -/

theorem State.recordRun_appends (date : Stamp) (new : RunState) (doubt : Bool) (below : s.evq.records.length < 255) :
    ∃ r, (s.recordRun date new doubt).evq.records = s.evq.records ++ [r] ∧ r.kind = .runChange ∧ r.stamp = date
      ∧ r.detailA = BitVec.ofNat 8 (s.run.state.code + 4 * new.code + (if doubt then 16 else 0) + (if s.run.initialPhase then 32 else 0))
      ∧ r.detailB = BitVec.ofNat 32 s.spu.speed := by
  obtain ⟨r, records, kind, stamp, detailA, detailB⟩ := State.request_appends .runChange date
    (s.run.state.code + new.code * 4 + bitAt 4 doubt + bitAt 5 s.run.initialPhase) (BitVec.ofNat 32 s.spu.speed) below
  refine ⟨r, records, kind, stamp, ?_, detailB⟩
  rw [detailA, Nat.mul_comm]
  rfl

/-- A RUN CHANGE record writes the queue and what it shows in Attention. -/
theorem State.recordRun_eq (s : State) (date : Stamp) (new : RunState) (doubt : Bool) : s.recordRun date new doubt =
    { s with evq := (s.recordRun date new doubt).evq, atl := (s.recordRun date new doubt).atl } := rfl

/-! ### The speed condition -/

/-- A speed that makes no transition: the condition, and the end of the initial phase (R114, R116). -/
def State.speedTaken (s : State) : State :=
  { s with run := { s.run with turning := speedCondition s.cfg s.spu.speed s.run.turning, initialPhase := false } }

/-- A run state entered by the speed condition, with its record (R115). -/
def State.speedMoves (s : State) (new : RunState) : State :=
  ((({ s with run := { s.run with turning := speedCondition s.cfg s.spu.speed s.run.turning } }).recordRun s.stamp new false).enterRun
    new).timeSilence

theorem State.speedHanded_eq (s : State) : s.speedHanded =
    (if speedCondition s.cfg s.spu.speed s.run.turning = s.run.turning then s.speedTaken
    else match s.run.state, speedCondition s.cfg s.spu.speed s.run.turning with
      | .standstill, true =>
        if s.run.breakerClosed then s.speedTaken else (s.changeTally Tally.addStart).speedMoves .spinning
      | .spinning, false => s.speedMoves .standstill
      | .standstill, false | .spinning, true | .online, _ => s.speedTaken) := rfl

theorem State.speedHanded_same (same : speedCondition s.cfg s.spu.speed s.run.turning = s.run.turning) :
    s.speedHanded = s.speedTaken := by
  rw [State.speedHanded_eq, if_pos same]

theorem State.speedHanded_closed (standing : s.run.state = .standstill) (closed : s.run.breakerClosed = true) :
    s.speedHanded = s.speedTaken := by
  rw [State.speedHanded_eq, standing, closed]
  cases speedCondition s.cfg s.spu.speed s.run.turning
  · exact ite_self _
  · exact ite_self _

theorem State.speedHanded_online (online : s.run.state = .online) : s.speedHanded = s.speedTaken := by
  rw [State.speedHanded_eq, online]
  exact ite_self _

theorem State.speedHanded_starts (standing : s.run.state = .standstill) (still : s.run.turning = false)
    (turning : speedCondition s.cfg s.spu.speed s.run.turning = true) (opened : s.run.breakerClosed = false) :
    s.speedHanded = (s.changeTally Tally.addStart).speedMoves .spinning := by
  rw [State.speedHanded_eq, standing, turning, still, opened]
  rfl

theorem State.speedHanded_stops (spinning : s.run.state = .spinning) (turning : s.run.turning = true)
    (still : speedCondition s.cfg s.spu.speed s.run.turning = false) : s.speedHanded = s.speedMoves .standstill := by
  rw [State.speedHanded_eq, spinning, still, turning]
  rfl

/-- A run state other than ONLINE entered by the speed condition. -/
theorem State.speedMoves_eq {new : RunState} (other : new ≠ .online) : s.speedMoves new = { s.recordRun s.stamp new false with
    run := { s.run with
      state := new
      turning := speedCondition s.cfg s.spu.speed s.run.turning
      initialPhase := false
      silentSince := none
      speedSilent := false } } := by
  unfold State.speedMoves
  rw [State.timeSilence_ends (.inl other)]
  rfl

/-- The ways a speed is taken: no transition, a start, a stop. -/
theorem State.speedHanded_cases (s : State) : s.speedHanded = s.speedTaken
    ∨ (s.run.state = .standstill ∧ s.speedHanded = (s.changeTally Tally.addStart).speedMoves .spinning)
    ∨ (s.run.state = .spinning ∧ s.speedHanded = s.speedMoves .standstill) := by
  rw [State.speedHanded_eq]
  by_cases same : speedCondition s.cfg s.spu.speed s.run.turning = s.run.turning
  · exact .inl (if_pos same)
  rw [if_neg same]
  cases s.run.state with
  | standstill =>
    cases speedCondition s.cfg s.spu.speed s.run.turning with
    | false => exact .inl rfl
    | true =>
      dsimp only
      split
      · exact .inl rfl
      · exact .inr (.inl ⟨rfl, rfl⟩)
  | spinning =>
    cases speedCondition s.cfg s.spu.speed s.run.turning with
    | false => exact .inr (.inr ⟨rfl, rfl⟩)
    | true => exact .inl rfl
  | online => exact .inl rfl

/-! ### The breaker -/

/-- The breaker's level held. -/
def State.breakerHeld (s : State) (closed : Bool) : State := { s with run := { s.run with breakerClosed := closed } }

/-- The breaker closed from STANDSTILL or SPINNING, a waiting stop superseded (R120). -/
def State.superseded (s : State) : State :=
  match s.run.stop with
  | none => s.breakerHeld true
  | some x => (s.breakerHeld true).classify x none ⟨true, false, false⟩

/-- ONLINE entered, with one sync and its record. -/
def State.synced (s : State) (date : Stamp) : State :=
  (((s.superseded.changeTally Tally.addSync).recordRun date .online (decide (s.run.state = .standstill))).enterRun .online).timeSilence

/-- ONLINE left for a run state, with the stop and the record (R119). -/
def State.stopTaken (s : State) (date : Stamp) (new : RunState) : State :=
  ((({ s with run := { s.run with
    breakerClosed := false
    stop := some ⟨date, s.time.elapsed, .waiting s.stopDeadlineAt⟩ } }).recordRun date new false).enterRun new).timeSilence

theorem State.breakerCloses_eq (s : State) (date : Stamp) : s.breakerCloses date = (match s.run.state with
    | .online => s.breakerHeld true
    | .standstill | .spinning => s.synced date) := rfl

theorem State.breakerOpens_eq (s : State) (date : Stamp) : s.breakerOpens date = (match s.run.state with
    | .standstill | .spinning => s.breakerHeld false
    | .online => s.stopTaken date (if s.run.turning then .spinning else .standstill)) := rfl

theorem State.breakerCloses_away (date : Stamp) (away : s.run.state ≠ .online) : s.breakerCloses date = s.synced date := by
  rw [State.breakerCloses_eq]
  cases state : s.run.state with
  | online => exact absurd state away
  | standstill | spinning => rfl

theorem State.breakerCloses_online (date : Stamp) (online : s.run.state = .online) : s.breakerCloses date = s.breakerHeld true := by
  rw [State.breakerCloses_eq, online]

theorem State.breakerOpens_away (date : Stamp) (away : s.run.state ≠ .online) : s.breakerOpens date = s.breakerHeld false := by
  rw [State.breakerOpens_eq]
  cases state : s.run.state with
  | online => exact absurd state away
  | standstill | spinning => rfl

theorem State.breakerOpens_online (date : Stamp) (online : s.run.state = .online) :
    s.breakerOpens date = s.stopTaken date (if s.run.turning then .spinning else .standstill) := by
  rw [State.breakerOpens_eq, online]

theorem State.stopTaken_eq (date : Stamp) {new : RunState} (other : new ≠ .online) :
    s.stopTaken date new = { s.recordRun date new false with
      run := { s.run with
        state := new
        breakerClosed := false
        initialPhase := false
        stop := some ⟨date, s.time.elapsed, .waiting s.stopDeadlineAt⟩
        silentSince := none
        speedSilent := false } } := by
  unfold State.stopTaken
  rw [State.timeSilence_ends (.inl other)]
  rfl

/-- A waiting stop superseded: its record, one normal stop, and no stop left. -/
theorem State.superseded_run (s : State) : s.superseded.run = { s.run with breakerClosed := true, stop := none } := by
  unfold State.superseded
  cases stop : s.run.stop with
  | none =>
    dsimp only [State.breakerHeld]
    rw [← stop]
  | some x => rfl

@[simp] theorem State.superseded_frame (s : State) :
    s.superseded.time = s.time ∧ s.superseded.clock = s.clock ∧ s.superseded.lif = s.lif ∧ s.superseded.clu = s.clu ∧
    s.superseded.isc = s.isc ∧ s.superseded.csu = s.csu ∧ s.superseded.spu = s.spu ∧ s.superseded.shu = s.shu ∧
    s.superseded.lastAccepted = s.lastAccepted ∧ s.superseded.sup = s.sup ∧ s.superseded.chk = s.chk ∧
    s.superseded.lpt = s.lpt ∧ s.superseded.pins = s.pins ∧ s.superseded.free = s.free ∧ s.superseded.pending = s.pending := by
  unfold State.superseded
  split
  all_goals simp [State.breakerHeld]

/-- The run state after a sync, but for the SPEED SILENT timing. -/
theorem State.synced_run (s : State) (date : Stamp) : (s.synced date).run = { s.run with
    state := .online
    breakerClosed := true
    initialPhase := false
    stop := none
    silentSince := if s.spu.silent then (match s.run.silentSince with
        | some x => some x
        | none => some s.time.elapsed)
      else none
    speedSilent := if s.spu.silent then s.run.speedSilent else false } := by
  unfold State.synced
  cases silent : s.spu.silent with
  | true =>
    rw [State.timeSilence_holds rfl (by simp [silent])]
    simp [State.enterRun, State.superseded_run]
  | false =>
    rw [State.timeSilence_ends (.inr (by simp [silent]))]
    simp [State.enterRun, State.superseded_run]

theorem State.synced_evq (s : State) (date : Stamp) : (s.synced date).evq =
    ((s.superseded.changeTally Tally.addSync).recordRun date .online (decide (s.run.state = .standstill))).evq := by
  simp [State.synced]

theorem State.synced_tally (s : State) (date : Stamp) :
    (s.synced date).tallies = (s.superseded.changeTally Tally.addSync).tallies := by
  simp [State.synced]

end

end Sys2Proof.Machine
end

section
/-! The run state machine settled (R114 to R121). -/

namespace Sys2Proof.Machine

section
variable {s : State}

theorem speedCondition_eq (c : NodeConfig) (speed : Nat) (before : Bool) :
    (if c.spin ≤ speed then true else if speed < c.standstill then false else before) = speedCondition c speed before := rfl

/-- What the speed condition cannot change. -/
theorem State.speedHanded_books (s : State) : s.speedHanded.run.turning = speedCondition s.cfg s.spu.speed s.run.turning
    ∧ s.speedHanded.run.initialPhase = false ∧ s.speedHanded.run.stop = s.run.stop
    ∧ s.speedHanded.run.breakerClosed = s.run.breakerClosed := by
  obtain taken | ⟨-, started⟩ | ⟨-, stopped⟩ := State.speedHanded_cases s
  · rw [taken]
    exact ⟨rfl, rfl, rfl, rfl⟩
  · rw [started, State.speedMoves_eq (new := .spinning) nofun]
    exact ⟨rfl, rfl, rfl, rfl⟩
  · rw [stopped, State.speedMoves_eq (new := .standstill) nofun]
    exact ⟨rfl, rfl, rfl, rfl⟩

/-- The books a speed can change. -/
theorem State.speedHanded_frameEq (s : State) : s.speedHanded = { s with
    run := s.speedHanded.run
    evq := s.speedHanded.evq
    atl := s.speedHanded.atl
    tallies := { s.tallies with tally := s.speedHanded.tallies.tally } } := by
  obtain taken | ⟨-, started⟩ | ⟨-, stopped⟩ := State.speedHanded_cases s
  · rw [taken]
    rfl
  · rw [started, State.speedMoves_eq (new := .spinning) nofun]
    rfl
  · rw [stopped, State.speedMoves_eq (new := .standstill) nofun]
    rfl

/-- The records of a sync without a waiting stop. -/
theorem State.synced_free (date : Stamp) (free : s.run.stop = none) (below : s.evq.records.length < 255) :
    ∃ r, (s.synced date).evq.records = s.evq.records ++ [r] ∧ r.kind = .runChange ∧ r.stamp = date
      ∧ r.detailA = BitVec.ofNat 8 (s.run.state.code + 4 * RunState.online.code + (if decide (s.run.state = .standstill) then 16 else 0)
        + (if s.run.initialPhase then 32 else 0))
      ∧ r.detailB = BitVec.ofNat 32 s.spu.speed := by
  rw [State.synced_evq, State.superseded, free]
  exact State.recordRun_appends (s := (s.breakerHeld true).changeTally Tally.addSync) date .online _ below

/-- The records of a sync that ends a waiting stop. -/
theorem State.synced_waiting {x : Stop} (date : Stamp) (waiting : s.run.stop = some x) (below : s.evq.records.length < 254) :
    ∃ c r, (s.synced date).evq.records = s.evq.records ++ [c, r] ∧ c.kind = .stopClassified ∧ c.stamp = x.stamp ∧ c.detailA = 0x02#8
      ∧ r.kind = .runChange ∧ r.stamp = date
      ∧ r.detailA = BitVec.ofNat 8 (s.run.state.code + 4 * RunState.online.code + (if decide (s.run.state = .standstill) then 16 else 0)
        + (if s.run.initialPhase then 32 else 0))
      ∧ r.detailB = BitVec.ofNat 32 s.spu.speed := by
  obtain ⟨c, first, kind, stamp, detailA, -⟩ := State.request_appends (s := s.breakerHeld true) .stopClassified x.stamp
    (bitAt 0 false + bitAt 1 true + bitAt 2 false + bitAt 3 false)
    (BitVec.ofNat 32 (0 + min ((s.time.elapsed - x.takenAt) / 1000) 16777215)) (Nat.lt_trans below (Nat.lt_succ_self _))
  have ended : ((s.breakerHeld true).classify x none ⟨true, false, false⟩).evq.records = s.evq.records ++ [c] := first
  obtain ⟨r, second, change⟩ := State.recordRun_appends
    (s := ((s.breakerHeld true).classify x none ⟨true, false, false⟩).changeTally Tally.addSync) date .online
    (decide (s.run.state = .standstill)) (by
      rw [(State.changeTally_fields _ _).2.2.2.2.2.1, ended, List.length_append]
      exact Nat.succ_lt_succ below)
  refine ⟨c, r, ?_, kind, stamp, detailA, change⟩
  rw [State.synced_evq, State.superseded, waiting, second, (State.changeTally_fields _ _).2.2.2.2.2.1, ended, List.append_assoc]
  rfl

theorem State.superseded_tallies (s : State) :
    s.superseded.tallies = { s.tallies with tally := s.superseded.tallies.tally } := by
  unfold State.superseded
  cases s.run.stop with
  | none => rfl
  | some x => rfl

/-- The books a sync can change. -/
theorem State.synced_frameEq (s : State) (date : Stamp) : s.synced date = { s with
    run := (s.synced date).run
    evq := (s.synced date).evq
    atl := (s.synced date).atl
    tallies := { s.tallies with tally := (s.synced date).tallies.tally } } := by
  have tallies : (s.synced date).tallies = { s.tallies with tally := (s.synced date).tallies.tally } := by
    rw [State.synced_tally]
    exact congrArg (fun x : Tallies => { x with tally := (s.superseded.changeTally Tally.addSync).tallies.tally }) (State.superseded_tallies s)
  refine State.eq_of_fields ?_ ?_ ?_ ?_ ?_ rfl ?_ ?_ rfl tallies ?_ ?_ ?_ ?_ ?_ rfl ?_ ?_ ?_
  all_goals simp [State.synced]

end

/-- Settles O48: a speed by its transition, a level by the run state it finds. -/
theorem runStateMoves : Obligations.RunStateMoves := by
  refine ⟨?_, ?_⟩
  · intro s cond t change
    obtain ⟨turning, initial, stop, level⟩ := State.speedHanded_books s
    refine ⟨turning, initial, fun same => ?_, fun standing still cond_eq opened => ?_, fun standing closed => ?_,
      fun spinning turns cond_eq => ?_, fun online => ?_, State.speedHanded_frameEq s, stop, level⟩
    · change s.speedHanded = _
      have held : speedCondition s.cfg s.spu.speed s.run.turning = s.run.turning := same
      rw [State.speedHanded_same held, State.speedTaken, held]
    · have starts : t = (s.changeTally Tally.addStart).speedMoves .spinning := State.speedHanded_starts standing still cond_eq opened
      rw [State.speedMoves_eq (new := .spinning) nofun] at starts
      rw [starts]
      refine ⟨rfl, rfl, rfl, Tally.sealed_fields _ |>.1, fun below => ?_⟩
      exact State.recordRun_appends (s := s.changeTally Tally.addStart) s.stamp .spinning false below
    · exact State.speedHanded_closed standing closed
    · have stops : t = s.speedMoves .standstill := State.speedHanded_stops spinning turns cond_eq
      rw [State.speedMoves_eq (new := .standstill) nofun] at stops
      rw [stops]
      exact ⟨rfl, rfl, rfl, rfl, fun below => State.recordRun_appends s.stamp .standstill false below⟩
    · exact State.speedHanded_online online
  · intro s date closed opened f change
    have sync : s.run.state ≠ .online → closed = s.synced date := fun away => State.breakerCloses_away date away
    have held : s.run.state = .online → closed = s.breakerHeld true := fun online => State.breakerCloses_online date online
    have leave : s.run.state = .online → opened = s.stopTaken date (if s.run.turning then .spinning else .standstill) :=
      fun online => State.breakerOpens_online date online
    have stay : s.run.state ≠ .online → opened = s.breakerHeld false := fun away => State.breakerOpens_away date away
    have left : (if s.run.turning then RunState.spinning else .standstill) ≠ .online := by
      split
      all_goals nofun
    refine ⟨⟨?_, ?_, ?_⟩, fun away free => ?_, fun x away waiting => ?_, fun away => ⟨fun silent => ?_, fun heard => ?_⟩, held, ?_,
      fun online => ?_, stay⟩
    · by_cases online : s.run.state = .online
      · rw [held online]
        rfl
      · rw [sync online, State.synced_run]
    · by_cases online : s.run.state = .online
      · rw [leave online, State.stopTaken_eq date left]
      · rw [stay online]
        rfl
    · by_cases online : s.run.state = .online
      · rw [held online]
        exact online
      · rw [sync online, State.synced_run]
    · rw [sync away, State.synced_run, State.synced_tally, State.superseded, free]
      exact ⟨Tally.sealed_fields _ |>.1, rfl, rfl, fun below => State.synced_free date free below⟩
    · rw [sync away, State.synced_run, State.synced_tally, State.superseded, waiting]
      exact ⟨Tally.sealed_fields _ |>.1, rfl, rfl, fun below => State.synced_waiting date waiting below⟩
    · rw [sync away, State.synced_run, silent]
      refine ⟨rfl, fun off => ?_, fun x running => ?_⟩
      · rw [off]
        rfl
      · rw [running]
        rfl
    · rw [sync away, State.synced_run, heard]
      exact ⟨rfl, rfl⟩
    · by_cases online : s.run.state = .online
      · rw [held online]
        rfl
      · rw [sync online]
        exact State.synced_frameEq s date
    · rw [leave online, State.stopTaken_eq date left]
      exact ⟨rfl, rfl, rfl, rfl, rfl, rfl, fun below => State.recordRun_appends date _ false below⟩

end Sys2Proof.Machine
end

section
/-! The Speed Unit and the oscillator tenths (R108 to R113, R117, R125). -/

namespace Sys2Proof.Machine

section
variable {s : State}

/-- The end of a command changes Attention and Lamps alone. -/
theorem State.finish_eq (s : State) : s.finish = { s with atl := s.finish.atl } := by
  unfold State.finish
  split
  all_goals rfl

/-- What the speed and the run can change is not more at a command's end. -/
theorem State.finish_runFrame {t a : State} (same : t = { a with
      spu := t.spu
      run := t.run
      evq := t.evq
      atl := t.atl
      tallies := { a.tallies with tally := t.tallies.tally } }) :
    t.finish = { a with
      spu := t.spu
      run := t.finish.run
      evq := t.finish.evq
      atl := t.finish.atl
      tallies := { a.tallies with tally := t.finish.tallies.tally } } := by
  rw [State.finish_eq]
  exact congrArg (fun u : State => { u with atl := t.finish.atl }) same

theorem State.finish_run (s : State) : s.finish.run = s.run := by simp

theorem State.finish_evq (s : State) : s.finish.evq = s.evq := by simp

theorem State.finish_tallies (s : State) : s.finish.tallies = s.tallies := by simp

theorem State.unitActive_of (active : s.active = true) (unit : s.cfg.unitRole = true) : s.unitActive = true := by
  simp [State.unitActive, active, unit]

theorem State.timeSilence_silent {now : Nat} (silent : s.spu.silent = true) (since : s.time.elapsed = now) : s.timeSilence = { s with
    run := if s.run.state = RunState.online then { s.run with silentSince := (match s.run.silentSince with
        | some x => some x
        | none => some now) }
      else { s.run with silentSince := none, speedSilent := false } } := by
  rw [← since]
  by_cases online : s.run.state = .online
  · rw [State.timeSilence_holds online silent, if_pos online] <;> rfl
  · rw [State.timeSilence_ends (.inl online), if_neg online]

/-- The SPEED SILENT timing changes nothing but the run. -/
theorem State.timeSilence_frameEq (s : State) : s.timeSilence = { s with run := s.timeSilence.run } := by
  unfold State.timeSilence
  split
  all_goals rfl

theorem State.speedHanded_spu (s : State) : s.speedHanded.spu = s.spu := by simp

theorem State.speedHanded_time (s : State) : s.speedHanded.time = s.time := by simp

/-- Silence declared, before the Run Unit hears of it. -/
def State.silenced (s : State) : State := { s with spu := { s.spu with phase := .noEdge, speed := 0, silent := true } }

theorem State.declareSilence_post (post : s.cfg.unitRole = false) : s.declareSilence = s.silenced := by
  unfold State.declareSilence
  dsimp only
  rw [show (State.cfg _).unitRole = s.cfg.unitRole from rfl, post]
  rfl

theorem State.declareSilence_unit (unit : s.cfg.unitRole = true) :
    s.declareSilence = s.silenced.speedHanded.timeSilence := by
  unfold State.declareSilence
  dsimp only
  rw [show (State.cfg _).unitRole = s.cfg.unitRole from rfl, unit]
  rfl

theorem State.silentDue_of {since : Nat} (active : s.active = true) (unit : s.cfg.unitRole = true)
    (timing : s.run.silentSince = some since) (before : s.run.speedSilent = false) (held : since + 2000000 ≤ s.time.elapsed) :
    s.silentDue = true := by
  simp [State.silentDue, timing, State.unitActive_of active unit, before, held]

/-- The next tenth begun. -/
def State.tenthBegun (s : State) : State := { s with run := { s.run with tenthStart := s.run.tenthStart + 100000 } }

theorem State.creditTenth_eq (s : State) : s.creditTenth = (match s.run.state with
    | .standstill => s.tenthBegun
    | .spinning | .online => s.tenthBegun.changeTally fun t => t.addTenth s.run.state) := rfl

end

/-- Settles O49: the three rows by their due moments. -/
theorem silenceAndTenths : Obligations.SilenceAndTenths := by
  intro w s a now f active
  refine ⟨fun heard ended => ?_, fun since unit timing before held => ?_, fun unit ended => ?_⟩
  · have run : exec (.speedSilence w) s = .next a.declareSilence.finish := by
      change Host.Outcome.next (a.when a.speedSilenceDue a.declareSilence).finish = _
      rw [State.when_of (by simp only [State.speedSilenceDue, active, heard, Bool.not_false, Bool.and_self, Bool.true_and]
                            exact decide_eq_true ended)]
    refine ⟨_, run, ?_, fun post => ?_, fun unit => ?_, fun unit online => ?_⟩
    · cases unit : a.cfg.unitRole with
      | false =>
        rw [State.declareSilence_post unit]
        exact State.finish_runFrame rfl
      | true =>
        rw [State.declareSilence_unit unit, State.timeSilence_frameEq, State.speedHanded_frameEq]
        exact State.finish_runFrame rfl
    · rw [State.declareSilence_post post]
      simp [State.silenced]
    · intro handed
      rw [State.declareSilence_unit unit]
      exact congrArg State.finish (State.timeSilence_silent (s := a.silenced.speedHanded) (now := now)
        (by rw [State.speedHanded_spu]; rfl) (by rw [State.speedHanded_time]; rfl))
    · have taken : a.silenced.speedHanded = a.silenced.speedTaken := State.speedHanded_online online
      have holds := State.timeSilence_holds (s := a.silenced.speedTaken) online rfl
      rw [State.declareSilence_unit unit, taken, holds, State.finish_tallies, State.finish_run]
      exact ⟨rfl, online, rfl⟩
  · have run : exec (.speedSilent w) s = .next (a.when a.silentDue a.beginSpeedSilent).finish := rfl
    rw [run, State.when_of (State.silentDue_of active unit timing before held)]
    rfl
  · have run : exec (.oscillatorTenth w) s = .next (a.when a.tenthDue a.creditTenth).finish := rfl
    rw [State.when_of (by rw [State.tenthDue, State.unitActive_of active unit, Bool.true_and]
                          exact decide_eq_true ended), State.creditTenth_eq] at run
    refine ⟨_, run, ?_⟩
    cases state : a.run.state with
    | standstill =>
      refine ⟨State.finish_run _, congrArg (·.tally.fields) (State.finish_tallies _), (State.finish_runFrame rfl).trans ?_⟩
      rw [State.finish_evq]
      rfl
    | spinning =>
      refine ⟨State.finish_run _, congrArg (·.tally.fields) (State.finish_tallies _), (State.finish_runFrame rfl).trans ?_⟩
      rw [State.finish_evq]
      rfl
    | online =>
      refine ⟨State.finish_run _, congrArg (·.tally.fields) (State.finish_tallies _), (State.finish_runFrame rfl).trans ?_⟩
      rw [State.finish_evq]
      rfl

end Sys2Proof.Machine
end

section
/-! Speed edges (R108 to R113). -/

namespace Sys2Proof.Machine

section
variable {s : State} {e : Nat}

/-- A pulse counted, but for the tally. -/
def Spu.pulsed (u : Spu) (pulsesPerRev : Nat) : Spu :=
  { u with pulsesNow := u.pulsesNow + 1, revPulses := if pulsesPerRev ≤ u.revPulses + 1 then 0 else u.revPulses + 1 }

/-- A pulse counted, with the tally it leaves. -/
def State.pulseCounted (s : State) (tally : Tally) : State :=
  { s with spu := s.spu.pulsed s.cfg.pulsesPerRev, tallies := { s.tallies with tally := tally } }

theorem State.countPulse_post (post : s.cfg.unitRole = false) : s.countPulse = s.pulseCounted s.tallies.tally := by
  unfold State.countPulse State.pulseCounted Spu.pulsed
  simp only [post, Bool.and_false, Bool.false_eq_true, if_false, decide_eq_true_eq]

theorem State.countPulse_unit (unit : s.cfg.unitRole = true) : s.countPulse = s.pulseCounted
    (if s.cfg.pulsesPerRev ≤ s.spu.revPulses + 1 then s.tallies.tally.addRevolution.sealed else s.tallies.tally) := by
  unfold State.countPulse State.pulseCounted Spu.pulsed
  by_cases whole : s.cfg.pulsesPerRev ≤ s.spu.revPulses + 1
  · simp only [unit, whole, decide_true, Bool.and_self, if_true]
    rfl
  · simp only [unit, whole, decide_false, Bool.false_and, Bool.false_eq_true, if_false]

theorem State.finish_spu (s : State) : s.finish.spu = s.spu := by simp

theorem State.phaseEdge_noEdge (phase : s.spu.phase = .noEdge) :
    s.phaseEdge = { s with spu := { s.spu with phase := .firstPeriod s.time.elapsed } } := by
  simp only [State.phaseEdge, phase]

theorem State.phaseEdge_firstPeriod (phase : s.spu.phase = .firstPeriod e) :
    s.phaseEdge = { s with spu := { s.spu with phase := .measuring s.time.elapsed } } := by
  simp only [State.phaseEdge, phase]

/-- A period ended: the phase, the period, and the speed it gives. -/
def State.periodEnded (s : State) (e : Nat) : State :=
  { s with spu := { s.spu with
      phase := .measuring s.time.elapsed
      lastPeriod := some (s.time.elapsed - e)
      speed := speedOf (s.time.elapsed - e) s.cfg.pulsesPerRev } }

theorem State.phaseEdge_measuring (phase : s.spu.phase = .measuring e) :
    s.phaseEdge = if s.cfg.unitRole then (s.periodEnded e).speedHanded else s.periodEnded e := by
  simp only [State.phaseEdge, phase]
  rfl

theorem State.endSilence_eq (s : State) : s.endSilence = { s with
    spu := { s.spu with silent := false, silenceSince := s.time.elapsed }
    run := { s.run with silentSince := none, speedSilent := false } } := by
  unfold State.endSilence
  rw [State.timeSilence_ends (.inr rfl)]

theorem State.speedHanded_revolutions (s : State) :
    s.speedHanded.tallies.tally.fields.revolutions = s.tallies.tally.fields.revolutions := by
  obtain taken | ⟨-, started⟩ | ⟨-, stopped⟩ := State.speedHanded_cases s
  · rw [taken]
    rfl
  · rw [started, State.speedMoves_eq (new := .spinning) nofun]
    rfl
  · rw [stopped, State.speedMoves_eq (new := .standstill) nofun]
    rfl

theorem State.edgeAccepted_of (active : s.active = true) (spaced : ∀ e, s.spu.phase.edge = some e → e + 20 ≤ s.time.elapsed) :
    s.edgeAccepted = true := by
  rw [State.edgeAccepted, active, Bool.true_and, SpeedPhase.accepts]
  cases edge : s.spu.phase.edge with
  | none => rfl
  | some e => exact decide_eq_true (spaced e edge)

theorem State.not_edgeAccepted (edge : s.spu.phase.edge = some e) (early : s.time.elapsed < e + 20) : s.edgeAccepted = false := by
  rw [State.edgeAccepted, SpeedPhase.accepts, edge]
  simp [early]

/-- The books an edge under its phase can change. -/
theorem State.phaseEdge_frameEq (s : State) : s.phaseEdge = { s with
    spu := s.phaseEdge.spu
    run := s.phaseEdge.run
    evq := s.phaseEdge.evq
    atl := s.phaseEdge.atl
    tallies := { s.tallies with tally := s.phaseEdge.tallies.tally } } := by
  cases phase : s.spu.phase with
  | noEdge => rw [State.phaseEdge_noEdge phase]
  | firstPeriod e => rw [State.phaseEdge_firstPeriod phase]
  | measuring e =>
    rw [State.phaseEdge_measuring phase]
    split
    · rw [State.speedHanded_frameEq]
      rfl
    · rfl

/-- The Speed Unit by the phase of an edge. -/
def Spu.phased (u : Spu) (pulsesPerRev now : Nat) : Spu :=
  match u.phase with
  | .noEdge => { u with phase := .firstPeriod now }
  | .firstPeriod _ => { u with phase := .measuring now }
  | .measuring e =>
    { u with phase := .measuring now, lastPeriod := some (now - e), speed := speedOf (now - e) pulsesPerRev }

section
variable {u : Spu} {pulsesPerRev now : Nat}

theorem Spu.phased_noEdge (phase : u.phase = .noEdge) : u.phased pulsesPerRev now = { u with phase := .firstPeriod now } := by
  simp only [Spu.phased, phase]

theorem Spu.phased_firstPeriod (phase : u.phase = .firstPeriod e) :
    u.phased pulsesPerRev now = { u with phase := .measuring now } := by
  simp only [Spu.phased, phase]

theorem Spu.phased_measuring (phase : u.phase = .measuring e) : u.phased pulsesPerRev now =
    { u with phase := .measuring now, lastPeriod := some (now - e), speed := speedOf (now - e) pulsesPerRev } := by
  simp only [Spu.phased, phase]

/-- The phase of an edge leaves the pulse counts. -/
theorem Spu.phased_pulses (u : Spu) (pulsesPerRev now : Nat) : (u.phased pulsesPerRev now).pulsesNow = u.pulsesNow
    ∧ (u.phased pulsesPerRev now).revPulses = u.revPulses ∧ (u.phased pulsesPerRev now).pulsesLast = u.pulsesLast := by
  unfold Spu.phased
  split
  all_goals exact ⟨rfl, rfl, rfl⟩

end

theorem State.phaseEdge_spu (s : State) : s.phaseEdge.spu = s.spu.phased s.cfg.pulsesPerRev s.time.elapsed := by
  unfold Spu.phased
  cases phase : s.spu.phase with
  | noEdge => rw [State.phaseEdge_noEdge phase]
  | firstPeriod e => rw [State.phaseEdge_firstPeriod phase]
  | measuring e =>
    rw [State.phaseEdge_measuring phase]
    split
    · exact State.speedHanded_spu _
    · rfl

/-- Without a speed for the Run Unit an edge under its phase leaves run, tally and queue. -/
theorem State.phaseEdge_quiet (quiet : ∀ e, s.spu.phase = .measuring e → s.cfg.unitRole = false) :
    s.phaseEdge.run = s.run ∧ s.phaseEdge.tallies = s.tallies ∧ s.phaseEdge.evq = s.evq := by
  cases phase : s.spu.phase with
  | noEdge =>
    rw [State.phaseEdge_noEdge phase]
    exact ⟨rfl, rfl, rfl⟩
  | firstPeriod e =>
    rw [State.phaseEdge_firstPeriod phase]
    exact ⟨rfl, rfl, rfl⟩
  | measuring e =>
    rw [State.phaseEdge_measuring phase, quiet e phase]
    exact ⟨rfl, rfl, rfl⟩

theorem State.phaseEdge_revolutions (s : State) :
    s.phaseEdge.tallies.tally.fields.revolutions = s.tallies.tally.fields.revolutions := by
  cases phase : s.spu.phase with
  | noEdge => rw [State.phaseEdge_noEdge phase]
  | firstPeriod e => rw [State.phaseEdge_firstPeriod phase]
  | measuring e =>
    rw [State.phaseEdge_measuring phase]
    split
    · exact State.speedHanded_revolutions _
    · rfl

/-- A pulse counted changes the Speed Unit and the tally alone. -/
theorem State.countPulse_eq (s : State) : s.countPulse = s.pulseCounted s.countPulse.tallies.tally := by
  cases unit : s.cfg.unitRole with
  | false => rw [State.countPulse_post unit]; rfl
  | true => rw [State.countPulse_unit unit]; rfl

theorem State.countPulse_spu (s : State) : s.countPulse.spu = s.spu.pulsed s.cfg.pulsesPerRev := by
  rw [State.countPulse_eq]
  rfl

theorem State.countPulse_cfg (s : State) : s.countPulse.cfg = s.cfg := by
  rw [State.countPulse_eq]
  rfl

/-- The state an accepted edge ends in. -/
theorem State.acceptEdge_eq (s : State) : s.acceptEdge = { s.countPulse.phaseEdge with
    spu := { (s.spu.pulsed s.cfg.pulsesPerRev).phased s.cfg.pulsesPerRev s.time.elapsed with
      silent := false, silenceSince := s.time.elapsed }
    run := { s.countPulse.phaseEdge.run with silentSince := none, speedSilent := false } } := by
  have time : s.countPulse.phaseEdge.time = s.time := by simp
  have counted : s.countPulse.time = s.time := by simp
  rw [State.acceptEdge, State.endSilence_eq, State.phaseEdge_spu, State.countPulse_spu, State.countPulse_cfg, counted, time]
  exact State.eq_of_fields time.symm rfl rfl rfl rfl rfl rfl rfl rfl rfl rfl rfl rfl rfl rfl rfl rfl rfl rfl

/-- The books an accepted edge can change. -/
theorem State.acceptEdge_frameEq (s : State) : s.acceptEdge = { s with
    spu := s.acceptEdge.spu
    run := s.acceptEdge.run
    evq := s.acceptEdge.evq
    atl := s.acceptEdge.atl
    tallies := { s.tallies with tally := s.acceptEdge.tallies.tally } } := by
  rw [State.acceptEdge_eq, State.phaseEdge_frameEq, State.countPulse_eq]
  rfl

end

/-- Settles O47: the edge counted, taken under its phase, and the silence ended. -/
theorem speedEdgeTaken : Obligations.SpeedEdgeTaken := by
  intro w s a now rev whole active
  have run : exec (.spdEdge w) s = .next (a.when a.edgeAccepted a.acceptEdge).finish := rfl
  refine ⟨fun e edge early => ?_, fun spaced => ?_⟩
  · rw [run, State.when_not (State.not_edgeAccepted edge early)]
  rw [State.when_of (State.edgeAccepted_of active spaced)] at run
  have ended := State.acceptEdge_eq a
  have spu : a.acceptEdge.finish.spu = { (a.spu.pulsed a.cfg.pulsesPerRev).phased a.cfg.pulsesPerRev now with
      silent := false, silenceSince := now } := by rw [State.finish_spu, ended]
  have books : a.acceptEdge.finish.run = { a.countPulse.phaseEdge.run with silentSince := none, speedSilent := false }
      ∧ a.acceptEdge.finish.tallies = a.countPulse.phaseEdge.tallies ∧ a.acceptEdge.finish.evq = a.countPulse.phaseEdge.evq := by
    rw [State.finish_run, State.finish_tallies, State.finish_evq, ended]
    exact ⟨rfl, rfl, rfl⟩
  obtain ⟨runs, tallies, queue⟩ := books
  have phase : a.countPulse.spu.phase = a.spu.phase := by rw [State.countPulse_spu]; rfl
  have quiet : a.countPulse.run = a.run ∧ a.countPulse.evq = a.evq := by simp
  refine ⟨_, run, ?_, ?_, ?_, ?_, ?_, ?_, ?_, fun idle => ?_, fun e first => ?_, fun e measuring => ?_, ?_, fun post => ?_,
    fun unit turned => ?_, fun e unit measuring => ?_, fun other => ?_⟩
  · rw [spu]
    exact (Spu.phased_pulses _ _ _).1
  · rw [spu]
    exact (Spu.phased_pulses _ _ _).2.1
  · rw [spu]
  · rw [spu]
  · rw [spu]
    exact (Spu.phased_pulses _ _ _).2.2
  · rw [runs]
  · rw [runs]
  · rw [spu, Spu.phased_noEdge (u := a.spu.pulsed a.cfg.pulsesPerRev) idle]
    exact ⟨rfl, rfl, rfl⟩
  · rw [spu, Spu.phased_firstPeriod (u := a.spu.pulsed a.cfg.pulsesPerRev) first]
    exact ⟨rfl, rfl, rfl⟩
  · rw [spu, Spu.phased_measuring (u := a.spu.pulsed a.cfg.pulsesPerRev) measuring]
    exact ⟨rfl, rfl, rfl⟩
  · rw [State.finish_spu]
    exact State.finish_runFrame (State.acceptEdge_frameEq a)
  · obtain ⟨same, kept, still⟩ := State.phaseEdge_quiet (s := a.countPulse) fun _ _ => (State.countPulse_cfg a).symm ▸ post
    rw [runs, tallies, queue, same, kept, still, quiet.1, quiet.2, State.countPulse_post post]
    exact ⟨rfl, rfl, rfl, rfl⟩
  · rw [tallies, State.phaseEdge_revolutions, State.countPulse_unit unit, if_pos turned]
    rfl
  · intro turned measured handed
    have counted : a.countPulse.periodEnded e = measured := by
      rw [State.countPulse_unit unit]
      rfl
    have phased : a.countPulse.phaseEdge = handed := by
      rw [State.phaseEdge_measuring (phase.trans measuring), State.countPulse_cfg, unit, if_pos rfl, counted]
    rw [ended, phased, Spu.phased_measuring (u := a.spu.pulsed a.cfg.pulsesPerRev) measuring]
    rfl
  · obtain ⟨same, -, still⟩ := State.phaseEdge_quiet (s := a.countPulse) fun e measuring => absurd (phase.symm.trans measuring) (other e)
    rw [runs, queue, same, still, quiet.1, quiet.2]
    exact ⟨rfl, rfl⟩

end Sys2Proof.Machine
end

section
/-! A unit shift close (R131 to R135). -/

namespace Sys2Proof.Machine

section
variable {s : State}

/-- The Line Interface after a TALLY frame's queue request: queued, or dropped as displaced. -/
def State.tallyQueued (s : State) (k : ShiftKey) (v : TallyValues) : Lif :=
  if s.active = true then
    if (s.lif.sendList.filter fun f => !f.isMark).length < 7 then
      { s.lif with sendList := insertFrame (s.freshFrame (.tally k v)) s.lif.sendList }
    else { s.lif with counters := s.lif.counters.addDisplaced }
  else s.lif

/-- Nothing gives way to a TALLY frame. -/
theorem displaceable_tally (g : QueuedFrame) : displaceable .tally g = false := by
  unfold displaceable QueuedFrame.isMark
  cases g.kind
  all_goals simp [FrameKind.code]

/-- A TALLY frame's queue request changes the Line Interface alone. -/
theorem State.queueTally_eq (s : State) (k : ShiftKey) (v : TallyValues) :
    (s.queueFrame (.tally k v)).1 = { s with lif := s.tallyQueued k v } := by
  unfold State.tallyQueued
  cases active : s.active with
  | false => rw [State.queueFrame_refused (.inl active)]; rfl
  | true =>
    by_cases fits : (s.lif.sendList.filter fun f => !f.isMark).length < 7
    · rw [State.queueFrame_fits active rfl fits, if_pos rfl, if_pos fits]
      rfl
    · have none : findLast (displaceable (FrameContent.tally k v).kind) s.lif.sendList = none :=
        List.find?_eq_none.mpr fun g _ => by
          rw [show (FrameContent.tally k v).kind = .tally from rfl, displaceable_tally]
          exact Bool.false_ne_true
      rw [State.queueFrame_full active rfl (Nat.not_lt.mp fits), if_pos rfl, if_neg fits]
      simp only [State.queueByDisplacing, none]
      rfl

/-! ### A TALLY frame at the Shift Unit, as a function of that unit -/

/-- The Shift Unit after a record's creation (R157). -/
def Shu.created (u : Shu) (now : Nat) (k : ShiftKey) : Shu :=
  if k.laterThan u.lastCreated then
    { u with
      records := (if 8 ≤ u.records.length then u.records.drop 1 else u.records) ++ [newStationRecord k u.heldResult now]
      heldResult := heldAfter k u.heldResult
      lastCreated := some k
      lostRecords := if 8 ≤ u.records.length then satInc u.lostRecords else u.lostRecords }
  else u

/-- The Shift Unit after a frame's values are entered (R158). -/
def Shu.entered (u : Shu) (mask : BitVec 16) (sender : NodeNo) (k : ShiftKey) (v : TallyValues) : Shu :=
  match u.recordOf k with
  | none => u
  | some x =>
    { u with
      records := u.records.map fun y =>
        if y.key = k then { y with entries := putEntry ⟨sender, some v, !mask.getLsbD sender.val⟩ y.entries } else y
      repeated := if x.entries.any fun y => decide (y.node = sender) then satInc u.repeated else u.repeated }

/-- The Shift Unit after a TALLY frame is delivered to it (R158). -/
def Shu.tallied (u : Shu) (c : NodeConfig) (now : Nat) (sender : NodeNo) (k : ShiftKey) (v : TallyValues) : Shu :=
  let unmatched := { u with unmatched := satInc u.unmatched }
  if c.boundaries.length ≤ k.index then unmatched
  else if k.laterThan u.lastCreated then (u.created now k).entered c.expectedUnits sender k v
  else match u.recordOf k with
    | none => unmatched
    | some x => if x.status = .gathering then u.entered c.expectedUnits sender k v else unmatched

theorem State.createRecord_eq (s : State) (k : ShiftKey) :
    s.createRecord k = { s with shu := s.shu.created s.time.elapsed k } := by
  unfold State.createRecord Shu.created
  by_cases later : k.laterThan s.shu.lastCreated = true
  · rw [if_pos later, if_pos later]
    simp only [decide_eq_true_eq]
  · rw [if_neg later, if_neg later]

theorem State.enterTally_eq (s : State) (n : NodeNo) (k : ShiftKey) (v : TallyValues) :
    s.enterTally n k v = { s with shu := s.shu.entered s.cfg.expectedUnits n k v } := by
  unfold State.enterTally Shu.entered
  cases s.shu.recordOf k with
  | none => rfl
  | some x => rfl

theorem State.tallyReceived_eq (s : State) (n : NodeNo) (k : ShiftKey) (v : TallyValues) :
    s.tallyReceived n k v = { s with shu := s.shu.tallied s.cfg s.time.elapsed n k v } := by
  unfold State.tallyReceived Shu.tallied
  dsimp only
  split
  · rfl
  split
  · rw [State.createRecord_eq, State.enterTally_eq]
    rfl
  cases s.shu.recordOf k with
  | none => rfl
  | some x =>
    dsimp only
    split
    · exact State.enterTally_eq s n k v
    · rfl

/-! ### The close -/

theorem State.tallyQueued_nodeNumber (s : State) (k : ShiftKey) (v : TallyValues) :
    (s.tallyQueued k v).nodeNumber = s.lif.nodeNumber := by
  unfold State.tallyQueued
  split
  · split
    all_goals rfl
  · rfl

/-- A TALLY frame sent: to the Line Interface, and on a post to the Shift Unit. -/
theorem State.sendTally_eq (s : State) (k : ShiftKey) (v : TallyValues) : s.sendTally k v = { s with
    lif := s.tallyQueued k v
    shu := if s.cfg.postRole then s.shu.tallied s.cfg s.time.elapsed s.lif.nodeNumber k v else s.shu } := by
  unfold State.sendTally
  rw [State.queueTally_eq]
  change (if s.cfg.postRole then ({ s with lif := s.tallyQueued k v } : State).tallyReceived (s.tallyQueued k v).nodeNumber k v
    else { s with lif := s.tallyQueued k v }) = _
  rw [State.tallyQueued_nodeNumber, State.tallyReceived_eq]
  cases s.cfg.postRole
  all_goals rfl

/-- A close, in its parts (R133). -/
theorem State.closeUnitShift_eq (s : State) (c : CloseKey) :
    let u := unitShiftFor s.tallies s.clu.state c
    let v := tallyFrameOf u s.tallies.tally
    let noted := (s.requestNow .unitShiftClosed (unitShiftDetail u) (keyDetail c.key)).setFlag .unitShiftClosed
    s.closeUnitShift c = { noted with
      tallies := s.tallies.close u
      lif := s.tallyQueued c.key v
      shu := if s.cfg.postRole then s.shu.tallied s.cfg s.time.elapsed s.lif.nodeNumber c.key v else s.shu } := by
  intro u v noted
  unfold State.closeUnitShift
  rw [State.sendTally_eq]
  rfl

/-! ### The flags of a TALLY frame -/

/-- The flags of a TALLY frame by their numbers (R134). -/
def tallyFlag (u : UnitShift) (t : Tally) : Nat → Bool
  | 0 => u.stepped
  | 1 => u.catchUp
  | 2 => u.merged
  | 3 => u.notSound
  | 4 => u.suspect
  | 5 => t.blank
  | 6 => t.saturated
  | _ => overLimit 16777215 u.amounts.online || overLimit 16777215 u.amounts.spinning || overLimit 255 u.amounts.starts
    || overLimit 255 u.amounts.syncs || overLimit 255 u.amounts.trips || overLimit 255 u.amounts.normalStops

theorem tallyFrameOf_flags (u : UnitShift) (t : Tally) {i : Nat} (inside : i < 8) :
    (tallyFrameOf u t).flags.getLsbD i = tallyFlag u t i := by
  have flags : (tallyFrameOf u t).flags = BitVec.ofNat 8 (marksBelow (tallyFlag u t) 8) := by
    simp only [tallyFrameOf, marksBelow, tallyFlag, Nat.zero_add]
  rw [flags, BitVec.getLsbD_ofNat, marksBelow_testBit _ inside, decide_eq_true inside, Bool.true_and]

theorem someBelow_iff (total base : SixFields) : someBelow total base = true ↔
    total.online.toNat < base.online.toNat ∨ total.spinning.toNat < base.spinning.toNat
      ∨ total.starts.toNat < base.starts.toNat ∨ total.syncs.toNat < base.syncs.toNat
      ∨ total.trips.toNat < base.trips.toNat ∨ total.normalStops.toNat < base.normalStops.toNat := by
  simp only [someBelow, Bool.or_eq_true, decide_eq_true_eq, or_assoc]

end

/-- Settles O50, by the parts of the close. -/
theorem unitShiftCloses : Obligations.UnitShiftCloses := by
  intro s c t total base below
  have closes := State.closeUnitShift_eq s c
  let u := unitShiftFor s.tallies s.clu.state c
  let v := tallyFrameOf u s.tallies.tally
  have shu : t.shu = if s.cfg.postRole then s.shu.tallied s.cfg s.time.elapsed s.lif.nodeNumber c.key v else s.shu := by
    rw [show t = s.closeUnitShift c from rfl, closes]
  have lif : t.lif = s.tallyQueued c.key v := by rw [show t = s.closeUnitShift c from rfl, closes]
  have tallies : t.tallies = s.tallies.close u := by rw [show t = s.closeUnitShift c from rfl, closes]
  have evq : t.evq = (s.requestNow .unitShiftClosed (unitShiftDetail u) (keyDetail c.key)).evq := by
    rw [show t = s.closeUnitShift c from rfl, closes]
    rfl
  have flag : t.flag .unitShiftClosed = true := by
    have set : ((s.requestNow .unitShiftClosed (unitShiftDetail u) (keyDetail c.key)).setFlag .unitShiftClosed).flag .unitShiftClosed
        = true := by rw [State.setFlag_flag, decide_eq_true rfl, Bool.or_true]
    rw [show t = s.closeUnitShift c from rfl, closes]
    exact set
  rw [tallies]
  refine ⟨rfl, rfl, rfl, ⟨u, v, rfl, rfl, ?_, rfl, rfl, rfl, rfl, rfl, rfl, rfl, ?_, fun room => ?_, ?_, ?_, ?_, fun post => ?_⟩, flag, ?_,
    fun unit => ?_, fun out => ?_⟩
  · exact ⟨amountOf_toNat _ _, amountOf_toNat _ _, amountOf_toNat _ _, amountOf_toNat _ _, amountOf_toNat _ _, amountOf_toNat _ _⟩
  · rw [show u.suspect = (s.tallies.tally.suspect || someBelow total base) from rfl, Bool.or_eq_true, someBelow_iff]
  · obtain ⟨r, records, kind, stamp, detailA, detailB⟩ := State.request_appends .unitShiftClosed s.stamp (unitShiftDetail u)
      (keyDetail c.key) room
    refine ⟨r, evq.symm ▸ records, kind, stamp, detailB, ?_⟩
    rw [detailA]
    simp only [unitShiftDetail, bitAt_eq]
    norm_num
  · exact ⟨capped_toNat _ _, capped_toNat _ _, capped_toNat _ _, capped_toNat _ _, capped_toNat _ _, capped_toNat _ _⟩
  · have bit : ∀ {i : Nat}, i < 8 → v.flags.getLsbD i = tallyFlag u s.tallies.tally i := tallyFrameOf_flags u s.tallies.tally
    refine ⟨bit (by simp), bit (by simp), bit (by simp), bit (by simp), bit (by simp), bit (by simp), bit (by simp), ?_⟩
    rw [bit (by simp)]
    simp only [tallyFlag, overLimit, Bool.or_eq_true, decide_eq_true_eq, or_assoc]
  · rw [lif, State.queueTally_eq]
  · rw [shu, post, State.tallyReceived_eq]
    rfl
  · exact State.eq_of_fields (by simp [t]) (by simp [t]) rfl (by simp [t]) (by simp [t]) rfl (by simp [t]) (by simp [t]) (by simp [t]) tallies
      rfl (by simp [t]) (by simp [t]) (by simp [t]) (by simp [t]) rfl (by simp [t]) (by simp [t]) (by simp [t])
  · rw [shu, unit]
    rfl
  · rw [lif, State.tallyQueued, out]
    rfl

end Sys2Proof.Machine
end

section
/-! The handover at a post (R144 to R160). -/

namespace Sys2Proof.Machine

section
variable {s : State}

theorem State.postActive_of (active : s.active = true) (post : s.cfg.postRole = true) : s.postActive = true := by
  simp [State.postActive, active, post]

/-- The own frame state by the answer of the queue request (R153). -/
theorem QueueAnswer.own_eq (a : QueueAnswer) : a.own = if a = .queued then .pending else .notSent := by cases a <;> rfl

/-- A key closed with a frame: what is queued, recorded and kept (R148, R150). -/
theorem State.closeWithFrame_eq (s : State) (k : ShiftKey) (outcome : HandoverOutcome) (completion : Stamp) :
    let due := dueSeconds completion.date (boundaryTime s.cfg.boundaries k)
    let q := s.queueFrame (.handover k outcome completion.date due)
    let own : OwnFrame := if q.2 = .queued then .pending else .notSent
    s.closeWithFrame k outcome completion =
      ({ q.1.request .handover completion outcome.code (keyDetail k) with lastAccepted := some k }).giveResult k
        ⟨outcome, completion, due, none, some own, decide (own = OwnFrame.notSent)⟩ := by
  intro due q own
  have is : q.2.own = own := QueueAnswer.own_eq q.2
  unfold State.closeWithFrame
  dsimp only
  rw [show (s.queueFrame (.handover k outcome completion.date (dueSeconds completion.date (boundaryTime s.cfg.boundaries k)))).2.own
    = own from is]
  rfl

/-! ### Presses -/

section
variable {key : PressKey} {stamp : Stamp} {t : ShiftKey}

theorem State.press_onWatch (key : PressKey) (stamp : Stamp) (mode : s.shu.mode = .onWatch) : s.press key stamp = s := by
  simp [State.press, mode, PostState.outcome]

theorem State.press_untargeted (key : PressKey) (stamp : Stamp) (target : s.target = none) : s.press key stamp = s := by
  unfold State.press
  rw [target]
  cases s.shu.mode.outcome with
  | none => rfl
  | some outcome => rfl

theorem PostState.outcome_of {m : PostState} (open_ : m ≠ .onWatch) :
    m.outcome = some (if m = .early then .early else if m = .due then .onTime else .late) := by
  cases m with
  | onWatch => exact absurd rfl open_
  | early | due | overdue => rfl

theorem State.press_holds (mode : s.shu.mode ≠ .onWatch) (target : s.target = some t)
    (same : ∀ p, s.shu.held = some p → p.key = key) : s.press key stamp = s.hold key stamp t := by
  unfold State.press
  rw [target, PostState.outcome_of mode]
  cases held : s.shu.held with
  | none => rfl
  | some p => exact if_pos (same p held)

theorem State.press_accepts {p : HeldPress} (mode : s.shu.mode ≠ .onWatch) (target : s.target = some t)
    (held : s.shu.held = some p) (other : p.key ≠ key) : s.press key stamp =
      s.acceptHandover t (if s.shu.mode = .early then .early else if s.shu.mode = .due then .onTime else .late) stamp := by
  unfold State.press
  rw [target, PostState.outcome_of mode, held]
  exact if_neg other

end

/-! ### The end of gathering -/

theorem State.gatherDue_of {r : StationRecord} (post : s.postActive = true) (gathering : r.status = .gathering)
    (ended : r.gatherSince + s.cfg.gatherS * 1000000 ≤ s.time.elapsed) : s.gatherDue r = true := by
  simp [State.gatherDue, post, gathering, ended]

/-- The flag of a record that gathering completes (R180). -/
theorem State.endGathering_eq (s : State) (k : ShiftKey) (r : StationRecord) :
    let e := r.endGathering s.cfg.expectedUnits
    s.endGathering k r = { s with
      shu := { s.shu with records := s.shu.records.map fun x => if x.key = k then e else x }
      atl := { s.atl with flags := if e.status = .complete then s.atl.flags ||| 0x0200#16 else s.atl.flags } } := by
  intro e
  have flags : s.atl.flags ||| Source.stationShiftComplete.markIf (decide (e.status = .complete)) =
      if e.status = .complete then s.atl.flags ||| 0x0200#16 else s.atl.flags := by
    by_cases complete : e.status = .complete
    · simp only [complete, decide_true, Source.markIf, if_true]
      rfl
    · simp only [complete, decide_false, Source.markIf, if_false, Bool.false_eq_true]
      exact BitVec.or_zero
  unfold State.endGathering
  dsimp only
  rw [show s.atl.flags ||| _ = _ from flags]

theorem StationEntry.absent_iff (x : StationEntry) : x = ⟨x.node, none, false⟩ ↔ x.values = none ∧ x.unexpected = false := by
  cases x
  simp

end

/-- Settles O52, by the ABSENT entries of the expected units. -/
theorem gatheringEnds : Obligations.GatheringEnds := by
  intro w s k r a post record gathering ended
  refine ⟨r.endGathering a.cfg.expectedUnits, ?_, rfl, rfl, rfl, rfl, fun x => ?_, StationRecord.endGathering_ordered _⟩
  · have run : exec (.gatherExpiry w k) s = .next (a.endGathering k r).finish := by
      change Host.Outcome.next (match a.shu.recordOf k with
        | none => a
        | some r => a.when (a.gatherDue r) (a.endGathering k r)).finish = _
      rw [record]
      dsimp only
      rw [State.when_of (State.gatherDue_of post gathering ended)]
    rw [run, State.endGathering_eq]
  · change x ∈ allInputs.foldl (addAbsent a.cfg.expectedUnits) r.entries ↔ _
    rw [mem_addAbsent_fold, StationEntry.absent_iff]
    simp only [mem_allInputs, true_and, and_assoc]

/-- Settles O53, by the machine's state, its target and the press held. -/
theorem pressIsTaken : Obligations.PressIsTaken := by
  intro s key stamp
  refine ⟨State.press_onWatch key stamp, State.press_untargeted key stamp, fun t mode target same => State.press_holds mode target same,
    fun t p mode target held other => ?_⟩
  intro outcome due cleared q own result
  rw [State.press_accepts mode target held other, State.acceptHandover, State.closeWithFrame_eq]
  rfl

end Sys2Proof.Machine
end

section
/-! HANDOVER frames received at a post (R155, R156). -/

namespace Sys2Proof.Machine

section
variable {s : State} {sender : NodeNo} {k : ShiftKey} {o : HandoverOutcome} {completion : Stamp} {due : BitVec 16} {r : Result}

/-! ### A frame for a key closed here, by its result (Table 8-4) -/

theorem State.concurrentHandover_none (absent : s.shu.resultOf k = none) :
    s.concurrentHandover sender k o completion due = s.countUnused := by
  simp [State.concurrentHandover, absent]

theorem State.concurrentHandover_elsewhere (result : s.shu.resultOf k = some r) (elsewhere : r.elsewhere.isSome = true) :
    s.concurrentHandover sender k o completion due = s.countUnused := by
  simp [State.concurrentHandover, result, elsewhere]

theorem State.concurrentHandover_own (result : s.shu.resultOf k = some r) (here : r.elsewhere = none) :
    s.concurrentHandover sender k o completion due = (match r.own with
      | some .heard => s.recordHandover completion o true true k
      | some .pending => ((s.removeHandover k).1.recordHandover completion o true true k).giveResult k
          { resultFrom sender o completion due with own := some (if (s.removeHandover k).2 then .withdrawn else .pending) }
      | some .notSent | some .withdrawn | none =>
        (s.recordHandover completion o true true k).giveResult k (resultFrom sender o completion due)) := by
  unfold State.concurrentHandover
  rw [result]
  dsimp only
  rw [here]
  rfl

/-- What a result given leaves of the machine. -/
theorem State.giveResult_machine (s : State) (k : ShiftKey) (r : Result) : (s.giveResult k r).shu.mode = s.shu.mode
    ∧ (s.giveResult k r).shu.target = s.shu.target ∧ (s.giveResult k r).shu.held = s.shu.held
    ∧ (s.giveResult k r).shu.grace = s.shu.grace := by
  unfold State.giveResult
  split
  all_goals exact ⟨rfl, rfl, rfl, rfl⟩

theorem State.removeHandover_shu (s : State) (k : ShiftKey) : (s.removeHandover k).1.shu = s.shu := by simp

/-- A frame for a key closed here does not change the machine. -/
theorem State.concurrentHandover_machine (s : State) (sender : NodeNo) (k : ShiftKey) (o : HandoverOutcome) (completion : Stamp)
    (due : BitVec 16) :
    let t := s.concurrentHandover sender k o completion due
    t.shu.mode = s.shu.mode ∧ t.shu.target = s.shu.target ∧ t.shu.held = s.shu.held ∧ t.shu.grace = s.shu.grace := by
  intro t
  change (s.concurrentHandover sender k o completion due).shu.mode = _ ∧ (s.concurrentHandover sender k o completion due).shu.target = _
    ∧ (s.concurrentHandover sender k o completion due).shu.held = _ ∧ (s.concurrentHandover sender k o completion due).shu.grace = _
  cases result : s.shu.resultOf k with
  | none =>
    rw [State.concurrentHandover_none result]
    exact ⟨rfl, rfl, rfl, rfl⟩
  | some r =>
    cases here : r.elsewhere with
    | some n =>
      rw [State.concurrentHandover_elsewhere result (by rw [here]; rfl)]
      exact ⟨rfl, rfl, rfl, rfl⟩
    | none =>
      rw [State.concurrentHandover_own result here]
      cases r.own with
      | none => exact State.giveResult_machine _ k _
      | some own =>
        cases own with
        | heard => exact ⟨rfl, rfl, rfl, rfl⟩
        | notSent | withdrawn => exact State.giveResult_machine _ k _
        | pending =>
          have machine := State.giveResult_machine ((s.removeHandover k).1.recordHandover completion o true true k) k
            { resultFrom sender o completion due with own := some (if (s.removeHandover k).2 then .withdrawn else .pending) }
          rwa [show ((s.removeHandover k).1.recordHandover completion o true true k).shu = s.shu from State.removeHandover_shu s k]
            at machine

/-! ### The frame, by its reading and its key -/

theorem State.postHandover_unread {q : ClockState} {body : List Byte} (unread : readHandover s.cfg.boundaries.length body = none) :
    s.postHandover sender q body = s.countUnused := by
  simp [State.postHandover, unread]

theorem State.postHandover_read {q : ClockState} {body : List Byte} {c : Date}
    (read : readHandover s.cfg.boundaries.length body = some (k, o, c, due)) : s.postHandover sender q body =
      if k.laterThan s.lastAccepted then
        if s.target = some k then s.acceptedElsewhere sender k o ⟨c, q⟩ due else s.countUnused
      else s.concurrentHandover sender k o ⟨c, q⟩ due := by
  simp only [State.postHandover, read]

end

/-- Settles O54, by what the frame reads as and by the key's result. -/
theorem handoverReceivedAtPost : Obligations.HandoverReceivedAtPost := by
  refine ⟨?_, fun s k => ⟨fun absent => ?_, fun f listed => ⟨fun waiting => ?_, fun sending => ?_⟩⟩⟩
  · intro s sender q body unused t
    refine ⟨State.postHandover_unread, fun k o c d read => ?_⟩
    have taken := State.postHandover_read (sender := sender) (q := q) read
    refine ⟨fun later other => ?_, fun later target => ?_, fun closed => ?_⟩
    · change s.postHandover sender q body = _
      rw [taken, if_pos later, if_neg other]
      rfl
    · change s.postHandover sender q body = _
      rw [taken, if_pos later, if_pos target]
      rfl
    · intro recorded received
      have is : t = s.concurrentHandover sender k o ⟨c, q⟩ d := by
        change s.postHandover sender q body = _
        rw [taken, closed]
        rfl
      obtain ⟨mode, target, held, grace⟩ := State.concurrentHandover_machine s sender k o ⟨c, q⟩ d
      rw [is]
      refine ⟨by simp, mode, target, held, grace, ?_, State.concurrentHandover_none, fun r result =>
        ⟨State.concurrentHandover_elsewhere result, fun here heard => ?_, fun here pending => ?_, fun here gone => ?_⟩⟩
      · exact State.eq_of_fields (by simp) (by simp) rfl (by simp) (by simp) rfl (by simp) (by simp) (by simp) (by simp) rfl (by simp)
          (by simp) (by simp) (by simp) rfl (by simp) (by simp) (by simp)
      · rw [State.concurrentHandover_own result here, heard]
        rfl
      · rw [State.concurrentHandover_own result here, pending]
        rfl
      · rw [State.concurrentHandover_own result here]
        obtain own | own | own := gone
        all_goals
          rw [own]
          rfl
  · simp only [State.removeHandover, absent]
  · simp only [State.removeHandover, listed, waiting, Bool.false_eq_true, if_false]
    rfl
  · simp only [State.removeHandover, listed, sending, if_true]
    rfl

end Sys2Proof.Machine
end

section
/-! The shift moments (R140 to R149, R157). -/

namespace Sys2Proof.Machine

section
variable {s : State} {k : ShiftKey}

theorem State.boundaryKeyDue_of {last come : ShiftKey} (active : s.active = true) (valid : s.clock.valid = true)
    (reached : s.shu.lastReached = some last) (due : s.shu.keyDue = some come) (later : come.later last = true) :
    s.boundaryKeyDue = some (nextKey s.cfg.boundaries last) := by
  simp only [State.boundaryKeyDue, reached, due, active, valid, later, Bool.and_self, if_true]

theorem State.reach_due {come : ShiftKey} (due : s.shu.keyDue = some come) :
    s.reach k = { s with shu := { s.shu with lastReached := some k, keyDue := if come.later k then some come else none } } := by
  unfold State.reach
  rw [due]
  rfl

theorem State.closeOrder_cfg (s : State) (l : List CloseKey) : (s.closeOrder l).cfg = s.cfg := by simp [State.cfg]

/-- A boundary reached: the key closed, and on a post its record and the machine (R140). -/
theorem State.boundaryReached_eq (s : State) (k : ShiftKey) :
    let closed := if s.cfg.unitRole then (s.reach k).closeOrder [⟨k, false, false, false⟩] else s.reach k
    s.boundaryReached k = if s.cfg.postRole then ((closed.createRecord k).missIfDue).takeReached k else closed := by
  intro closed
  have cfg : closed.cfg = s.cfg := by
    change (if s.cfg.unitRole then (s.reach k).closeOrder [⟨k, false, false, false⟩] else s.reach k).cfg = s.cfg
    split
    · exact State.closeOrder_cfg _ _
    · rfl
  rw [← cfg]
  rfl

theorem State.earlyHolds_iff (s : State) : s.earlyHolds = true ↔ ∃ k, s.target = some k ∧ k.laterThan s.lastAccepted = true
    ∧ s.clock.date.earlier ((boundaryTime s.cfg.boundaries k).plus (-((s.cfg.earlyMin * 60000000 : Nat) : Int))) = false
    ∧ s.clock.date.earlier (boundaryTime s.cfg.boundaries k) = true := by
  unfold State.earlyHolds
  cases s.target with
  | none => simp
  | some k => simp [State.earlyMarkOf, minutesUs, and_assoc]

theorem State.earlyDue_of (post : s.postActive = true) (valid : s.clock.valid = true) (mode : s.shu.mode = .onWatch)
    (holds : s.earlyHolds = true) : s.earlyDue = true := by
  simp [State.earlyDue, post, valid, mode, holds]

theorem State.graceDue_of {timer : Timer} (post : s.postActive = true) (mode : s.shu.mode = .due) (runs : s.shu.grace = some timer)
    (ended : ((s.cfg.graceMin * 60000000 : Nat) : Int) ≤ timer.value s.time.elapsed) : s.graceDue = true := by
  unfold State.graceDue
  rw [mode, runs]
  dsimp only
  rw [post, Bool.true_and]
  exact decide_eq_true ended

theorem State.pairingDue_of {p : HeldPress} (post : s.postActive = true) (held : s.shu.held = some p)
    (ended : p.since + s.cfg.pairingS * 1000000 ≤ s.time.elapsed) : s.pairingDue = true := by
  simp [State.pairingDue, held, post, ended]

/-- A held press dropped with its record (R149). -/
theorem State.dropHeld_eq (s : State) : s.dropHeld = (match s.shu.held with
    | none => s
    | some p => { s.request .unpairedKey p.stamp
        (match p.key with
          | .hand => 0
          | .take => 1)
        (keyDetail p.target) with shu := { s.shu with held := none } }) := rfl

theorem State.missIfDue_early (mode : s.shu.mode = .onWatch ∨ s.shu.mode = .early) : s.missIfDue = s := by
  unfold State.missIfDue
  obtain mode | mode := mode
  all_goals rw [mode]

theorem State.missIfDue_due (mode : s.shu.mode = .due ∨ s.shu.mode = .overdue) (target : s.shu.target = some k) :
    s.missIfDue = s.dropHeld.closeWithFrame k .missed s.dropHeld.stamp := by
  unfold State.missIfDue
  obtain mode | mode := mode
  all_goals
    rw [mode, target]
    rfl

@[simp] theorem State.dropHeld_keeps (s : State) : s.dropHeld.clock = s.clock ∧ s.dropHeld.clu = s.clu ∧ s.dropHeld.lpt = s.lpt := by
  unfold State.dropHeld
  cases s.shu.held with
  | none => exact ⟨rfl, rfl, rfl⟩
  | some p => exact ⟨rfl, rfl, rfl⟩

/-- A target missed, with what is queued, recorded and kept (R148). -/
theorem State.missIfDue_eq (mode : s.shu.mode = .due ∨ s.shu.mode = .overdue) (target : s.shu.target = some k) :
    let due := dueSeconds s.clock.date (boundaryTime s.cfg.boundaries k)
    let q := s.dropHeld.queueFrame (.handover k .missed s.clock.date due)
    let own : OwnFrame := if q.2 = .queued then .pending else .notSent
    s.missIfDue = ({ q.1.request .handover ⟨s.clock.date, s.clu.state⟩ 4 (keyDetail k) with lastAccepted := some k }).giveResult k
      ⟨.missed, ⟨s.clock.date, s.clu.state⟩, due, none, some own, decide (own = OwnFrame.notSent)⟩ := by
  obtain ⟨clock, clu, lpt⟩ := State.dropHeld_keeps s
  have stamp : s.dropHeld.stamp = ⟨s.clock.date, s.clu.state⟩ := by rw [State.stamp, clock, clu]
  have cfg : s.dropHeld.cfg = s.cfg := by rw [State.cfg, lpt, State.cfg]
  rw [State.missIfDue_due mode target, State.closeWithFrame_eq, stamp, cfg]
  rfl

theorem State.testEarly_away (mode : s.shu.mode ≠ .onWatch) : s.testEarly = s := if_neg fun both => mode both.1

theorem State.testEarly_late (late : s.earlyHolds = false) : s.testEarly = s := if_neg fun both => by
  rw [late] at both
  exact nomatch both.2

theorem State.testEarly_holds (mode : s.shu.mode = .onWatch) (holds : s.earlyHolds = true) :
    s.testEarly = { s with shu := { s.shu with mode := .early } } := if_pos ⟨mode, holds⟩

theorem State.target_onWatch (mode : s.shu.mode = .onWatch) : s.target = s.shu.lastReached.map (nextKey s.cfg.boundaries) := by
  simp only [State.target, mode]

theorem State.createRecord_old (old : k.laterThan s.shu.lastCreated = false) : s.createRecord k = s := by
  rw [State.createRecord_eq, Shu.created, old]
  rfl

theorem newStationRecord_eq (k : ShiftKey) (held : Option (ShiftKey × Result)) (now : Nat) :
    newStationRecord k held now = ⟨k, [], (match held with
      | none => ((none, none) : Option Result × Option (ShiftKey × Result))
      | some (k', r) => if k' = k then (some r, none) else (none, some (k', r))).1, now, .gathering⟩ := by
  unfold newStationRecord
  cases held with
  | none => rfl
  | some x =>
    dsimp only
    split
    all_goals rfl

theorem heldAfter_eq (k : ShiftKey) (held : Option (ShiftKey × Result)) : heldAfter k held = (match held with
      | none => ((none, none) : Option Result × Option (ShiftKey × Result))
      | some (k', r) => if k' = k then (some r, none) else (none, some (k', r))).2 := by
  unfold heldAfter
  cases held with
  | none => rfl
  | some x =>
    dsimp only
    split
    all_goals rfl

end

/-- Settles O51: the four rows, a target missed, a key taken, the test of R145 and the creation of a record. -/
theorem shiftMomentsTaken : Obligations.ShiftMomentsTaken := by
  refine ⟨?_, fun s => ⟨State.missIfDue_early, fun k mode target => ?_⟩, fun s k => ⟨fun later => ?_, fun old => ?_, rfl⟩, ?_, ?_⟩
  · intro w s a active
    refine ⟨?_, fun k post valid mode target later early before => ?_, fun timer post mode runs ended => ?_,
      fun p post held ended => ?_⟩
    · intro last come k reached closed valid last_eq due later
      have run : exec (.shiftBoundaryReached w) s = .next (a.boundaryReached k).finish := by
        change Host.Outcome.next (match a.boundaryKeyDue with
          | none => a
          | some k => a.boundaryReached k).finish = _
        rw [State.boundaryKeyDue_of active valid last_eq due later]
      have is : a.reach k = reached := State.reach_due due
      rw [run, State.boundaryReached_eq, is]
      refine ⟨fun unit => ?_, fun post => ?_⟩
      · rw [unit]
        rfl
      · rw [post]
        rfl
    · have run : exec (.earlyMark w) s = .next (a.when a.earlyDue (a.setMode .early)).finish := rfl
      rw [run, State.when_of (State.earlyDue_of (State.postActive_of active post) valid mode
        (a.earlyHolds_iff.mpr ⟨k, target, later, early, before⟩))]
      rfl
    · have run : exec (.graceExpiry w) s = .next (a.when a.graceDue ((a.setMode .overdue).setFlag .handoverOverdue)).finish := rfl
      rw [run, State.when_of (State.graceDue_of (State.postActive_of active post) mode runs ended)]
      rfl
    · have run : exec (.pairingTimeout w) s = .next (a.when a.pairingDue a.dropHeld).finish := rfl
      rw [run, State.when_of (State.pairingDue_of (State.postActive_of active post) held ended), State.dropHeld_eq, held] <;> rfl
  · intro dropped due q own now
    exact State.missIfDue_eq mode target
  · exact if_pos later
  · rw [State.takeReached, old]
    rfl
  · intro s target early
    refine ⟨State.testEarly_away, fun mode none => State.testEarly_late ?_, fun k mode is holds => State.testEarly_holds mode ?_⟩
    · rw [Bool.eq_false_iff]
      intro holds
      obtain ⟨k, is, rest⟩ := s.earlyHolds_iff.mp holds
      exact none k ((State.target_onWatch mode).symm.trans is) rest
    · exact s.earlyHolds_iff.mpr ⟨k, (State.target_onWatch mode).trans is, holds⟩
  · intro s k held made
    refine ⟨State.createRecord_old, fun later => ⟨fun room => ?_, fun full => ?_⟩⟩
    · rw [State.createRecord_eq, Shu.created, if_pos later, if_neg (Nat.not_le.mpr room), if_neg (Nat.not_le.mpr room),
        newStationRecord_eq, heldAfter_eq] <;> rfl
    · rw [State.createRecord_eq, Shu.created, if_pos later, if_pos full, if_pos full, newStationRecord_eq, heldAfter_eq] <;> rfl

end Sys2Proof.Machine
end

section
/-! The supplies and the reset pin (R163 to R169). -/

namespace Sys2Proof.Machine

section
variable {s : State}

/-- OPEN does not change the Supply Monitor. -/
@[simp] theorem State.openTo_sup (s : State) (n : Nat) : (s.openTo n).sup = s.sup := by
  refine State.openTo_keeps (fun t => t.sup = s.sup) (fun step listed t kept => ?_) s rfl n
  rw [← kept]
  simp only [openStepList, List.mem_cons, List.not_mem_nil, or_false] at listed
  obtain rfl | rfl | rfl | rfl | rfl | rfl | rfl | rfl := listed
  all_goals simp [State.openNodeState, State.openClock, State.recordOpened, State.startSweep, State.startRun, State.startChecks]

@[simp] theorem State.midOpen_sup (s : State) (reached : Option Nat) : (s.midOpen reached).sup = s.sup := by
  obtain same | ⟨n, _, same⟩ := s.midOpen_cases reached
  all_goals simp [same]

/-- OPEN executes while the Local Port is open in CONFIGURED alone. -/
theorem State.midOpen_out {reached : Option Nat} (out : s.portOpen = false ∨ s.lpt.nodeState ≠ .configured) :
    s.midOpen reached = s := by
  unfold State.midOpen
  cases reached with
  | none => rfl
  | some n =>
    refine if_neg fun both => ?_
    rw [Bool.and_eq_true, decide_eq_true_eq] at both
    obtain shut | other := out
    · rw [shut] at both
      exact nomatch both.1
    · exact other both.2

theorem State.working_eq_false (state : s.sup.state ≠ .run) : s.working = false := by simp [State.working, state]

theorem State.midOpen_idle {reached : Option Nat} (state : s.sup.state ≠ .run) : s.midOpen reached = s :=
  State.midOpen_out (.inl (by rw [State.portOpen, State.working_eq_false state, Bool.false_and]))

/-- Both supplies lost: OFF and the backup domain gone. -/
theorem State.toOff_finish (s : State) : s.toOff.finish.sup.state = .off ∧ s.toOff.finish.clock = ⟨⟨0, 0⟩, false⟩
    ∧ s.toOff.finish.evq = ⟨[], 0⟩ ∧ s.toOff.finish.tallies = Tallies.initial ∧ s.toOff.finish.lastAccepted = none := by
  rw [State.finish_eq]
  exact ⟨rfl, rfl, rfl, rfl, rfl⟩

theorem State.vddLost_unbacked (state : s.sup.state = .run ∨ s.sup.state = .restoring) (unbacked : s.sup.vbkPresent = false) :
    s.vddLost = s.toOff := by
  unfold State.vddLost
  obtain state | state := state
  all_goals
    rw [state, unbacked]
    rfl

theorem State.vddLost_restoring (state : s.sup.state = .restoring) (backed : s.sup.vbkPresent = true) :
    s.vddLost = s.backToKeepAlive := by
  unfold State.vddLost
  rw [state, backed]
  rfl

theorem State.vddLost_run (state : s.sup.state = .run) (backed : s.sup.vbkPresent = true) :
    s.vddLost = s.lossTreatment.toKeepAlive := by
  unfold State.vddLost
  rw [state, backed]
  rfl

theorem State.vbkLost_keepAlive (state : s.sup.state = .keepAlive) : s.vbkLost = s.toOff := by
  unfold State.vbkLost
  rw [state]

theorem State.vbkLost_powered (state : s.sup.state = .run ∨ s.sup.state = .restoring) :
    s.vbkLost = { s with sup := { s.sup with vbkPresent := false } } := by
  unfold State.vbkLost
  obtain state | state := state
  · rw [state]
  · rw [state]

end

/-- Settles O56, by the supply state of each command. -/
theorem supplyStatesMove : Obligations.SupplyStatesMove := by
  intro w midOpen s a lost
  refine ⟨fun state unbacked => ?_, fun state backed => ?_, fun state => ?_, fun state => ?_, fun state => ?_, fun state => ?_,
    fun returned state => ?_⟩
  · have run : exec (.mainSupplyLoss ⟨w, midOpen⟩) s = .next (a.midOpen midOpen).vddLost.finish := rfl
    have off : (a.midOpen midOpen).vddLost = (a.midOpen midOpen).toOff :=
      State.vddLost_unbacked (by rwa [State.midOpen_sup]) (by rwa [State.midOpen_sup])
    rw [off] at run
    exact ⟨_, run, State.toOff_finish _⟩
  · have run : exec (.mainSupplyLoss ⟨w, midOpen⟩) s = .next (a.midOpen midOpen).vddLost.finish := rfl
    rw [run, State.midOpen_idle (by rw [state]; nofun), State.vddLost_restoring state backed]
    rfl
  · have run : exec (.backupSupplyLoss w) s = .next a.vbkLost.finish := rfl
    rw [State.vbkLost_keepAlive state] at run
    exact ⟨_, run, State.toOff_finish _⟩
  · have run : exec (.backupSupplyLoss w) s = .next a.vbkLost.finish := rfl
    rw [run, State.vbkLost_powered state]
  · have run : exec (.backupSupplyReturn w) s = .next (a.when (!decide (a.sup.state = .off))
      { a with sup := { a.sup with vbkPresent := true } }).finish := rfl
    rw [run, State.when_of (by rw [decide_eq_false state]; rfl)]
  · have run : exec (.mainSupplyReturn w) s = .next (a.when (decide (a.sup.state = .keepAlive))
      { a with sup := { a.sup with state := .restoring, restoreCycles := 0 } }).finish := rfl
    rw [run, State.when_of (decide_eq_true state)]
  · have run : exec (.coldStart w returned) s = .next (a.when (decide (a.sup.state = .off)) (a.leaveOff returned)).finish := rfl
    rw [State.when_of (decide_eq_true state)] at run
    refine ⟨_, run, ?_⟩
    rw [State.finish_eq]
    cases returned with
    | vdd | vbk | both => exact ⟨⟨rfl, rfl, rfl, rfl⟩, rfl⟩

end Sys2Proof.Machine
end

section
/-! The loss of main supply, the restore and the reset pin (R164 to R169). -/

namespace Sys2Proof.Machine

section
variable {s : State} {reset : Bool}

/-! ### The run closed out (R121) -/

theorem State.closeOut_idle (free : s.run.stop = none) (away : s.run.state ≠ .online) : s.closeOut reset = s := by
  unfold State.closeOut
  rw [free]
  exact if_neg away

theorem State.closeOut_online (free : s.run.stop = none) (online : s.run.state = .online) :
    s.closeOut reset = (s.recordStop s.stamp none ⟨false, !reset, reset⟩ 0).changeTally Tally.addNormalStop := by
  unfold State.closeOut
  rw [free]
  exact if_pos online

theorem State.closeOut_stop {x : Stop} (stop : s.run.stop = some x) : s.closeOut reset = s.classify x none ⟨false, !reset, reset⟩ := by
  unfold State.closeOut
  rw [stop]

/-- What the close-out leaves of the tally (R121). -/
theorem State.closeOut_tally (s : State) (reset : Bool) : (s.closeOut reset).tallies.tally.fields =
    (if s.run.state = .online ∨ s.run.stop.isSome = true
      then { s.tallies.tally.fields with normalStops := satInc s.tallies.tally.fields.normalStops } else s.tallies.tally.fields) := by
  cases stop : s.run.stop with
  | some x =>
    rw [State.closeOut_stop stop, if_pos (.inr rfl)]
    rfl
  | none =>
    by_cases online : s.run.state = .online
    · rw [State.closeOut_online stop online, if_pos (.inl online)]
      rfl
    · rw [State.closeOut_idle stop online, if_neg]
      simp [online]

theorem State.closeOut_tallies (s : State) (reset : Bool) :
    (s.closeOut reset).tallies = { s.tallies with tally := (s.closeOut reset).tallies.tally } := by
  cases stop : s.run.stop with
  | some x =>
    rw [State.closeOut_stop stop]
    rfl
  | none =>
    by_cases online : s.run.state = .online
    · rw [State.closeOut_online stop online]
      rfl
    · rw [State.closeOut_idle stop online]

/-- The one STOP CLASSIFIED record of a close-out (R121). -/
structure Record.ClosesOut (c : Record) (s : State) (reset : Bool) : Prop where
  kind : c.kind = .stopClassified
  detailA : c.detailA = if reset then 0x08#8 else 0x04#8
  online : s.run.stop = none → c.stamp = ⟨s.clock.date, s.clu.state⟩ ∧ c.detailB = 0
  stop : ∀ x, s.run.stop = some x →
    c.stamp = x.stamp ∧ c.detailB = BitVec.ofNat 32 (min ((s.time.elapsed - x.takenAt) / 1000) 16777215)

theorem State.recordStop_closesOut (date : Stamp) (ms : Nat) (below : s.evq.records.length < 255) :
    ∃ c, (s.recordStop date none ⟨false, !reset, reset⟩ ms).evq.records = s.evq.records ++ [c] ∧ c.kind = .stopClassified
      ∧ c.stamp = date ∧ c.detailA = (if reset then 0x08#8 else 0x04#8) ∧ c.detailB = BitVec.ofNat 32 (min ms 16777215) := by
  obtain ⟨c, records, kind, stamp, detailA, detailB⟩ := State.request_appends .stopClassified date
    (bitAt 0 false + bitAt 1 false + bitAt 2 (!reset) + bitAt 3 reset) (BitVec.ofNat 32 (0 + min ms 16777215)) below
  refine ⟨c, records, kind, stamp, ?_, ?_⟩
  · rw [detailA]
    cases reset
    all_goals rfl
  · rw [detailB, Nat.zero_add]

theorem State.closeOut_record (runs : s.run.state = .online ∨ s.run.stop.isSome = true) (below : s.evq.records.length < 255) :
    ∃ c, (s.closeOut reset).evq.records = s.evq.records ++ [c] ∧ c.ClosesOut s reset := by
  cases stop : s.run.stop with
  | some x =>
    obtain ⟨c, records, kind, stamp, detailA, detailB⟩ := State.recordStop_closesOut (reset := reset) x.stamp
      ((s.time.elapsed - x.takenAt) / 1000) below
    refine ⟨c, ?_, kind, detailA, fun free => ?_, fun y is => ?_⟩
    · rw [State.closeOut_stop stop]
      exact records
    · rw [stop] at free
      exact nomatch free
    · rw [stop, Option.some_inj] at is
      subst is
      exact ⟨stamp, detailB⟩
  | none =>
    have online : s.run.state = .online := runs.resolve_right (by rw [stop]; nofun)
    obtain ⟨c, records, kind, stamp, detailA, detailB⟩ := State.recordStop_closesOut (reset := reset) s.stamp 0 below
    refine ⟨c, ?_, kind, detailA, fun _ => ⟨stamp, detailB⟩, fun y is => ?_⟩
    · rw [State.closeOut_online stop online]
      exact records
    · rw [stop] at is
      exact nomatch is

theorem State.closeOut_nextSeq (runs : s.run.state = .online ∨ s.run.stop.isSome = true) :
    (s.closeOut reset).evq.nextSeq = s.evq.nextSeq + 1 := by
  cases stop : s.run.stop with
  | some x =>
    rw [State.closeOut_stop stop]
    rfl
  | none =>
    rw [State.closeOut_online stop (runs.resolve_right (by rw [stop]; nofun))]
    rfl

end

end Sys2Proof.Machine
end

section
/-! The loss of main supply, the restore and the reset pin settled (R164 to R169). -/

namespace Sys2Proof.Machine

section
variable {s : State} {reset : Bool}

/-- The main domain at its initial values, whatever the treatment before it did to books, queue and supply. -/
theorem State.mainInitial_of {t a : State} (time : t.time = a.time) (clock : t.clock = a.clock)
    (node : t.lif.nodeNumber = a.lif.nodeNumber) (speed : t.lif.lineSpeed = a.lif.lineSpeed)
    (last : t.lastAccepted = a.lastAccepted) (pins : t.pins = a.pins) (free : t.free = a.free) (pending : t.pending = a.pending) :
    t.mainInitial = { a with
      time := { a.time with secondStart := a.time.elapsed, spread := 0, spreadDone := 0, boundaryDue := none }
      lif := Lif.initial a.lif.nodeNumber a.lif.lineSpeed a.time.elapsed
      clu := Clu.initial a.time.elapsed
      isc := Isc.initial a.time.elapsed
      csu := Csu.initial
      spu := Spu.initial a.time.elapsed
      run := Run.initial a.time.elapsed
      shu := Shu.initial
      chk := Chk.initial a.time.elapsed
      lpt := Lpt.initial
      atl := Atl.initial a.time.elapsed
      sup := t.sup
      tallies := t.tallies
      evq := t.evq } := by
  unfold State.mainInitial
  dsimp only
  rw [time, clock, node, speed, last, pins, free, pending]

/-- The wires released and POWER LOSS recorded: the first part of the loss treatment (R164). -/
def State.lossNoted (s : State) : State := s.releaseWires.requestNow .powerLoss s.lpt.nodeState.code 0

@[simp] theorem State.lossNoted_keeps (s : State) : s.lossNoted.time = s.time ∧ s.lossNoted.clock = s.clock ∧ s.lossNoted.run = s.run
    ∧ s.lossNoted.tallies = s.tallies ∧ s.lossNoted.sup = s.sup ∧ s.lossNoted.clu = s.clu ∧ s.lossNoted.lif = s.releaseWires.lif
    ∧ s.lossNoted.lastAccepted = s.lastAccepted ∧ s.lossNoted.pins = s.pins ∧ s.lossNoted.free = s.free
    ∧ s.lossNoted.pending = s.pending := ⟨rfl, rfl, rfl, rfl, rfl, rfl, rfl, rfl, rfl, rfl, rfl⟩

theorem State.lossTreatment_eq (s : State) : s.lossTreatment = { s.lossNoted.closeOut false with
    sup := { s.sup with outageUs := 0, creditMark := s.unitActive } } := by
  change { s.lossNoted.closeOut false with
    sup := { (s.lossNoted.closeOut false).sup with outageUs := 0, creditMark := s.unitActive } } = _
  rw [show (s.lossNoted.closeOut false).sup = s.sup from by simp]

theorem State.lossNoted_record (below : s.evq.records.length < 255) : ∃ r, s.lossNoted.evq.records = s.evq.records ++ [r]
    ∧ r.kind = .powerLoss ∧ r.stamp = ⟨s.clock.date, s.clu.state⟩ ∧ r.detailA = BitVec.ofNat 8 s.lpt.nodeState.code := by
  obtain ⟨r, records, kind, stamp, detailA, -⟩ := State.request_appends (s := s.releaseWires) .powerLoss s.stamp
    s.lpt.nodeState.code 0 below
  exact ⟨r, records, kind, stamp, detailA⟩

/-- The state a treated loss ends in, the domains by their values. -/
theorem State.lossTreatment_keepAlive (s : State) : s.lossTreatment.toKeepAlive = { s with
    time := { s.time with secondStart := s.time.elapsed, spread := 0, spreadDone := 0, boundaryDue := none }
    lif := Lif.initial s.lif.nodeNumber s.lif.lineSpeed s.time.elapsed
    clu := Clu.initial s.time.elapsed
    isc := Isc.initial s.time.elapsed
    csu := Csu.initial
    spu := Spu.initial s.time.elapsed
    run := Run.initial s.time.elapsed
    shu := Shu.initial
    chk := Chk.initial s.time.elapsed
    lpt := Lpt.initial
    atl := Atl.initial s.time.elapsed
    sup := { s.sup with
      state := .keepAlive, outageUs := 0, creditMark := s.unitActive, rstnHeld := false, backupPhase := 0, restoreCycles := 0 }
    tallies := (s.lossNoted.closeOut false).tallies
    evq := (s.lossNoted.closeOut false).evq } := by
  have lif : (s.lossNoted.closeOut false).lif = s.releaseWires.lif := by simp
  rw [State.lossTreatment_eq, State.toKeepAlive]
  dsimp only
  rw [State.mainInitial_of (a := s) (by simp) (by simp) (by rw [lif]; rfl) (by rw [lif]; rfl) (by simp) (by simp) (by simp) (by simp)]

end

/-- Settles O55: the treatment part by part, and the steps of OPEN that it finds. -/
theorem mainSupplyLost : Obligations.MainSupplyLost := by
  refine ⟨?_, fun s => ?_⟩
  · intro w midOpen s a f state backed
    have run : exec (.mainSupplyLoss ⟨w, midOpen⟩) s = .next a.vddLost.finish := rfl
    rw [State.vddLost_run (by rwa [State.midOpen_sup]) (by rwa [State.midOpen_sup]), State.lossTreatment_keepAlive,
      State.finish_of_idle (State.working_eq_false (by nofun))] at run
    refine ⟨_, run, rfl, State.closeOut_tallies a.lossNoted false, State.closeOut_tally a.lossNoted false, fun below => ?_, rfl⟩
    obtain ⟨r, noted, kind, stamp, detailA⟩ := State.lossNoted_record (s := a) (Nat.lt_trans below (Nat.lt_succ_self _))
    have room : a.lossNoted.evq.records.length < 255 := by
      rw [noted, List.length_append]
      exact Nat.succ_lt_succ below
    by_cases runs : a.run.state = .online ∨ a.run.stop.isSome = true
    · obtain ⟨c, closed, holds⟩ := State.closeOut_record (s := a.lossNoted) (reset := false) runs room
      refine ⟨r, [c], ?_, kind, stamp, detailA, fun free away => ?_, fun free _ => ?_, fun x stop => ?_⟩
      · change (a.lossNoted.closeOut false).evq.records = _
        rw [closed, noted, List.append_assoc]
        rfl
      · obtain online | stop := runs
        · exact absurd online away
        · rw [free] at stop
          exact nomatch stop
      · obtain ⟨dated, detailB⟩ := holds.online free
        exact ⟨c, rfl, holds.kind, dated, holds.detailA, detailB⟩
      · obtain ⟨dated, detailB⟩ := holds.stop x stop
        exact ⟨c, rfl, holds.kind, dated, holds.detailA, detailB⟩
    · have idle : a.lossNoted.closeOut false = a.lossNoted := State.closeOut_idle
        (Option.not_isSome_iff_eq_none.mp fun stop => runs (.inr stop)) fun online => runs (.inl online)
      refine ⟨r, [], ?_, kind, stamp, detailA, fun _ _ => rfl, fun _ online => absurd (.inl online) runs,
        fun x stop => absurd (.inr (by rw [stop]; rfl)) runs⟩
      change (a.lossNoted.closeOut false).evq.records = _
      rw [idle, noted]
  · intro steps
    refine ⟨rfl, fun m out => State.midOpen_out out, fun n opened configured => ?_, rfl⟩
    exact if_pos (by rw [opened, decide_eq_true configured]; rfl)

end Sys2Proof.Machine
end

section
/-! The restore and the reset pin (R166 to R169). -/

namespace Sys2Proof.Machine

section
variable {s : State}

/-- The assertion of RSTN: the run closed out, the main domain at its initial values and held there (R169). -/
theorem State.assertReset_eq (s : State) : s.assertReset = { s with
    time := { s.time with secondStart := s.time.elapsed, spread := 0, spreadDone := 0, boundaryDue := none }
    lif := Lif.initial s.lif.nodeNumber s.lif.lineSpeed s.time.elapsed
    clu := Clu.initial s.time.elapsed
    isc := Isc.initial s.time.elapsed
    csu := Csu.initial
    spu := Spu.initial s.time.elapsed
    run := Run.initial s.time.elapsed
    shu := Shu.initial
    chk := Chk.initial s.time.elapsed
    lpt := Lpt.initial
    atl := Atl.initial s.time.elapsed
    sup := { s.sup with nodeStateAtReset := s.lpt.nodeState, rstnHeld := true }
    tallies := (s.releaseWires.closeOut true).tallies
    evq := (s.releaseWires.closeOut true).evq } := by
  have time : (s.releaseWires.closeOut true).time = s.time := by rw [(State.closeOut_frame _ _).1]; rfl
  have clock : (s.releaseWires.closeOut true).clock = s.clock := by simp [State.releaseWires]
  have lif : (s.releaseWires.closeOut true).lif = s.releaseWires.lif := by simp
  have sup : (s.releaseWires.closeOut true).sup = s.sup := by simp [State.releaseWires]
  rw [State.assertReset]
  dsimp only
  rw [State.mainInitial_of (a := s) time clock (by rw [lif]; rfl) (by rw [lif]; rfl) (by simp [State.releaseWires])
    (by simp [State.releaseWires]) (by simp [State.releaseWires]) (by simp [State.releaseWires]), sup]

/-- Of an idle run the assertion records nothing. -/
theorem State.assertReset_idle (free : s.run.stop = none) (away : s.run.state ≠ .online) :
    s.assertReset.evq = s.evq ∧ s.assertReset.tallies = s.tallies := by
  rw [State.assertReset_eq, State.closeOut_idle (s := s.releaseWires) free away]
  exact ⟨rfl, rfl⟩

theorem State.held_not_working (held : s.sup.rstnHeld = true) : s.working = false := by simp [State.working, held]

theorem State.working_of_run (state : s.sup.state = .run) (free : s.sup.rstnHeld = false) : s.working = true := by
  simp [State.working, state, free]

/-! ### The end of the restore wait -/

theorem State.restoreDue_of (state : s.sup.state = .restoring) (ended : 65536 ≤ 125 * s.sup.restoreCycles) : s.restoreDue = true := by
  rw [State.restoreDue, decide_eq_true state, Bool.true_and]
  exact decide_eq_true ended

/-- RUN with the fresh mark cleared: a cold start's end before RSTN is looked at (R168). -/
def State.coldStarted (s : State) (id : NodeNo) (sp : BitVec 2) : State :=
  { s.toRun id sp with sup := { (s.toRun id sp).sup with freshMark := false } }

theorem State.endRestore_cold (id : NodeNo) (sp : BitVec 2) (fresh : s.sup.freshMark = true) :
    s.endRestore id sp = if s.pins.rstnLow then (s.coldStarted id sp).assertReset else s.coldStarted id sp := if_pos fresh

/-- RUN with the outage credited: the restore before its record (R167). -/
def State.credited (s : State) (id : NodeNo) (sp : BitVec 2) : State := { s.toRun id sp with
  tallies := if s.sup.creditMark then { s.tallies with tally := (s.tallies.tally.addOutage s.sup.outageTenths).sealed } else s.tallies
  sup := { s.sup with state := .run, restoreCycles := 0, creditMark := false } }

theorem State.creditOutage_toRun (s : State) (id : NodeNo) (sp : BitVec 2) : (s.toRun id sp).creditOutage = s.credited id sp := by
  unfold State.creditOutage State.credited
  rw [show (s.toRun id sp).sup.creditMark = s.sup.creditMark from rfl]
  cases mark : s.sup.creditMark with
  | true => rfl
  | false =>
    have same : s.toRun id sp = { s.toRun id sp with
        sup := { s.sup with state := .run, restoreCycles := 0, creditMark := false } } := by
      rw [← mark]
      rfl
    exact same

theorem State.endRestore_warm (id : NodeNo) (sp : BitVec 2) (kept : s.sup.freshMark = false) :
    s.endRestore id sp = ((s.credited id sp).requestNow .powerRestore 0 s.sup.outageTenths).startRestorePass := by
  have warm : s.endRestore id sp = ((s.toRun id sp).creditOutage.requestNow .powerRestore 0
      (s.toRun id sp).creditOutage.sup.outageTenths).startRestorePass := if_neg (by rw [kept]; exact Bool.false_ne_true)
  rw [State.creditOutage_toRun] at warm
  exact warm

end

/-- Settles O57: a cold start's end and a restore, each by its parts. -/
theorem restoreEnds : Obligations.RestoreEnds := by
  intro w id sp s a state ended
  have run : exec (.restoreWaitEnd w id sp) s = .next (a.when a.restoreDue (a.endRestore id sp)).finish := rfl
  rw [State.when_of (State.restoreDue_of state ended)] at run
  cases fresh : a.sup.freshMark with
  | true =>
    rw [State.endRestore_cold id sp fresh] at run
    cases low : a.pins.rstnLow with
    | true =>
      obtain ⟨queue, books⟩ := State.assertReset_idle (s := a.coldStarted id sp) rfl nofun
      rw [low, if_pos rfl, State.finish_eq] at run
      refine ⟨_, run, rfl, rfl, rfl, rfl, rfl, rfl, rfl, rfl, rfl, rfl, rfl, rfl, fun _ => ⟨queue, books, rfl, rfl⟩, nofun⟩
    | false =>
      rw [low, if_neg nofun, State.finish_eq] at run
      refine ⟨_, run, rfl, rfl, rfl, rfl, rfl, rfl, rfl, rfl, rfl, rfl, rfl, rfl, fun _ => ⟨rfl, rfl, rfl, rfl⟩, nofun⟩
  | false =>
    rw [State.endRestore_warm id sp fresh, State.finish_eq] at run
    refine ⟨_, run, rfl, rfl, rfl, rfl, rfl, rfl, rfl, rfl, rfl, rfl, rfl, rfl, nofun, fun _ => ⟨rfl, rfl, rfl, ?_, rfl, fun below => ?_, ?_, ?_⟩⟩
    · exact Bool.and_false _
    · obtain ⟨r, records, kind, stamp, -, detailB⟩ := State.request_appends (s := a.credited id sp) .powerRestore
        (a.credited id sp).stamp 0 a.sup.outageTenths below
      exact ⟨r, records, kind, stamp, detailB⟩
    · change (a.credited id sp).tallies = { a.tallies with tally := (a.credited id sp).tallies.tally }
      unfold State.credited
      cases a.sup.creditMark
      all_goals rfl
    · change (a.credited id sp).tallies.tally.fields = _
      unfold State.credited
      cases a.sup.creditMark
      all_goals rfl

end Sys2Proof.Machine
end

section
/-! The reset pin (R166, R169). -/

namespace Sys2Proof.Machine

section
variable {s : State}

theorem State.atWaitEnd_iff (s : State) : s.atWaitEnd = true ↔ s.chk.restorePass = true ∧ s.chk.passStart = s.time.elapsed := by
  simp [State.atWaitEnd]

/-- RSTN is taken while the main domain works, RSTN was high, and the restore wait has not just ended (R166). -/
theorem State.resetTaken_iff (s : State) : (s.working && !s.pins.rstnLow && !s.atWaitEnd) = true ↔
    s.sup.state = .run ∧ s.sup.rstnHeld = false ∧ s.pins.rstnLow = false
      ∧ ¬ (s.chk.restorePass = true ∧ s.chk.passStart = s.time.elapsed) := by
  rw [← State.atWaitEnd_iff]
  simp [State.working, and_assoc]

/-- The node held in reset: the main domain at its initial values, the node state kept, with what the close-out left. -/
def State.resetHeld (s : State) (tallies : Tallies) (evq : Evq) : State := { s with
    time := { s.time with secondStart := s.time.elapsed, spread := 0, spreadDone := 0, boundaryDue := none }
    lif := Lif.initial s.lif.nodeNumber s.lif.lineSpeed s.time.elapsed
    clu := Clu.initial s.time.elapsed
    isc := Isc.initial s.time.elapsed
    csu := Csu.initial
    spu := Spu.initial s.time.elapsed
    run := Run.initial s.time.elapsed
    shu := Shu.initial
    chk := Chk.initial s.time.elapsed
    lpt := Lpt.initial
    atl := Atl.initial s.time.elapsed
    sup := { s.sup with nodeStateAtReset := s.lpt.nodeState, rstnHeld := true }
    pins := { s.pins with rstnLow := true }
    tallies := tallies
    evq := evq }

/-- The assertion's end: nothing works while the reset is held. -/
theorem State.assertReset_finish (s : State) : (s.assertReset.setRstn true).finish =
    s.resetHeld (s.releaseWires.closeOut true).tallies (s.releaseWires.closeOut true).evq := by
  rw [State.finish_of_idle (State.held_not_working rfl), State.assertReset_eq]
  rfl

end

/-- Settles O58, by the state in which the pin moves. -/
theorem resetPin : Obligations.ResetPin := by
  intro w midOpen id sp s b a f atWaitEnd
  have asserts : exec (.rstnAssert ⟨w, midOpen⟩) s =
      .next ((b.when (b.working && !b.pins.rstnLow && !b.atWaitEnd) a.assertReset).setRstn true).finish := rfl
  have releases : exec (.rstnRelease w id sp) s =
      .next ((b.when (decide (b.sup.state = .run) && b.sup.rstnHeld) (b.releaseReset id sp)).setRstn false).finish := rfl
  refine ⟨fun state free high early => ?_, fun not => ?_, fun state held => ?_, fun not => ?_⟩
  · rw [State.when_of (b.resetTaken_iff.mpr ⟨state, free, high, early⟩), State.assertReset_finish] at asserts
    refine ⟨_, asserts, ?_, fun away unstopped => ?_, fun runs => ⟨State.closeOut_nextSeq (s := a.releaseWires) runs, ?_, fun below => ?_⟩⟩
    · exact congrArg (a.resetHeld · (a.releaseWires.closeOut true).evq) (State.closeOut_tallies a.releaseWires true)
    · have idle : a.releaseWires.closeOut true = a.releaseWires := State.closeOut_idle unstopped away
      rw [idle]
      exact ⟨rfl, rfl⟩
    · exact (State.closeOut_tally a.releaseWires true).trans (if_pos runs)
    · obtain ⟨c, closed, holds⟩ := State.closeOut_record (s := a.releaseWires) (reset := true) runs below
      exact ⟨c, closed, holds.kind, holds.detailA, holds.online, holds.stop⟩
  · have untaken : (b.working && !b.pins.rstnLow && !b.atWaitEnd) = false := by
      rw [Bool.eq_false_iff]
      intro taken
      obtain ⟨state, free, high, early⟩ := b.resetTaken_iff.mp taken
      obtain other | held | low | late := not
      · exact other state
      · rw [free] at held
        exact nomatch held
      · rw [high] at low
        exact nomatch low
      · exact early late
    rw [asserts, State.when_not untaken]
    rfl
  · rw [State.when_of (by rw [decide_eq_true state, held]; rfl), State.finish_eq] at releases
    refine ⟨_, releases, rfl, rfl, rfl, rfl, rfl, fun below => ?_, rfl, rfl, rfl, rfl, rfl⟩
    obtain ⟨r, records, kind, stamp, detailA, -⟩ := State.request_appends
      (s := { b.mainInitial.readStraps id sp with sup := { b.sup with rstnHeld := false } }) .reset ⟨b.clock.date, .solo⟩
      b.sup.nodeStateAtReset.code 0 below
    exact ⟨r, records, kind, stamp, detailA⟩
  · have unheld : (decide (b.sup.state = .run) && b.sup.rstnHeld) = false := by
      obtain other | free := not
      · rw [decide_eq_false other, Bool.false_and]
      · rw [free, Bool.and_false]
    rw [releases, State.when_not unheld]
    rfl

end Sys2Proof.Machine
end

section
/-! The store check (R82, R127, R170 to R172). -/

namespace Sys2Proof.Machine

section
variable {s : State} {p : Nat}

/-! ### The place of a pass -/

theorem State.testPlace_unitShift {u : UnitShift} (here : s.tallies.unitShifts[p]? = some u) :
    s.testPlace (.unitShift p) = some (.unitShift p) :=
  if_pos (List.getElem?_eq_some_iff.mp here).1

theorem State.testPlace_event {r : Record} (here : s.evq.records[p]? = some r) : s.testPlace (.event p) = some (.event p) :=
  if_pos (List.getElem?_eq_some_iff.mp here).1

/-- Past the last unit shift record a pass is at the first event record. -/
theorem State.testPlace_past {q : Nat} (past : s.tallies.unitShifts.length ≤ q) :
    s.testPlace (.unitShift q) = s.testPlace (.event 0) := if_neg (Nat.not_lt.mpr past)

theorem State.testPlace_end (past : s.evq.records.length ≤ p) : s.testPlace (.event p) = none := if_neg (Nat.not_lt.mpr past)

theorem State.testDue_of {c d : Cursor} (working : s.working = true) (pass : s.chk.pass = some c) (place : s.testPlace c = some d) :
    s.testDue = some d := by
  rw [State.testDue, working, if_pos rfl, pass]
  exact place

/-- The place of a pass that tests the event record p. -/
theorem State.testDue_event {r : Record} (working : s.working = true) (here : s.evq.records[p]? = some r)
    (tested : s.chk.pass = some (.event p)
      ∨ (p = 0 ∧ ∃ q, s.chk.pass = some (.unitShift q) ∧ s.tallies.unitShifts.length ≤ q)) :
    s.testDue = some (.event p) := by
  obtain pass | ⟨rfl, q, pass, past⟩ := tested
  · exact State.testDue_of working pass (State.testPlace_event here)
  · exact State.testDue_of working pass ((State.testPlace_past past).trans (State.testPlace_event here))

theorem State.passOver_of (working : s.working = true) (tested : (∃ p, s.chk.pass = some (.event p) ∧ s.evq.records.length ≤ p)
      ∨ (s.evq.records = [] ∧ ∃ q, s.chk.pass = some (.unitShift q) ∧ s.tallies.unitShifts.length ≤ q)) : s.passOver = true := by
  obtain ⟨p, pass, past⟩ | ⟨empty, q, pass, past⟩ := tested
  · simp [State.passOver, working, pass, State.testPlace_end past]
  · have none : s.testPlace (.event 0) = none := State.testPlace_end (by rw [empty]; exact Nat.le_refl 0)
    simp [State.passOver, working, pass, State.testPlace_past past, none]

theorem State.passDue_of (active : s.active = true) (free : s.chk.pass = none)
    (ended : s.chk.passStart + 10000000 ≤ s.time.elapsed) : s.passDue = true := by
  simp [State.passDue, active, free, ended]

/-! ### The test of one record -/

theorem State.testTally_sound (sound : tallyCheck s.tallies.tally = s.tallies.tally.check) : s.testTally = s :=
  State.when_not (by rw [State.tallyFails, decide_eq_true sound]; rfl)

theorem State.testTally_fails (fails : tallyCheck s.tallies.tally ≠ s.tallies.tally.check) :
    s.testTally = s.suspectTally.reportFailure .tally 0 :=
  State.when_of (by rw [State.tallyFails, decide_eq_false fails]; rfl)

theorem State.testBaseline_sound (sound : baselineCheck s.tallies.baseline.fields = s.tallies.baseline.check) : s.testBaseline = s :=
  State.when_not (by rw [State.baselineFails, decide_eq_true sound]; rfl)

theorem State.testBaseline_fails (fails : baselineCheck s.tallies.baseline.fields ≠ s.tallies.baseline.check) :
    s.testBaseline = if s.tallies.tally.suspect then s.suspectTally else s.suspectTally.reportFailure .baseline 0 := by
  refine (State.when_of (by rw [State.baselineFails, decide_eq_false fails]; rfl)).trans ?_
  unfold State.takeFailure
  cases s.tallies.tally.suspect
  all_goals rfl

theorem State.testUnitShift_sound {u : UnitShift} (here : s.tallies.unitShifts[p]? = some u)
    (sound : u.corrupt = true ∨ unitShiftCheck u = u.check) : s.testUnitShift p = s := by
  unfold State.testUnitShift
  rw [here]
  exact if_pos (by simpa using sound)

theorem State.testUnitShift_fails {u : UnitShift} (here : s.tallies.unitShifts[p]? = some u) (unmarked : u.corrupt = false)
    (fails : unitShiftCheck u ≠ u.check) : s.testUnitShift p =
      ({ s with tallies := { s.tallies with unitShifts := s.tallies.unitShifts.set p { u with corrupt := true } } }).reportFailure
        .unitShift p := by
  unfold State.testUnitShift
  rw [here]
  exact if_neg (by simp [unmarked, fails])

theorem State.testEvent_sound {r : Record} (here : s.evq.records[p]? = some r)
    (sound : r.corrupt = true ∨ recordCheck r = r.check) : s.testEvent p = s := by
  unfold State.testEvent
  rw [here]
  exact if_pos (by simpa using sound)

theorem State.testEvent_fails {r : Record} (here : s.evq.records[p]? = some r) (unmarked : r.corrupt = false)
    (fails : recordCheck r ≠ r.check) : s.testEvent p =
      ({ s with evq := { s.evq with records := s.evq.records.set p { r with corrupt := true } } }).reportFailure .eventQueue p := by
  unfold State.testEvent
  rw [here]
  exact if_neg (by simp [unmarked, fails])

/-! ### The report of a failure -/

/-- The Supply Monitor after a failure is reported (R171). -/
def Sup.failed (u : Sup) (area : StoreArea) (p : Nat) : Sup :=
  if u.firstFailure = none then { u with firstFailure := some (area, p) } else { u with failureOverflow := true }

theorem State.reportFailure_failed (s : State) (area : StoreArea) (p : Nat) : s.reportFailure area p = { s with
    sup := s.sup.failed area p
    atl := { s.atl with flags := s.atl.flags ||| Source.storeCheck.mark } } := State.reportFailure_eq s area p

theorem Sup.failed_working (u : Sup) (area : StoreArea) (p : Nat) : (u.failed area p).state = u.state
    ∧ (u.failed area p).rstnHeld = u.rstnHeld := by
  unfold Sup.failed
  split
  all_goals exact ⟨rfl, rfl⟩

/-- A reported failure is shown at the end of the command. -/
theorem State.reportFailure_finish {t : State} (area : StoreArea) (p : Nat) (c : Chk) (working : t.working = true) :
    ({ t.reportFailure area p with chk := c } : State).finish.atl.flags.getLsbD 14 = true
      ∧ ({ t.reportFailure area p with chk := c } : State).finish.sup = t.sup.failed area p := by
  obtain ⟨state, held⟩ := Sup.failed_working t.sup area p
  have works : ({ t.reportFailure area p with chk := c } : State).working = true := by
    rw [State.reportFailure_failed]
    change (decide ((t.sup.failed area p).state = .run) && !(t.sup.failed area p).rstnHeld) = true
    rw [state, held]
    exact working
  refine ⟨?_, ?_⟩
  · rw [State.finish_flags _ works, State.reportFailure_failed, BitVec.getLsbD_or, BitVec.getLsbD_or]
    change ((t.atl.flags.getLsbD 14 || true) || _) = true
    rw [Bool.or_true, Bool.true_or]
  · rw [State.finish_eq, State.reportFailure_failed]

end

end Sys2Proof.Machine
end

section
/-! The store check settled (R170 to R172). -/

namespace Sys2Proof.Machine

section
variable {s : State}

/-- The command of a test, where a pass is at a place. -/
theorem exec_storeCheckTest {w : Nat} {c : Cursor} (due : (s.after w).testDue = some c) :
    exec (.storeCheckTest w) s = .next ((s.after w).testStep c).finish := by
  change Host.Outcome.next (match (s.after w).testDue with
    | none => s.after w
    | some c => (s.after w).testStep c).finish = _
  rw [due]

/-- A sound record: the pass moves on. -/
theorem State.testStep_sound {c : Cursor} (sound : s.testAt c = s) :
    s.testStep c = { s with chk := { s.chk with pass := some c.next } } := by
  unfold State.testStep
  rw [sound]

/-- A failing record reported: the pass moves on. -/
theorem State.testStep_fails {c : Cursor} {t : State} {area : StoreArea} {p : Nat} (chk : t.chk = s.chk)
    (fails : s.testAt c = t.reportFailure area p) :
    s.testStep c = { t.reportFailure area p with chk := { s.chk with pass := some c.next } } := by
  have kept : (t.reportFailure area p).chk = s.chk := by rw [State.reportFailure_failed, ← chk]
  unfold State.testStep
  rw [fails]
  dsimp only
  rw [kept]

/-- A pass ended and counted (R172). -/
def State.passEnded (s : State) : State :=
  { s with chk := { s.chk with pass := none, restorePass := false, passes := satInc s.chk.passes } }

theorem State.endPass_calm (calm : s.chk.restorePass = false ∨ s.pins.rstnLow = false) : s.endPass = s.passEnded := by
  refine if_neg fun both => ?_
  rw [Bool.and_eq_true] at both
  obtain other | high := calm
  · rw [other] at both
    exact nomatch both.1
  · rw [high] at both
    exact nomatch both.2

theorem State.endPass_resets (restore : s.chk.restorePass = true) (low : s.pins.rstnLow = true) :
    s.endPass = s.passEnded.assertReset := if_pos (by rw [restore, low]; rfl)

/-- A tally made SUSPECT, its check over the flag. -/
theorem State.suspectTally_tally (s : State) :
    s.suspectTally.tallies.tally = { s.tallies.tally with suspect := true, check := tallyCheck s.suspectTally.tallies.tally } := rfl

/-- A reported failure changes the Supply Monitor and Attention alone, and the pass moves on. -/
theorem State.failed_finish (t : State) (area : StoreArea) (p : Nat) (c : Chk) :
    let f := ({ t.reportFailure area p with chk := c } : State).finish
    f = { t with chk := c, atl := f.atl, sup := f.sup } := by
  intro f
  change ({ t.reportFailure area p with chk := c } : State).finish = { t with
    chk := c
    atl := ({ t.reportFailure area p with chk := c } : State).finish.atl
    sup := ({ t.reportFailure area p with chk := c } : State).finish.sup }
  rw [State.finish_eq, State.reportFailure_failed]

/-- A test that finds a failure to report. -/
theorem exec_storeCheckTest_fails {w : Nat} {c : Cursor} {t : State} {area : StoreArea} {p : Nat}
    (fault : (s.after w).testAt c = t.reportFailure area p) (due : (s.after w).testDue = some c) (chk : t.chk = (s.after w).chk)
    (sup : t.sup = (s.after w).sup) (working : t.working = true) :
    ∃ u : State, exec (.storeCheckTest w) s = .next u
      ∧ u = { t with chk := { (s.after w).chk with pass := some c.next }, atl := u.atl, sup := u.sup }
      ∧ u.atl.flags.getLsbD 14 = true ∧ u.sup = (s.after w).sup.failed area p := by
  obtain ⟨flag, first⟩ := State.reportFailure_finish (t := t) area p { (s.after w).chk with pass := some c.next } working
  rw [sup] at first
  exact ⟨_, (exec_storeCheckTest due).trans (congrArg (fun x : State => Host.Outcome.next x.finish) (State.testStep_fails chk fault)),
    State.failed_finish t area p _, flag, first⟩

end

/-- Settles O59, by the place of the pass and the record there. -/
theorem storeCheckRuns : Obligations.StoreCheckRuns := by
  intro w s a failed passed tested allTested ended
  have sound : ∀ {c : Cursor}, a.testDue = some c → a.testAt c = a → passed c.next := fun due kept => by
    change exec (.storeCheckTest w) s = _
    rw [exec_storeCheckTest due, State.testStep_sound kept]
  have ends : exec (.storeCheckPassEnd w) s = .next (a.when a.passOver a.endPass).finish := rfl
  refine ⟨fun active free due => ?_, fun working pass holds => ?_, fun working pass holds => ?_, fun p u working pass here holds => ?_,
    fun p r working place here holds => ?_, fun working pass differ => ?_, fun working pass differ => ?_,
    fun p u working pass here unmarked differ => ?_, fun p r working place here unmarked differ => ?_, fun working all => ⟨fun calm => ?_, fun restore low => ?_⟩⟩
  · have run : exec (.storeCheckPassStart w) s = .next (a.when a.passDue a.beginPass).finish := rfl
    rw [run, State.when_of (State.passDue_of active free due)]
    rfl
  · exact sound (State.testDue_of working pass rfl) (State.testTally_sound holds)
  · exact sound (State.testDue_of working pass rfl) (State.testBaseline_sound holds)
  · exact sound (State.testDue_of working pass (State.testPlace_unitShift here)) (State.testUnitShift_sound here holds)
  · exact sound (State.testDue_event working here place) (State.testEvent_sound here holds)
  · obtain ⟨u, run, frame, fault⟩ := exec_storeCheckTest_fails (s := s) (c := .tally) (State.testTally_fails differ)
      (State.testDue_of working pass rfl) rfl rfl working
    have books : u.tallies = a.suspectTally.tallies := by rw [frame]
    refine ⟨u, run, ?_, ?_, fault, ?_⟩
    · rw [books]
      exact State.suspectTally_tally a
    · rw [frame]
      rfl
    · rw [books, frame]
      rfl
  · have test := State.testBaseline_fails differ
    cases suspect : a.tallies.tally.suspect with
    | false =>
      rw [suspect, if_neg Bool.false_ne_true] at test
      obtain ⟨u, run, frame, fault⟩ := exec_storeCheckTest_fails (s := s) (c := .baseline) test
        (State.testDue_of working pass rfl) rfl rfl working
      have books : u.tallies = a.suspectTally.tallies := by rw [frame]
      refine ⟨u, run, ?_, ?_, fun _ => fault, nofun, ?_⟩
      · rw [books]
        exact State.suspectTally_tally a
      · rw [frame]
        rfl
      · rw [books, frame]
        rfl
    | true =>
      rw [suspect, if_pos rfl] at test
      have moved : a.testStep .baseline = { a.suspectTally with chk := { a.chk with pass := some (.unitShift 0) } } := by
        change { a.testBaseline with chk := { a.testBaseline.chk with pass := some (.unitShift 0) } } = _
        rw [test]
        rfl
      have run := exec_storeCheckTest (State.testDue_of working pass (show a.testPlace .baseline = some .baseline from rfl))
      rw [show (s.after w).testStep .baseline = _ from moved] at run
      refine ⟨_, run, ?_, ?_, nofun, fun _ => ⟨?_, State.finish_flags _ working⟩, ?_⟩
      · rw [State.finish_eq]
        exact State.suspectTally_tally a
      · rw [State.finish_eq]
      · rw [State.finish_eq]
        rfl
      · rw [State.finish_eq]
        rfl
  · obtain ⟨t, run, frame, fault⟩ := exec_storeCheckTest_fails (s := s) (c := .unitShift p)
      (State.testUnitShift_fails here unmarked differ) (State.testDue_of working pass (State.testPlace_unitShift here)) rfl rfl working
    exact ⟨t, run, frame, fault⟩
  · obtain ⟨t, run, frame, fault⟩ := exec_storeCheckTest_fails (s := s) (c := .event p)
      (State.testEvent_fails here unmarked differ) (State.testDue_event working here place) rfl rfl working
    exact ⟨t, run, frame, fault⟩
  · rw [ends, State.when_of (State.passOver_of working all), State.endPass_calm calm]
    rfl
  · rw [State.when_of (State.passOver_of working all), State.endPass_resets restore low] at ends
    refine ⟨ends, _, ends, ?_⟩
    rw [State.finish_eq, State.assertReset_eq]
    exact ⟨rfl, rfl, rfl⟩

end Sys2Proof.Machine
end

section
/-! The lamps (R183). -/

namespace Sys2Proof.Machine

/-! ### The blinks and the flash -/

section
variable {s : State} {lamp : Lamp}

theorem LampState.phaseDue_of {l : LampState} {half now : Nat} (blinks : l.pattern.halfPeriod = some half) (ended : l.since + half ≤ now) :
    l.phaseDue now = some half := by
  simp only [LampState.phaseDue, blinks, ended, if_true]

theorem LampState.phaseDue_not {l : LampState} {now : Nat}
    (early : ¬ ((l.pattern = .slowBlink ∧ l.since + 500000 ≤ now) ∨ (l.pattern = .fastBlink ∧ l.since + 125000 ≤ now))) :
    l.phaseDue now = none := by
  unfold LampState.phaseDue
  cases pattern : l.pattern with
  | off | steady | flash => rfl
  | slowBlink => exact if_neg fun ended => early (.inl ⟨pattern, ended⟩)
  | fastBlink => exact if_neg fun ended => early (.inr ⟨pattern, ended⟩)

theorem State.blink_due {half : Nat} (due : (s.atl.lamp lamp).phaseDue s.time.elapsed = some half) :
    s.blink lamp = { s with atl := s.atl.setLamp lamp ((s.atl.lamp lamp).toggle half) } := by
  simp only [State.blink, due]

theorem State.blink_early (early : (s.atl.lamp lamp).phaseDue s.time.elapsed = none) : s.blink lamp = s := by
  simp only [State.blink, early]

theorem State.flashOver_of {t : Nat} (working : s.working = true) (flash : s.atl.flashUntil = some t) (ended : t ≤ s.time.elapsed) :
    s.flashOver = true := by
  simp only [State.flashOver, flash, working, Bool.true_and]
  exact decide_eq_true ended

theorem State.flashOver_not (early : ∀ t, s.atl.flashUntil = some t → s.time.elapsed < t) : s.flashOver = false := by
  unfold State.flashOver
  cases flash : s.atl.flashUntil with
  | none => rfl
  | some t =>
    dsimp only
    rw [decide_eq_false (Nat.not_le.mpr (early t flash)), Bool.and_false]

/-! ### The lamps at a command's end -/

/-- The pattern that the state selects for a lamp (Table 11-3). -/
def State.shownPattern (s : State) : Lamp → LampPattern
  | .l0 => lamp0Pattern s
  | .l1 => lamp1Pattern s
  | .l2 => lamp2Pattern s
  | .l3 => lamp3Pattern s s.finish.atl.flags

theorem State.finish_shows (working : s.working = true) (lamp : Lamp) :
    s.finish.atl.lamp lamp = (s.atl.lamp lamp).take (s.shownPattern lamp) s.time.elapsed := by
  obtain ⟨clock, line, shift, fault⟩ := s.finish_lamp working
  cases lamp with
  | l0 => exact clock
  | l1 => exact line
  | l2 => exact shift
  | l3 => exact fault

/-- In a node that has just been reset no lamp blinks. -/
theorem State.shownPattern_calm (solo : s.clu.state = .solo) (quiet : s.lif.view = .quiet) (dark : s.atl.flashUntil = none)
    (unit : s.cfg.postRole = false) (lamp : Lamp) : s.shownPattern lamp ≠ .slowBlink ∧ s.shownPattern lamp ≠ .fastBlink := by
  cases lamp with
  | l0 => simp [State.shownPattern, lamp0Pattern, solo]
  | l1 => simp [State.shownPattern, lamp1Pattern, quiet, dark]
  | l2 => simp [State.shownPattern, lamp2Pattern, unit]
  | l3 =>
    unfold State.shownPattern lamp3Pattern
    dsimp only
    split
    all_goals simp

theorem LampPattern.startsLit_eq (p : LampPattern) : p.startsLit = decide (p ≠ .off) := by cases p <;> rfl

theorem LampState.take_same {l : LampState} {p : LampPattern} (same : l.pattern = p) (now : Nat) : l.take p now = l := if_pos same

theorem LampState.take_other {l : LampState} {p : LampPattern} (other : l.pattern ≠ p) (now : Nat) :
    l.take p now = ⟨p, decide (p ≠ .off), now⟩ := by
  rw [← LampPattern.startsLit_eq]
  exact if_neg other

end

/-- How a lamp may change in a command: a new pattern starts now; a blink that goes on is as it was. -/
def LampState.Follows (after before : LampState) (now : Nat) (blinked : Prop) : Prop :=
  (after.pattern ≠ before.pattern → after = ⟨after.pattern, decide (after.pattern ≠ .off), now⟩)
    ∧ (after.pattern = .slowBlink ∨ after.pattern = .fastBlink → after.pattern = before.pattern → ¬ blinked → after = before)

section
variable {l before : LampState} {p : LampPattern} {now : Nat} {blinked : Prop}

/-- A lamp that was as before takes a pattern. -/
theorem LampState.take_follows (p : LampPattern) (now : Nat) : (l.take p now).Follows l now blinked := by
  by_cases same : l.pattern = p
  · rw [LampState.take_same same]
    exact ⟨fun other => absurd rfl other, fun _ _ _ => rfl⟩
  · rw [LampState.take_other same]
    exact ⟨fun _ => rfl, fun _ kept => absurd kept.symm same⟩

/-- A lamp that its half-period toggled takes a pattern. -/
theorem LampState.toggled_follows (p : LampPattern) (now half : Nat) (moved : blinked) :
    ((l.toggle half).take p now).Follows l now blinked := by
  by_cases same : l.pattern = p
  · rw [LampState.take_same (l := l.toggle half) same]
    exact ⟨fun other => absurd rfl other, fun _ _ still => absurd moved still⟩
  · rw [LampState.take_other (l := l.toggle half) same]
    exact ⟨fun _ => rfl, fun _ _ still => absurd moved still⟩

/-- A lamp put out takes a pattern that is no blink. -/
theorem LampState.reset_follows (now : Nat) (calm : p ≠ .slowBlink ∧ p ≠ .fastBlink) :
    ((⟨.off, false, now⟩ : LampState).take p now).Follows before now blinked := by
  have is : (⟨.off, false, now⟩ : LampState).take p now = ⟨p, decide (p ≠ .off), now⟩ := by
    cases p with
    | off => rfl
    | steady | slowBlink | fastBlink | flash => rfl
  rw [is]
  exact ⟨fun _ => rfl, fun blinks _ _ => absurd blinks (by simpa using calm)⟩

theorem LampState.off_follows : (⟨.off, false, now⟩ : LampState).Follows before now blinked :=
  ⟨fun _ => rfl, fun blinks => by obtain slow | fast := blinks <;> contradiction⟩

end

theorem LampsAtEnd.follows {c : Instr} {s m : State} (found : LampsAtEnd c s m) (lamp : Lamp) :
    (m.finish.atl.lamp lamp).Follows (s.atl.lamp lamp) m.finish.time.elapsed (∃ w, c = .lampBlinkPhase w lamp) := by
  rw [(State.finish_fields m).1]
  cases working : m.working with
  | false =>
    rw [State.finish_idle m working, Atl.initial_lamp]
    exact LampState.off_follows
  | true =>
    rw [State.finish_shows working]
    obtain same | ⟨w, moved, half, rfl, -, atl⟩ | ⟨off, idle | ⟨solo, quiet, dark, unit⟩⟩ := found
    · rw [same]
      exact LampState.take_follows _ _
    · rw [atl]
      by_cases here : lamp = moved
      · subst here
        rw [Atl.setLamp_same]
        exact LampState.toggled_follows _ _ half ⟨w, rfl⟩
      · rw [Atl.setLamp_other _ _ here]
        exact LampState.take_follows _ _
    · rw [working] at idle
      exact nomatch idle
    · rw [off lamp]
      exact LampState.reset_follows _ (State.shownPattern_calm solo quiet dark unit lamp)

/-- Settles O60: the two rows by their moments, every command by the lamps its end finds. -/
theorem lampsMove : Obligations.LampsMove := by
  refine ⟨?_, ?_⟩
  · intro w lamp s a l now halfOver working
    have blinks : exec (.lampBlinkPhase w lamp) s = .next (a.when a.working (a.blink lamp)).finish := rfl
    have flashes : exec (.lampFlashEnd w) s = .next (a.when a.flashOver { a with atl := { a.atl with flashUntil := none } }).finish := rfl
    rw [State.when_of working] at blinks
    refine ⟨fun pattern ended => ?_, fun pattern ended => ?_, fun early => ?_, fun t flash ended => ?_, fun early => ?_⟩
    · rw [blinks, State.blink_due (LampState.phaseDue_of (by rw [show (a.atl.lamp lamp).pattern = _ from pattern]; rfl) ended)]
      rw [← pattern]
      rfl
    · rw [blinks, State.blink_due (LampState.phaseDue_of (by rw [show (a.atl.lamp lamp).pattern = _ from pattern]; rfl) ended)]
      rw [← pattern]
      rfl
    · rw [blinks, State.blink_early (LampState.phaseDue_not early)]
    · rw [flashes, State.when_of (State.flashOver_of working flash ended)]
    · rw [flashes, State.when_not (State.flashOver_not early)]
  · intro c lamp s t before after runs
    obtain ⟨m, rfl, found⟩ := exec_lamps runs
    obtain ⟨starts, goesOn⟩ := found.follows lamp
    exact ⟨starts, fun blinks same still => goesOn blinks same fun ⟨w, is⟩ => still w is⟩

end Sys2Proof.Machine
end

section
/-! What is due, step by step, and the order in which what is due is queued (log 1, log 3). -/

namespace Sys2Proof.Machine

/-! ### The order of due steps -/

/-- The order that free values choose puts every due step into the queue, once. -/
theorem orderDue_perm (free : Nat) (due : List Instr) : (orderDue free due).Perm due := by
  induction due generalizing free with
  | nil => exact .refl _
  | cons c rest ih =>
    cases rest with
    | nil => exact .refl _
    | cons d cs =>
      have others := ih (free + 1)
      have inside : Config.tiePlace free % (cs.length + 2) ≤ (orderDue (free + 1) (d :: cs)).length := by
        rw [others.length_eq]
        exact Nat.lt_succ_iff.mp (Nat.mod_lt _ (Nat.succ_pos _))
      exact (List.perm_insertIdx c _ inside).trans (others.cons c)

theorem mem_ifDue {due : Bool} {c d : Instr} : c ∈ ifDue due d ↔ due = true ∧ c = d := by
  cases due with
  | false => simp [ifDue]
  | true => simp [ifDue]

section
variable {s : State}

/-! ### The moments -/

theorem State.secondDue_iff : s.secondDue = true ↔ s.working = true ∧ s.time.secondStart + 1000000 ≤ s.time.elapsed := by
  simp [State.secondDue]

theorem State.ownBoundary_iff : s.ownBoundary.isSome = true ↔
    s.active = true ∧ s.clu.state ≠ .solo ∧ ∃ k, s.time.boundaryDue = some k := by
  unfold State.ownBoundary
  rw [← Option.isSome_iff_exists]
  split <;> simp_all

theorem State.closeDue_iff : s.closeDue.isSome = true ↔ s.active = true
    ∧ ∃ r, s.clu.round = some r ∧ 400000 ≤ s.clock.date.minus ⟨r.key.day, r.key.second * 1000000⟩ := by
  unfold State.closeDue
  cases s.clu.round with
  | none => simp
  | some r =>
    simp only [Option.isSome_ite, Bool.and_eq_true, Option.some.injEq, exists_eq_left']
    exact and_congr_right fun _ => decide_eq_true_iff

theorem State.silenceDue_iff : s.silenceDue = true ↔ s.working = true ∧ s.clu.refMark + 1500000 ≤ s.time.elapsed := by
  simp [State.silenceDue]

theorem State.maySend_iff : s.maySend = true ↔ s.active = true ∧ s.lif.view = .idle ∧ s.lif.send = none ∧ s.lif.sendList ≠ []
    ∧ s.lif.highFrom + 8 * (10 + s.lif.lineSpeed.toNat) ≤ s.time.elapsed := by
  cases active : s.active with
  | false => simp [State.maySend, active]
  | true => simp [State.maySend, State.sees, State.highFor, State.ownGap_eq, State.working_of_active active, active, and_assoc]

theorem State.slotDue_iff : s.slotDue = true ↔ s.active = true ∧ s.isc.nextSlotAt ≤ s.time.elapsed := by
  simp [State.slotDue]

theorem State.changeDue_iff {n : InputNo} : (s.changeDue n).isSome = true ↔ s.active = true
    ∧ ∃ first level, (s.input n).owed = .change first ∧ (s.input n).level = some level := by
  unfold State.changeDue
  cases (s.input n).owed with
  | none => simp
  | first level stamp => simp
  | change first =>
    cases (s.input n).level with
    | none => simp
    | some level => simp

theorem State.windowDue_iff {n : InputNo} : s.windowDue n = true ↔ s.active = true ∧ ∃ expiry, expiry ≤ s.time.elapsed
    ∧ ((∃ count, (s.input n).chatter = .counting expiry count)
      ∨ ∃ suppressed last, (s.input n).chatter = .locked expiry suppressed last) := by
  unfold State.windowDue
  cases (s.input n).chatter with
  | quiet => simp
  | counting expiry count => simp
  | locked expiry suppressed last => simp

theorem State.cascadeDue_iff : s.cascadeDue.isSome = true ↔
    s.active = true ∧ ∃ o, s.csu.current = some o ∧ o.closeAt ≤ s.time.elapsed := by
  unfold State.cascadeDue
  cases s.csu.current with
  | none => simp
  | some o => simp

theorem State.deadlineDue_iff : s.deadlineDue.isSome = true ↔
    s.active = true ∧ ∃ x deadline, s.run.stop = some x ∧ x.phase = .waiting deadline ∧ deadline ≤ s.time.elapsed := by
  unfold State.deadlineDue
  cases s.run.stop with
  | none => simp
  | some x =>
    cases phase : x.phase with
    | waiting deadline => simp [phase]
    | awaitingClose date opener => simp [phase]

theorem State.speedSilenceDue_iff : s.speedSilenceDue = true ↔
    s.active = true ∧ s.spu.silent = false ∧ s.spu.silenceSince + 2000000 ≤ s.time.elapsed := by
  simp [State.speedSilenceDue, and_assoc]

theorem State.silentDue_iff : s.silentDue = true ↔ s.active = true ∧ s.cfg.unitRole = true ∧ s.run.speedSilent = false
    ∧ ∃ since, s.run.silentSince = some since ∧ since + 2000000 ≤ s.time.elapsed := by
  unfold State.silentDue
  cases s.run.silentSince with
  | none => simp
  | some t => simp [State.unitActive, and_assoc]

theorem State.tenthDue_iff : s.tenthDue = true ↔
    s.active = true ∧ s.cfg.unitRole = true ∧ s.run.tenthStart + 100000 ≤ s.time.elapsed := by
  simp [State.tenthDue, State.unitActive, and_assoc]

theorem State.boundaryKeyDue_iff : s.boundaryKeyDue.isSome = true ↔ s.active = true ∧ s.clock.valid = true
    ∧ ∃ k c, s.shu.lastReached = some k ∧ s.shu.keyDue = some c ∧ c.later k = true := by
  unfold State.boundaryKeyDue
  cases s.shu.lastReached with
  | none => simp
  | some k =>
    cases s.shu.keyDue with
    | none => simp
    | some c => simp [and_assoc]

theorem State.earlyDue_iff : s.earlyDue = true ↔ s.active = true ∧ s.cfg.postRole = true ∧ s.clock.valid = true
    ∧ s.shu.mode = .onWatch ∧ s.earlyHolds = true := by
  simp [State.earlyDue, State.postActive, and_assoc]

theorem State.graceDue_iff : s.graceDue = true ↔ s.active = true ∧ s.cfg.postRole = true ∧ s.shu.mode = .due
    ∧ ∃ timer, s.shu.grace = some timer
      ∧ ((s.cfg.graceMin * 60000000 : Nat) : Int) ≤ timer.base + ((s.time.elapsed - timer.since : Nat) : Int) := by
  unfold State.graceDue
  cases s.shu.mode with
  | onWatch | early | overdue => simp
  | due =>
    cases s.shu.grace with
    | none => simp
    | some timer => simp [State.postActive, minutesUs, Timer.value, and_assoc]

theorem State.pairingDue_iff : s.pairingDue = true ↔ s.active = true ∧ s.cfg.postRole = true
    ∧ ∃ p, s.shu.held = some p ∧ p.since + s.cfg.pairingS * 1000000 ≤ s.time.elapsed := by
  unfold State.pairingDue
  cases s.shu.held with
  | none => simp
  | some p => simp [State.postActive, and_assoc]

theorem State.gatherDue_iff {r : StationRecord} : s.gatherDue r = true ↔ s.active = true ∧ s.cfg.postRole = true
    ∧ r.status = .gathering ∧ r.gatherSince + s.cfg.gatherS * 1000000 ≤ s.time.elapsed := by
  simp [State.gatherDue, State.postActive, and_assoc]

theorem State.passDue_iff : s.passDue = true ↔
    s.active = true ∧ s.chk.pass = none ∧ s.chk.passStart + 10000000 ≤ s.time.elapsed := by
  simp [State.passDue, and_assoc]

theorem LampState.phaseDue_iff {l : LampState} {now : Nat} : (l.phaseDue now).isSome = true ↔
    (l.pattern = .slowBlink ∧ l.since + 500000 ≤ now) ∨ (l.pattern = .fastBlink ∧ l.since + 125000 ≤ now) := by
  unfold LampState.phaseDue
  cases l.pattern with
  | off | steady | flash => simp [LampPattern.halfPeriod]
  | slowBlink | fastBlink => simp [LampPattern.halfPeriod]

theorem State.flashOver_iff : s.flashOver = true ↔ s.working = true ∧ ∃ t, s.atl.flashUntil = some t ∧ t ≤ s.time.elapsed := by
  unfold State.flashOver
  cases s.atl.flashUntil with
  | none => simp
  | some t => simp

theorem State.restoreDue_iff : s.restoreDue = true ↔ s.sup.state = .restoring ∧ 65536 ≤ 125 * s.sup.restoreCycles := by
  simp [State.restoreDue, State.restoreWaitOver]

theorem State.testDue_iff : s.testDue.isSome = true ↔
    s.working = true ∧ ∃ p q, s.chk.pass = some p ∧ s.testPlace p = some q := by
  unfold State.testDue
  cases s.working with
  | false => simp
  | true =>
    cases s.chk.pass with
    | none => simp
    | some p => simp [Option.isSome_iff_exists]

theorem State.passOver_iff : s.passOver = true ↔ s.working = true ∧ ∃ p, s.chk.pass = some p ∧ s.testPlace p = none := by
  unfold State.passOver
  cases s.chk.pass with
  | none => simp
  | some p => simp

/-- The first sample that is owed, as FIRST_SAMPLE carries it. -/
theorem State.firstDue_iff {n : InputNo} {high : Bool} :
    (∃ c, s.firstDue n = some c ∧ high = electricalOf (s.inputCfg n) c.1) ↔
      s.active = true ∧ ∃ stamp, (s.input n).owed = .first (high == (s.inputCfg n).activeHigh) stamp := by
  have same : ∀ x y z : Bool, x = (y == z) ↔ y = (x == z) := by decide
  unfold State.firstDue electricalOf
  cases (s.input n).owed with
  | none => simp
  | change first => simp
  | first level stamp => simp [same]

end

end Sys2Proof.Machine
end

section
/-! A step on an empty queue (log 1, log 3). -/

namespace Sys2Proof.Machine

section
variable {s : State} {c : Instr}

theorem State.mem_dueClock : c ∈ s.dueClock ↔ (s.secondDue = true ∧ c = .oscillatorSecond 0)
    ∨ (s.ownBoundary.isSome = true ∧ c = .roundBoundary 0) ∨ (s.closeDue.isSome = true ∧ c = .roundClose 0)
    ∨ (s.silenceDue = true ∧ c = .refsecSilence 0) := by
  simp only [State.dueClock, List.mem_append, mem_ifDue, or_assoc]

theorem State.mem_dueSample {n : InputNo} : c ∈ s.dueSample n ↔
    (∃ x, s.firstDue n = some x ∧ c = .firstSample 0 n (electricalOf (s.inputCfg n) x.1))
      ∨ ((s.changeDue n).isSome = true ∧ c = .qualifiedChange 0 n) := by
  simp only [State.dueSample, List.mem_append, mem_ifDue, Option.mem_toList, Option.map_eq_some_iff, eq_comm (b := c)]

theorem State.mem_dueInputs : c ∈ s.dueInputs ↔ (s.slotDue = true ∧ c = .sampleSlot 0 s.pins.inputs) ∨ ∃ n, c ∈ s.dueSample n := by
  simp only [State.dueInputs, List.mem_append, mem_ifDue, List.mem_flatMap, mem_allInputs, true_and]

theorem State.mem_dueWindows : c ∈ s.dueWindows ↔ ∃ n, s.windowDue n = true ∧ c = .chatterWindowExpiry 0 n := by
  simp only [State.dueWindows, List.mem_map, List.mem_filter, mem_allInputs, true_and, eq_comm (b := c)]

theorem State.mem_dueUnit : c ∈ s.dueUnit ↔ (s.cascadeDue.isSome = true ∧ c = .cascadeClose 0)
    ∨ (s.deadlineDue.isSome = true ∧ c = .stopDeadline 0) ∨ (s.speedSilenceDue = true ∧ c = .speedSilence 0)
    ∨ (s.silentDue = true ∧ c = .speedSilent 0) ∨ (s.tenthDue = true ∧ c = .oscillatorTenth 0) := by
  simp only [State.dueUnit, List.mem_append, mem_ifDue, or_assoc]

theorem State.mem_dueShift : c ∈ s.dueShift ↔ (s.boundaryKeyDue.isSome = true ∧ c = .shiftBoundaryReached 0)
    ∨ (s.earlyDue = true ∧ c = .earlyMark 0) ∨ (s.graceDue = true ∧ c = .graceExpiry 0)
    ∨ (s.pairingDue = true ∧ c = .pairingTimeout 0)
    ∨ ∃ r ∈ s.shu.records, s.gatherDue r = true ∧ c = .gatherExpiry 0 r.key := by
  simp only [State.dueShift, List.mem_append, mem_ifDue, List.mem_map, List.mem_filter, or_assoc, and_assoc, eq_comm (b := c)]

theorem State.mem_dueRest : c ∈ s.dueRest ↔ (s.passDue = true ∧ c = .storeCheckPassStart 0)
    ∨ (∃ lamp, s.working = true ∧ ((s.atl.lamp lamp).phaseDue s.time.elapsed).isSome = true ∧ c = .lampBlinkPhase 0 lamp)
    ∨ (s.flashOver = true ∧ c = .lampFlashEnd 0) ∨ (s.restoreDue = true ∧ c = .restoreWaitEnd 0 s.pins.id s.pins.sp) := by
  have lamps : ∀ lamp : Lamp, lamp ∈ [Lamp.l0, .l1, .l2, .l3] := by
    intro lamp
    cases lamp
    all_goals simp
  simp only [State.dueRest, State.dueLamp, List.mem_append, mem_ifDue, List.mem_flatMap, lamps, true_and, Bool.and_eq_true, or_assoc,
    and_assoc]

theorem State.mem_dueTimed : c ∈ s.dueTimed ↔ c ∈ s.dueClock ∨ (s.maySend = true ∧ c = .sendBegin 0) ∨ c ∈ s.dueInputs
    ∨ c ∈ s.dueWindows ∨ c ∈ s.dueUnit ∨ c ∈ s.dueShift ∨ c ∈ s.dueRest := by
  simp only [State.dueTimed, State.dueSend, List.mem_append, mem_ifDue, or_assoc]

theorem State.mem_dueCheck : c ∈ s.dueCheck ↔ (s.testDue.isSome = true ∧ c = .storeCheckTest 0)
    ∨ (s.passOver = true ∧ c = .storeCheckPassEnd 0) := by
  simp only [State.dueCheck, List.mem_append, mem_ifDue]

/-- What is due is queued, each step once; nothing else changes. -/
theorem State.queueDue_perm (s : State) (due : List Instr) : (s.queueDue due).pending.Perm due
    ∧ s.queueDue due = { s with pending := (s.queueDue due).pending, free := (s.queueDue due).free } :=
  ⟨orderDue_perm s.free due, rfl⟩

end

/-- The due steps are those whose condition `State.comesDue` spells out. -/
theorem State.mem_dueTimed_iff (s : State) (c : Instr) : c ∈ s.dueTimed ↔ s.comesDue c := by
  simp only [State.mem_dueTimed, State.mem_dueClock, State.mem_dueInputs, State.mem_dueSample, State.mem_dueWindows, State.mem_dueUnit,
    State.mem_dueShift, State.mem_dueRest]
  unfold State.comesDue
  cases c
  all_goals simp only [reduceCtorEq, and_false, exists_false, or_false, false_or]
  case oscillatorSecond w => rw [State.secondDue_iff, Instr.oscillatorSecond.injEq, and_comm]
  case roundBoundary w => rw [State.ownBoundary_iff, Instr.roundBoundary.injEq, and_comm]
  case roundClose w => rw [State.closeDue_iff, Instr.roundClose.injEq, and_comm]
  case refsecSilence w => rw [State.silenceDue_iff, Instr.refsecSilence.injEq, and_comm]
  case sendBegin w => rw [State.maySend_iff, Instr.sendBegin.injEq, and_comm]
  case cascadeClose w => rw [State.cascadeDue_iff, Instr.cascadeClose.injEq, and_comm]
  case stopDeadline w => rw [State.deadlineDue_iff, Instr.stopDeadline.injEq, and_comm]
  case speedSilence w => rw [State.speedSilenceDue_iff, Instr.speedSilence.injEq, and_comm]
  case speedSilent w => rw [State.silentDue_iff, Instr.speedSilent.injEq, and_comm]
  case oscillatorTenth w => rw [State.tenthDue_iff, Instr.oscillatorTenth.injEq, and_comm]
  case shiftBoundaryReached w => rw [State.boundaryKeyDue_iff, Instr.shiftBoundaryReached.injEq, and_comm]
  case graceExpiry w => rw [State.graceDue_iff, Instr.graceExpiry.injEq, and_comm]
  case pairingTimeout w => rw [State.pairingDue_iff, Instr.pairingTimeout.injEq, and_comm]
  case storeCheckPassStart w => rw [State.passDue_iff, Instr.storeCheckPassStart.injEq, and_comm]
  case lampFlashEnd w => rw [State.flashOver_iff, Instr.lampFlashEnd.injEq, and_comm]
  case earlyMark w =>
    rw [State.earlyDue_iff, State.earlyHolds_iff, Instr.earlyMark.injEq, and_comm]
  case sampleSlot w levels =>
    rw [State.slotDue_iff, Instr.sampleSlot.injEq]
    tauto
  case firstSample w n high =>
    rw [← State.firstDue_iff]
    constructor
    · rintro ⟨m, x, due, same⟩
      obtain ⟨rfl, rfl, rfl⟩ := Instr.firstSample.inj same
      exact ⟨rfl, x, due, rfl⟩
    · rintro ⟨rfl, x, due, rfl⟩
      exact ⟨n, x, due, rfl⟩
  case qualifiedChange w n =>
    rw [← State.changeDue_iff]
    constructor
    · rintro ⟨m, due, same⟩
      obtain ⟨rfl, rfl⟩ := Instr.qualifiedChange.inj same
      exact ⟨rfl, due⟩
    · rintro ⟨rfl, due⟩
      exact ⟨n, due, rfl⟩
  case chatterWindowExpiry w n =>
    rw [← State.windowDue_iff]
    constructor
    · rintro ⟨m, due, same⟩
      obtain ⟨rfl, rfl⟩ := Instr.chatterWindowExpiry.inj same
      exact ⟨rfl, due⟩
    · rintro ⟨rfl, due⟩
      exact ⟨n, due, rfl⟩
  case gatherExpiry w k =>
    constructor
    · rintro ⟨r, listed, due, same⟩
      obtain ⟨rfl, rfl⟩ := Instr.gatherExpiry.inj same
      obtain ⟨active, post, gathering, ended⟩ := State.gatherDue_iff.mp due
      exact ⟨rfl, active, post, r, listed, rfl, gathering, ended⟩
    · rintro ⟨rfl, active, post, r, listed, rfl, gathering, ended⟩
      exact ⟨r, listed, State.gatherDue_iff.mpr ⟨active, post, gathering, ended⟩, rfl⟩
  case lampBlinkPhase w lamp =>
    rw [← LampState.phaseDue_iff]
    constructor
    · rintro ⟨l, working, due, same⟩
      obtain ⟨rfl, rfl⟩ := Instr.lampBlinkPhase.inj same
      exact ⟨rfl, working, due⟩
    · rintro ⟨rfl, working, due⟩
      exact ⟨lamp, working, due, rfl⟩
  case restoreWaitEnd w id sp =>
    rw [State.restoreDue_iff, Instr.restoreWaitEnd.injEq]
    tauto

/-- The step that a pass adds is the one that `State.checkComes` spells out. -/
theorem State.mem_dueCheck_iff (s : State) (c : Instr) : c ∈ s.dueCheck ↔ s.checkComes c := by
  rw [State.mem_dueCheck]
  unfold State.checkComes
  cases c
  all_goals simp only [reduceCtorEq, and_false, or_false, false_or]
  case storeCheckTest w => rw [State.testDue_iff, Instr.storeCheckTest.injEq, and_comm]
  case storeCheckPassEnd w => rw [State.passOver_iff, Instr.storeCheckPassEnd.injEq, and_comm]

/-- Settles O2: what is due, and the tick's queueing of it. -/
theorem emptyQueueTicks : Obligations.EmptyQueueTicks := by
  intro s
  have ticks : s.pending = [] → step s = .next s.tick := fun empty => by rw [step, empty]
  refine ⟨s.mem_dueTimed_iff, s.mem_dueCheck_iff, fun empty due => ?_, fun empty free => ?_⟩
  · have queued : s.tick = s.queueDue s.dueTimed := if_neg (by simpa using due)
    obtain ⟨perm, frame⟩ := s.queueDue_perm s.dueTimed
    exact ⟨_, (ticks empty).trans (congrArg _ queued), perm, frame⟩
  · have passes : s.tick = (s.after 1).queueDue ((s.after 1).dueTimed ++ (s.after 1).dueCheck) := if_pos (by simpa using free)
    obtain ⟨perm, frame⟩ := (s.after 1).queueDue_perm ((s.after 1).dueTimed ++ (s.after 1).dueCheck)
    exact ⟨_, (ticks empty).trans (congrArg _ passes), perm, frame⟩

end Sys2Proof.Machine
end

section
/-! The passing of time (R25 to R28, log 1). -/

namespace Sys2Proof.Machine

section
variable {s : State}

/-! ### The backup oscillator -/

theorem backupUs_eq (phase n : Nat) : backupUs phase n = (phase + n) * 1000000 / 32768 - phase * 1000000 / 32768 := by
  cases phase with
  | zero =>
    rw [Nat.zero_add, Nat.zero_mul]
    rfl
  | succ phase => rfl

/-- A backup cycle is 30 or 31 microseconds. -/
theorem backupUs_one (k : Nat) : backupUs k 1 = 30 ∨ backupUs k 1 = 31 := by
  rw [backupUs_eq]
  omega

/-! ### The main oscillator -/

theorem boundaryPassed_same {old new : Date} {before : Option RoundKey} (day : new.day = old.day) (second : new.second = old.second) :
    boundaryPassed old new before = before := if_pos ⟨day.symm, second.symm⟩

theorem boundaryPassed_other {old new : Date} {before : Option RoundKey} (moved : new.day ≠ old.day ∨ new.second ≠ old.second) :
    boundaryPassed old new before = some ⟨new.day, new.second⟩ := if_neg fun both => by
  obtain day | second := moved
  · exact day both.1.symm
  · exact second both.2.symm

/-- A send drives LCLK from its high half's end on. -/
theorem Lif.clocking_drives (l : Lif) (now : Nat) : (l.clocking now).lclkDriven = true ↔
    l.lclkDriven = true ∨ ∃ snd, l.send = some snd ∧ snd.start.osc + (10 + l.lineSpeed.toNat) ≤ now := by
  unfold Lif.clocking
  cases l.send with
  | none => simp
  | some snd =>
    simp only [Bool.or_eq_true, decide_eq_true_eq, Option.some.injEq, exists_eq_left']
    exact Iff.rfl

theorem Lif.clocking_eq (l : Lif) (now : Nat) : l.clocking now = { l with lclkDriven := (l.clocking now).lclkDriven } := by
  unfold Lif.clocking
  split
  all_goals rfl

theorem keyPassed_comes {plan : List Nat} {k : ShiftKey} {old : Date} {advance : Int} {before : Option ShiftKey}
    (comes : before.isSome = true ∨ (0 < (boundaryTime plan (nextKey plan k)).minus old
      ∧ (boundaryTime plan (nextKey plan k)).minus old ≤ advance)) :
    keyPassed plan (some k) old advance before = some (latestKeyAt plan (old.plus advance)) := if_pos (by simpa using comes)

theorem keyPassed_ahead {plan : List Nat} {k : ShiftKey} {old : Date} {advance : Int}
    (ahead : ¬ (0 < (boundaryTime plan (nextKey plan k)).minus old ∧ (boundaryTime plan (nextKey plan k)).minus old ≤ advance)) :
    keyPassed plan (some k) old advance none = none := if_neg (by simpa using ahead)

theorem keyPassed_unreached (plan : List Nat) (old : Date) (advance : Int) (before : Option ShiftKey) :
    keyPassed plan none old advance before = none := rfl

/-- The clock's advance in n microseconds: with the points of the slew that fall into them (R28). -/
def State.advance (s : State) (n : Nat) : Int :=
  (n : Int) + s.time.spread.sign
    * ((spreadPoints s.time.spread (s.time.elapsed + n - s.time.secondStart) : Int) - (s.time.spreadDone : Int))

theorem State.runMain_keyDue (s : State) (n : Nat) : (s.runMain n).shu.keyDue = if s.active && s.clock.valid
    then keyPassed s.cfg.boundaries s.shu.lastReached s.clock.date (s.advance n) s.shu.keyDue else none := rfl

end

/-- Settles O4, by the oscillator that runs. -/
theorem timePasses : Obligations.TimePasses := by
  refine ⟨fun s n => ?_, fun k _ => ⟨backupUs_eq k 1, backupUs_one k⟩, rfl⟩
  intro t
  refine ⟨State.finish_eq s, State.after_valid s n, ?_⟩
  have after : t = (match s.sup.state with
      | .run => s.runMain n
      | .keepAlive | .restoring => s.runBackup n
      | .off => s) := rfl
  cases state : s.sup.state with
  | run =>
    rw [state] at after
    dsimp only
    rw [after]
    refine ⟨?_, fun day second => boundaryPassed_same day second, fun moved => boundaryPassed_other moved, Lif.clocking_drives s.lif _,
      fun out => ?_, fun k active valid reached => ?_⟩
    · change { s.runMain n with lif := s.lif.clocking (s.time.elapsed + n) } = _
      rw [Lif.clocking_eq]
      rfl
    · rw [State.runMain_keyDue]
      obtain idle | invalid | unreached := out
      · rw [idle]
        rfl
      · rw [invalid, Bool.and_false]
        rfl
      · rw [unreached, keyPassed_unreached, ite_self]
    · rw [State.runMain_keyDue, active, valid, reached]
      refine ⟨keyPassed_comes, fun none none_ahead => ?_⟩
      rw [none]
      exact keyPassed_ahead none_ahead
  | keepAlive =>
    rw [state] at after
    have backup : t = s.runBackup n := after
    rw [backup]
    refine ⟨rfl, ?_⟩
    unfold State.runBackup
    rw [state]
  | restoring =>
    rw [state] at after
    have backup : t = s.runBackup n := after
    rw [backup]
    refine ⟨rfl, ?_⟩
    unfold State.runBackup
    rw [state]
  | off =>
    rw [state] at after
    exact after

end Sys2Proof.Machine
end

section
/-! Steps of the clock and changes of its state (R29, R30, R141, R151). -/

namespace Sys2Proof.Machine

section
variable {s : State}

/-! ### The step and the transition -/

/-- The clock stepped, before the record and the report (R29, log 48). -/
def State.steppedTo (s : State) (new : Date) : State := { s with
  time := { s.time with spread := 0, spreadDone := 0, boundaryDue := boundaryLanded new }
  shu := { s.shu with keyDue := s.shu.keyDue.filter fun k => !new.earlier (boundaryTime s.cfg.boundaries k) }
  clock := ⟨new, true⟩
  clu := { s.clu with p := 0 } }

theorem State.stepClock_eq (s : State) (new : Date) (cause : StepCause) : s.stepClock new cause =
    ((s.steppedTo new).request .clockStep ⟨new, s.clu.state⟩ (cause.code + (stepAmount (new.minus s.clock.date)).1 * 4)
      (BitVec.ofInt 32 (stepAmount (new.minus s.clock.date)).2)).reportStep s.clock.date new := rfl

theorem State.stepClock_leaves (s : State) (new : Date) (cause : StepCause) : s.stepClock new cause = { s.steppedTo new with
    evq := (s.stepClock new cause).evq
    atl := (s.stepClock new cause).atl
    lif := (s.stepClock new cause).lif
    tallies := (s.stepClock new cause).tallies
    shu := (s.stepClock new cause).shu
    lastAccepted := (s.stepClock new cause).lastAccepted } := by
  obtain ⟨isc, csu, spu, run, sup, chk, lpt, pins, free, pending⟩ := s.stepClock_frame new cause
  exact State.eq_of_fields (State.stepClock_time ..) (State.stepClock_clock ..) rfl (State.stepClock_clu ..) isc rfl csu spu run rfl
    rfl rfl sup chk lpt rfl pins free pending

/-! ### The report of a step -/

theorem State.reportStep_idle (idle : s.active = false) (old new : Date) : s.reportStep old new = s := by
  simp [State.reportStep, idle]

theorem State.reportStep_unreached (active : s.active = true) (unreached : s.shu.lastReached = none) (old new : Date) :
    s.reportStep old new = (s.reach (latestKeyAt s.cfg.boundaries new)).testEarlyAtPost := by
  simp [State.reportStep, active, unreached]

theorem State.reportStep_reached (active : s.active = true) {last : ShiftKey} (reached : s.shu.lastReached = some last)
    (old new : Date) : s.reportStep old new = (s.takeCrossed last old new).testEarlyAtPost := by
  simp [State.reportStep, active, reached]

theorem State.crossedKeys_back {last : ShiftKey} {old new : Date} (back : new.later old = false) :
    s.crossedKeys last old new = [] := by
  simp [State.crossedKeys, back]

theorem State.takeCrossed_none {last : ShiftKey} {old new : Date} (none : s.crossedKeys last old new = []) :
    s.takeCrossed last old new = s := by
  simp [State.takeCrossed, none]

theorem State.takeCrossed_eq {last k : ShiftKey} {old new : Date} {front : List ShiftKey}
    (crossed : s.crossedKeys last old new = front ++ [k]) :
    let closed := if s.cfg.unitRole then (s.reach k).closeOrder (closeKeys true false (s.crossedKeys last old new)) else s.reach k
    s.takeCrossed last old new = if s.cfg.postRole
      then (closed.createRecords (lastFour (s.crossedKeys last old new))).stepAtPost last old new else closed := by
  intro closed
  have cfg : closed.cfg = s.cfg := ite_holds (p := fun t : State => t.cfg = s.cfg) (State.closeOrder_cfg ..) rfl
  have top : (s.crossedKeys last old new).getLast? = some k := by rw [crossed, List.getLast?_concat]
  rw [State.takeCrossed, top, ← cfg]
  rfl

theorem State.takeCrossed_cfg (s : State) (last : ShiftKey) (old new : Date) : (s.takeCrossed last old new).cfg = s.cfg := by
  simp [State.cfg]

theorem State.testEarlyAtPost_post (post : s.cfg.postRole = true) : s.testEarlyAtPost = s.testEarly := if_pos post

theorem State.testEarlyAtPost_unit (unit : s.cfg.postRole = false) : s.testEarlyAtPost = s := if_neg (by rw [unit]; nofun)

theorem ShiftKey.laterThan_iff (x : ShiftKey) (accepted : Option ShiftKey) :
    x.laterThan accepted = true ↔ ∀ k, accepted = some k → x.later k = true := by
  cases accepted with
  | none => simp [ShiftKey.laterThan]
  | some a => simp [ShiftKey.laterThan]

/-! ### The close order -/

theorem closeKeys_few (stepped catchUp : Bool) {keys : List ShiftKey} (few : keys.length ≤ 4) :
    closeKeys stepped catchUp keys = keys.map fun k => ⟨k, stepped, catchUp, false⟩ := by
  have all : lastFour keys = keys := by rw [lastFour, Nat.sub_eq_zero_of_le few, List.drop_zero]
  unfold closeKeys
  rw [all]
  cases keys with
  | nil => rfl
  | cons k ks =>
    have plain : decide (4 < (k :: ks).length) = false := decide_eq_false (by omega)
    rw [plain]
    rfl

theorem closeKeys_more (stepped catchUp : Bool) {before : List ShiftKey} (k : ShiftKey) {rest : List ShiftKey}
    (more : before ≠ []) (three : rest.length = 3) : closeKeys stepped catchUp (before ++ k :: rest) =
      ⟨k, stepped, catchUp, true⟩ :: rest.map fun k => ⟨k, stepped, catchUp, false⟩ := by
  have length : (before ++ k :: rest).length = before.length + 4 := by simp [three]
  have four : lastFour (before ++ k :: rest) = k :: rest := by
    rw [lastFour, length, Nat.add_sub_cancel, List.drop_left]
  have merged : decide (4 < (before ++ k :: rest).length) = true := by
    have := List.length_pos_iff.mpr more
    exact decide_eq_true (by omega)
  unfold closeKeys
  rw [four, merged]

theorem stepAmount_us {d : Int} (small : d.natAbs ≤ 2147483647) : stepAmount d = (0, d) := if_pos small

theorem stepAmount_ms {d : Int} (more : 2147483647 < d.natAbs) (small : d.natAbs ≤ 2147483647000) :
    stepAmount d = (1, d.tdiv 1000) := (if_neg (by omega)).trans (if_pos small)

theorem stepAmount_min {d : Int} (more : 2147483647000 < d.natAbs) : stepAmount d = (2, d.tdiv 60000000) :=
  (if_neg (by omega)).trans (if_neg (by omega))

/-! ### The machine takes a step -/

theorem State.keepHeldFor_other {p : HeldPress} {target : Option ShiftKey} (other : target ≠ some p.target) :
    s.keepHeldFor (some p) target = (s.recordUnpaired p).clearHeld := if_neg (Ne.symm other)

theorem State.keepHeldFor_same {p : HeldPress} {target : Option ShiftKey} (same : target = some p.target) :
    s.keepHeldFor (some p) target = { s with shu := { s.shu with held := some p } } := if_pos same.symm

theorem State.unpaired_eq (s : State) (p : HeldPress) : (s.recordUnpaired p).clearHeld = { s.request .unpairedKey p.stamp
      (match p.key with
        | .hand => 0
        | .take => 1)
      (keyDetail p.target) with shu := { s.shu with held := none } } := rfl

theorem State.handleKeys_concat (s : State) (k : ShiftKey) (front : List ShiftKey) : s.handleKeys (front ++ [k]) =
    ((front.drop (front.length - 3)).foldl State.closeWithoutFrame s).targetLast k := by
  have four : lastFour (front ++ [k]) = front.drop (front.length - 3) ++ [k] := by
    rw [lastFour, List.length_append, List.length_singleton, Nat.add_sub_add_right front.length 1 3,
      List.drop_append_of_le_length (Nat.sub_le ..)]
  unfold State.handleKeys
  rw [four, List.getLast?_concat, List.dropLast_concat]

end

/-- Settles O32, part by part: the step and the transition, the report, the keys crossed, the close order, the machine. -/
theorem stepsAndStateChanges : Obligations.StepsAndStateChanges := by
  refine ⟨fun s new cause => ⟨s.stepClock_eq new cause, s.stepClock_leaves new cause⟩, fun _ _ _ => rfl, fun s old new => ?report,
    fun s last old new step => ?crossed, fun stepped catchUp keys => ⟨closeKeys_few stepped catchUp, ?_⟩, fun _ _ => rfl,
    fun s last old new accepted step => ?after, fun d => ⟨stepAmount_us, stepAmount_ms, stepAmount_min⟩, rfl,
    fun s last old new => ?machine, fun s k front => ?keys⟩
  case report =>
    refine ⟨fun idle => State.reportStep_idle idle old new, fun active unreached => State.reportStep_unreached active unreached old new,
      fun last active reached => ?_⟩
    intro crossed
    rw [State.reportStep_reached active reached]
    refine ⟨State.crossedKeys_back, fun none => ?_, fun front k is => ?_⟩
    · rw [State.takeCrossed_none none]
      rfl
    · intro closed
      have taken := State.takeCrossed_eq is
      have cfg := s.takeCrossed_cfg last old new
      refine ⟨fun unit => ?_, fun post => ?_⟩
      · rw [State.testEarlyAtPost_unit (cfg ▸ unit), taken]
        exact if_neg (by rw [unit]; nofun)
      · rw [State.testEarlyAtPost_post (cfg ▸ post), taken]
        exact congrArg State.testEarly (if_pos post)
  case crossed =>
    intro plan l crosses
    have iff (x : ShiftKey) : s.crosses last old new x = true ↔ crosses x :=
      (crosses_iff s last old new x).trans ⟨fun ⟨a, b, c⟩ => ⟨a, c, b⟩, fun ⟨a, c, b⟩ => ⟨a, b, c⟩⟩
    refine ⟨fun x mem => (iff x).mp (crossedKeys_sound s last old new x mem), fun _ asc _ _ _ index => ?_⟩
    obtain ⟨sorted, five, all⟩ := crossedKeys_spec s asc (Nat.zero_lt_of_lt index) last index old new step
    exact ⟨sorted, five, fun x lt is => all x lt ((iff x).mpr is)⟩
  case after =>
    intro plan l counts
    have iff (x : ShiftKey) : (s.crosses last old new x = true ∧ x.laterThan accepted = true) ↔ counts x := by
      rw [crosses_iff, ShiftKey.laterThan_iff]
      exact ⟨fun ⟨⟨a, b, c⟩, d⟩ => ⟨a, c, b, d⟩, fun ⟨a, c, b, d⟩ => ⟨⟨a, b, c⟩, d⟩⟩
    refine ⟨fun x mem => (iff x).mp (crossedAfter_sound s last old new accepted x mem), fun _ asc _ _ _ index => ?_⟩
    obtain ⟨sorted, five, all⟩ := crossedAfter_spec s asc (Nat.zero_lt_of_lt index) last index old new step accepted
    exact ⟨sorted, five, fun x lt is => all x lt ((iff x).mpr is).1 ((iff x).mpr is).2⟩
  case machine =>
    intro missed handled t
    have taken : t = handled.keepHeldFor missed.shu.held handled.target := rfl
    rw [taken]
    refine ⟨fun none => ?_, fun p held => ?_⟩
    · rw [none]
      rfl
    · rw [held]
      exact ⟨State.keepHeldFor_same, fun other => (State.keepHeldFor_other other).trans (State.unpaired_eq ..)⟩
  case keys => exact ⟨rfl, State.handleKeys_concat s k front, rfl, fun early => if_pos early, fun late => if_neg (Int.not_lt.mpr late)⟩
  · intro before k rest is more three
    rw [is]
    exact closeKeys_more stepped catchUp k more three

end Sys2Proof.Machine
end

section
/-! The event list only grows past a record that is no OVERFLOW record, and no flag is cleared but by a command (R77, R180). -/

namespace Sys2Proof.Machine

/-- What the list of events of a state holds up to a record that is no OVERFLOW record, the list of another begins with; and a
flag that stands in the one stands in the other. -/
structure Extends (s t : State) : Prop where
  records : ∀ l r rest, r.kind ≠ .overflow → s.evq.records = l ++ r :: rest → ∃ more, t.evq.records = l ++ r :: more
  flags : ∀ g, s.flag g = true → t.flag g = true

section
variable {s t : State}

theorem Extends.refl (s : State) : Extends s s := ⟨fun _ _ rest _ is => ⟨rest, is⟩, fun _ => id⟩

theorem Extends.trans {u : State} (h : Extends s t) (k : Extends t u) : Extends s u :=
  ⟨fun l r rest ordinary is =>
    let ⟨more, grown⟩ := h.records l r rest ordinary is
    k.records l r more ordinary grown, fun g set => k.flags g (h.flags g set)⟩

theorem Extends.same {u : State} (h : Extends s t) (same : (u.evq, u.atl.flags) = (t.evq, t.atl.flags)) : Extends s u := by
  obtain ⟨evq, flags⟩ := Prod.mk.inj same
  exact ⟨fun l r rest ordinary is => evq ▸ h.records l r rest ordinary is, fun g set => by
    rw [State.flag, flags]
    exact h.flags g set⟩

theorem Extends.ite {c : Prop} [Decidable c] {x y : State} (hx : Extends s x) (hy : Extends s y) :
    Extends s (if c then x else y) := ite_holds (p := Extends s) hx hy

theorem Extends.setFlag (h : Extends s t) {f : Source} : Extends s (t.setFlag f) :=
  h.trans ⟨(Extends.refl t).records, fun g set => by rw [State.setFlag_flag, set, Bool.true_or]⟩

/-- A request appends a record or changes the OVERFLOW record at the end. -/
theorem Extends.request (h : Extends s t) {kind : RecordKind} {stamp : Stamp} {a : Nat} {b : BitVec 32} :
    Extends s (t.request kind stamp a b) := by
  refine h.trans ⟨fun l r rest ordinary is => ?_, fun g set => by rw [State.request_flag, set, Bool.true_or]⟩
  change ∃ more, t.evq.place (t.evq.recordFor kind stamp (BitVec.ofNat 8 a) b) = _
  generalize t.evq.recordFor kind stamp (BitVec.ofNat 8 a) b = new
  have appended (x : Record) : ∃ more, t.evq.records ++ [x] = l ++ r :: more :=
    ⟨rest ++ [x], by rw [is, List.append_assoc, List.cons_append]⟩
  by_cases below : t.evq.records.length < 255
  · rw [(Evq.place_below below).1]
    exact appended _
  cases overflow : t.evq.openOverflow with
  | none =>
    rw [(Evq.place_first (Nat.not_lt.mp below) overflow).1]
    exact appended _
  | some o =>
    obtain ⟨last, kind⟩ := Evq.openOverflow_some overflow
    rw [(Evq.place_further (Nat.not_lt.mp below) overflow).1, is]
    have some_rest : rest ≠ [] := by
      rintro rfl
      rw [is, List.getLast?_concat, Option.some_inj] at last
      exact ordinary (last ▸ kind)
    refine ⟨rest.dropLast ++ [overflowAnd o new], ?_⟩
    rw [List.dropLast_append_of_ne_nil (List.cons_ne_nil r rest), List.dropLast_cons_of_ne_nil some_rest, List.append_assoc,
      List.cons_append]

/-- A marked flag is set if the condition holds; none is cleared. -/
theorem Extends.markIf (h : Extends s t) {u : State} {m : BitVec 16} (evq : u.evq = t.evq) (flags : u.atl.flags = t.atl.flags ||| m) :
    Extends s u :=
  ⟨(h.same (u := { t with evq := u.evq }) (by rw [evq])).records, fun g set => by
    have stands : t.atl.flags.getLsbD g.number = true := h.flags g set
    rw [State.flag, flags, BitVec.getLsbD_or, stands, Bool.true_or]⟩

theorem Extends.giveResult (h : Extends s t) {k : ShiftKey} {r : Result} : Extends s (t.giveResult k r) := by
  unfold State.giveResult
  split
  · exact h.same rfl
  · exact h.markIf rfl rfl

theorem Extends.requestNow (h : Extends s t) {kind : RecordKind} {a : Nat} {b : BitVec 32} :
    Extends s (t.requestNow kind a b) := h.request

theorem Extends.changeState (h : Extends s t) {q : ClockState} {c : StateCause} : Extends s (t.changeState q c) :=
  (h.same (u := { t with clu := { t.clu with
    state := q, formation := 0, short := 0, outlier := 0, split := 0, latestForeign := none } }) rfl).requestNow.setFlag

theorem Extends.lockReference (h : Extends s t) : Extends s t.lockReference := h.changeState.ite h

/-! ### Frames queued -/

theorem Extends.setSendList (h : Extends s t) {l : List QueuedFrame} : Extends s (t.setSendList l) := h.same rfl

theorem Extends.count (h : Extends s t) {f : LineCounters → LineCounters} : Extends s (t.count f) := h.same rfl

theorem Extends.sendFailed (h : Extends s t) {c : FrameContent} {d : Bool} : Extends s (t.sendFailed c d) := h.requestNow

theorem Extends.reportFrame (h : Extends s t) {k : ShiftKey} {o : OwnFrame} : Extends s (t.reportFrame k o) := by
  unfold State.reportFrame
  split
  · exact h
  · exact h.giveResult.ite h

theorem Extends.displaced (h : Extends s t) {c : FrameContent} : Extends s (t.displaced c) := by
  unfold State.displaced
  split
  · exact h.sendFailed
  · exact h.sendFailed.reportFrame
  all_goals exact h

theorem Extends.queueByDisplacing (h : Extends s t) {c : FrameContent} : Extends s (t.queueByDisplacing c).1 := by
  unfold State.queueByDisplacing
  dsimp only
  split
  · exact h.setSendList.count.displaced
  · exact h.count.displaced

theorem Extends.queueFrame (h : Extends s t) {c : FrameContent} : Extends s (t.queueFrame c).1 := by
  unfold State.queueFrame
  split
  · exact h
  · split
    · exact h.same rfl
    · exact h.queueByDisplacing

/-! ### Unit shifts closed -/

theorem Extends.tallyReceived (h : Extends s t) {n : NodeNo} {k : ShiftKey} {v : TallyValues} :
    Extends s (t.tallyReceived n k v) := h.same (by simp)

theorem Extends.sendTally (h : Extends s t) {k : ShiftKey} {v : TallyValues} : Extends s (t.sendTally k v) :=
  h.queueFrame.tallyReceived.ite h.queueFrame

theorem Extends.closeUnitShift (h : Extends s t) {c : CloseKey} : Extends s (t.closeUnitShift c) := by
  have closed (u : UnitShift) : Extends s { t with tallies := t.tallies.close u } := h.same rfl
  exact (closed _).requestNow.setFlag.sendTally

theorem Extends.closeOrder (h : Extends s t) {keys : List CloseKey} : Extends s (t.closeOrder keys) := by
  unfold State.closeOrder
  generalize (keys.filter fun c => c.key.laterThan t.tallies.lastClosed) = ks
  induction ks generalizing t with
  | nil => exact h
  | cons c cs ih => exact ih h.closeUnitShift

/-! ### The handover machine -/

theorem Extends.testEarly (h : Extends s t) : Extends s t.testEarly := Extends.ite (h.same rfl) h

theorem Extends.enterDue (h : Extends s t) {k : ShiftKey} {g : Int} : Extends s (t.enterDue k g) := h.markIf rfl rfl

theorem Extends.enterOverdue (h : Extends s t) {k : ShiftKey} {g : Int} : Extends s (t.enterOverdue k g) := h.markIf rfl rfl

theorem Extends.toOnWatch (h : Extends s t) : Extends s t.toOnWatch := Extends.testEarly (h.same rfl)

theorem Extends.recordHandover (h : Extends s t) {d : Stamp} {o : HandoverOutcome} {e c : Bool} {k : ShiftKey} :
    Extends s (t.recordHandover d o e c k) := h.request

theorem Extends.accept (h : Extends s t) {k : ShiftKey} : Extends s (t.accept k) := h.same rfl

theorem Extends.closeWithFrame (h : Extends s t) {k : ShiftKey} {o : HandoverOutcome} {c : Stamp} :
    Extends s (t.closeWithFrame k o c) := h.queueFrame.recordHandover.accept.giveResult

theorem Extends.closeWithoutFrame (h : Extends s t) {k : ShiftKey} : Extends s (t.closeWithoutFrame k) :=
  h.recordHandover.accept.giveResult

theorem Extends.recordUnpaired (h : Extends s t) {p : HeldPress} : Extends s (t.recordUnpaired p) := h.request

theorem Extends.clearHeld (h : Extends s t) : Extends s t.clearHeld := h.same rfl

theorem Extends.dropHeld (h : Extends s t) : Extends s t.dropHeld := by
  unfold State.dropHeld
  split
  · exact h
  · exact h.recordUnpaired.clearHeld

theorem Extends.missIfDue (h : Extends s t) : Extends s t.missIfDue := by
  unfold State.missIfDue
  split
  · exact h.dropHeld.closeWithFrame
  · exact h.dropHeld.closeWithFrame
  all_goals exact h

theorem Extends.foldClose (h : Extends s t) {l : List ShiftKey} : Extends s (l.foldl State.closeWithoutFrame t) := by
  induction l generalizing t with
  | nil => exact h
  | cons k ks ih => exact ih h.closeWithoutFrame

theorem Extends.handleKeys (h : Extends s t) {l : List ShiftKey} : Extends s (t.handleKeys l) := by
  unfold State.handleKeys
  split
  · exact h.toOnWatch
  · exact h.foldClose.enterDue.ite h.foldClose.enterOverdue

theorem Extends.keepHeldFor (h : Extends s t) {p : Option HeldPress} {k : Option ShiftKey} :
    Extends s (t.keepHeldFor p k) := by
  unfold State.keepHeldFor
  split
  · exact h
  · exact Extends.ite (h.same rfl) h.recordUnpaired.clearHeld

theorem Extends.stepAtPost (h : Extends s t) {k : ShiftKey} {a b : Date} : Extends s (t.stepAtPost k a b) :=
  h.missIfDue.handleKeys.keepHeldFor

theorem Extends.createRecords (h : Extends s t) {ks : List ShiftKey} : Extends s (t.createRecords ks) := h.same (by simp)

theorem Extends.reach (h : Extends s t) {k : ShiftKey} : Extends s (t.reach k) := h.same rfl

theorem Extends.takeCrossed (h : Extends s t) {k : ShiftKey} {a b : Date} : Extends s (t.takeCrossed k a b) := by
  unfold State.takeCrossed
  extract_lets crossed
  split
  · exact h
  · extract_lets s1 s2
    have closed : Extends s s2 := h.reach.closeOrder.ite h.reach
    exact Extends.ite closed.createRecords.stepAtPost closed

theorem Extends.testEarlyAtPost (h : Extends s t) : Extends s t.testEarlyAtPost := h.testEarly.ite h

theorem Extends.reportStep (h : Extends s t) {a b : Date} : Extends s (t.reportStep a b) := by
  unfold State.reportStep
  refine Extends.ite ?_ h
  split
  · exact h.reach.testEarlyAtPost
  · exact h.takeCrossed.testEarlyAtPost

/-! ### The Shift Unit at OPEN -/

theorem Extends.catchUp (h : Extends s t) : Extends s t.catchUp := by
  unfold State.catchUp
  split
  · exact h
  · exact h.closeOrder

theorem Extends.postAtOpen (h : Extends s t) : Extends s t.postAtOpen := by
  unfold State.postAtOpen
  split
  · exact h
  · split
    · exact h.testEarly
    · exact h.createRecords.handleKeys

theorem Extends.openShift (h : Extends s t) : Extends s t.openShift := by
  unfold State.openShift
  split
  · extract_lets s1 s2
    have caught : Extends s s2 := h.reach.catchUp.ite h.reach
    exact Extends.ite caught.postAtOpen caught
  · exact h

end

end Sys2Proof.Machine
end

section
/-! SET TIME (R51, log 12). -/

namespace Sys2Proof.Machine

section
variable {s : State}

/-! ### What an abandoned round and a lock leave -/

theorem State.abandonRound_clu (s : State) : s.abandonRound.clu.round = none ∧ s.abandonRound.clu.lastClosed = s.clu.lastClosed
    ∧ s.abandonRound.clu.startList = s.clu.startList ∧ s.abandonRound.clu.monitor = s.clu.monitor := by
  unfold State.abandonRound
  cases round : s.clu.round with
  | none => exact ⟨round, rfl, rfl, rfl⟩
  | some r => simp

theorem State.abandonRound_lastKey {r : Round} (round : s.clu.round = some r) : s.abandonRound.clu.lastKey = some r.key := by
  simp [State.abandonRound, round]

theorem State.abandonRound_active (s : State) : s.abandonRound.active = s.active := by simp [State.active, State.working]

theorem State.lockReference_state (s : State) : s.lockReference.clu.state =
    if s.clu.monitor.isLocked && s.clu.state.lockable && s.clock.valid then .referenced else s.clu.state := by
  unfold State.lockReference
  split
  · exact (State.changeState_fields ..).2.2.2.2.2.2.2.2.2.2.2.2.2.2.2.2.1
  · rfl

theorem State.lockReference_p (s : State) : s.lockReference.clu.p = s.clu.p :=
  ite_holds (p := fun t : State => t.clu.p = s.clu.p) (by simp) rfl

theorem State.lockReference_round (s : State) : s.lockReference.clu.round = s.clu.round :=
  ite_holds (p := fun t : State => t.clu.round = s.clu.round) (by simp) rfl

/-! ### The step and the lock -/

theorem State.stepAndLock_clock (s : State) (d : Date) (c : StepCause) : (s.stepAndLock d c).clock = ⟨d, true⟩ :=
  ite_holds (p := fun t : State => t.clock = ⟨d, true⟩) (by simp) (by simp)

theorem State.stepAndLock_time (s : State) (d : Date) (c : StepCause) : (s.stepAndLock d c).time = (s.stepClock d c).time :=
  ite_holds (p := fun t : State => t.time = (s.stepClock d c).time) rfl (by simp)

theorem State.stepAndLock_p (s : State) (d : Date) (c : StepCause) : (s.stepAndLock d c).clu.p = 0 :=
  ite_holds (p := fun t : State => t.clu.p = 0) (by simp) (by simp [State.lockReference_p])

theorem State.stepAndLock_round (s : State) (d : Date) (c : StepCause) : (s.stepAndLock d c).clu.round = s.clu.round :=
  ite_holds (p := fun t : State => t.clu.round = s.clu.round) (by simp) (by simp [State.lockReference_round])

/-- The lock follows the step that makes the time valid. -/
theorem State.stepAndLock_state (s : State) (d : Date) (c : StepCause) : (s.stepAndLock d c).clu.state =
    if !s.clock.valid && s.clu.monitor.isLocked && s.clu.state.lockable then .referenced else s.clu.state := by
  cases valid : s.clock.valid with
  | true =>
    rw [State.stepAndLock_valid valid, State.stepClock_clu]
    rfl
  | false =>
    rw [State.stepAndLock_invalid valid, State.lockReference_state, State.stepClock_clu, State.stepClock_clock, Bool.and_true]
    rfl

/-- The record of the step comes first. -/
theorem State.stepAndLock_records (s : State) (d : Date) (c : StepCause) (below : s.evq.records.length < 255) :
    ∃ r rest, (s.stepAndLock d c).evq.records = s.evq.records ++ r :: rest ∧ r.Holds .clockStep ⟨d, s.clu.state⟩
      (c.code + (stepAmount (d.minus s.clock.date)).1 * 4) (BitVec.ofInt 32 (stepAmount (d.minus s.clock.date)).2) := by
  obtain ⟨r, records, holds⟩ := (s.steppedTo d).request_appends .clockStep ⟨d, s.clu.state⟩
    (c.code + (stepAmount (d.minus s.clock.date)).1 * 4) (BitVec.ofInt 32 (stepAmount (d.minus s.clock.date)).2) below
  have ordinary : r.kind ≠ .overflow := by
    rw [holds.1]
    nofun
  have stepped : Extends ((s.steppedTo d).request .clockStep ⟨d, s.clu.state⟩
      (c.code + (stepAmount (d.minus s.clock.date)).1 * 4) (BitVec.ofInt 32 (stepAmount (d.minus s.clock.date)).2))
      (s.stepClock d c) := s.stepClock_eq d c ▸ (Extends.refl _).reportStep
  have locked := stepped.ite (c := s.clock.valid = true) stepped.lockReference
  obtain ⟨rest, is⟩ := locked.records s.evq.records r [] ordinary records
  exact ⟨r, rest, is, holds⟩

/-- Out of ACTIVE, with no boundary come to, a step leaves the books of the shifts. -/
theorem State.stepAndLock_idle (idle : s.active = false) (none : s.shu.keyDue = none) (d : Date) (c : StepCause) :
    (s.stepAndLock d c).tallies = s.tallies ∧ (s.stepAndLock d c).shu = s.shu
      ∧ (s.stepAndLock d c).lastAccepted = s.lastAccepted := by
  have still : (s.stepClock d c).tallies = s.tallies ∧ (s.stepClock d c).shu = s.shu
      ∧ (s.stepClock d c).lastAccepted = s.lastAccepted := by
    rw [State.stepClock_eq, State.reportStep_idle (by exact idle)]
    refine ⟨rfl, ?_, rfl⟩
    change { s.shu with keyDue := s.shu.keyDue.filter fun k => !d.earlier (boundaryTime s.cfg.boundaries k) } = s.shu
    rw [none, Option.filter_none, ← none]
  exact ite_holds (p := fun t : State => t.tallies = s.tallies ∧ t.shu = s.shu ∧ t.lastAccepted = s.lastAccepted) still
    (by simpa using still)

/-- The clock comes to no shift boundary out of ACTIVE. -/
theorem State.after_keyDue (works : (s.after n).working = true) (idle : (s.after n).active = false) :
    (s.after n).shu.keyDue = none := by
  obtain ⟨working, active, _⟩ := s.after_seen n
  have run : s.sup.state = .run := by
    rw [working] at works
    simp_all [State.working]
  have main : s.after n = s.runMain n := by
    unfold State.after
    rw [run]
  rw [main, State.runMain_keyDue, ← active, idle]
  rfl

/-! ### The command -/

theorem ClockState.settable_of {q : ClockState} (agreed : q ≠ .agreed) (referenced : q ≠ .referenced) : q.settable = true := by
  cases q with
  | agreed => exact absurd rfl agreed
  | referenced => exact absurd rfl referenced
  | solo | joining | holdover => rfl

theorem ClockState.settable_lockable {q : ClockState} (settable : q.settable = true) : q.lockable = decide (q ≠ .solo) := by
  cases q with
  | agreed | referenced => cases settable
  | solo | joining | holdover => rfl

theorem State.setTimeCommand_taken {us : Nat} (settable : s.clu.state.settable = true) (range : us ≤ 86399999999) (day : Day) :
    State.setTimeCommand day us s = (s.timeSet ⟨day, us⟩).done .setTime [] := by
  have inside : usOutOfRange us = false := decide_eq_false (fun (out : 86400000000 ≤ us) => by omega)
  simp [State.setTimeCommand, settable, inside]

theorem State.setTimeCommand_state (us : Nat) (set : s.clu.state.settable = false) (day : Day) :
    State.setTimeCommand day us s = s.refuse .setTime .state := by
  simp [State.setTimeCommand, set]

theorem State.setTimeCommand_range {us : Nat} (settable : s.clu.state.settable = true) (range : 86399999999 < us) (day : Day) :
    State.setTimeCommand day us s = s.refuse .setTime .range := by
  have out : usOutOfRange us = true := decide_eq_true (Nat.succ_le_of_lt range)
  simp [State.setTimeCommand, settable, out]

theorem State.timeSet_eq (s : State) (d : Date) : s.timeSet d = if s.clock.valid then s.abandonRound.stepClock d .timeSet
    else (s.abandonRound.stepClock d .timeSet).lockReference := by
  rw [← (State.abandonRound_frame s).2.1]
  rfl

theorem State.timeSet_frame (s : State) (d : Date) : s.timeSet d = { s with
    time := (s.timeSet d).time
    clock := (s.timeSet d).clock
    clu := (s.timeSet d).clu
    lif := (s.timeSet d).lif
    evq := (s.timeSet d).evq
    tallies := (s.timeSet d).tallies
    shu := (s.timeSet d).shu
    lastAccepted := (s.timeSet d).lastAccepted
    atl := (s.timeSet d).atl } := by
  obtain ⟨isc, csu, spu, run, sup, chk, lpt, pins, free, pending⟩ := s.abandonRound.stepAndLock_frame d .timeSet
  exact State.eq_of_fields rfl rfl rfl rfl (isc.trans (by simp)) rfl (csu.trans (by simp)) (spu.trans (by simp))
    (run.trans (by simp)) rfl rfl rfl (sup.trans (by simp)) (chk.trans (by simp)) (lpt.trans (by simp)) rfl (pins.trans (by simp))
    (free.trans (by simp)) (pending.trans (by simp))

end

/-- Settles O14: the round abandoned, the step, the lock; refused by the clock state, then by the range. -/
theorem setTimeAnswers : Obligations.SetTimeAnswers := by
  intro w day us s a answers opened
  have run : exec (.setTime w day us) s = .next (a.viaPort (State.setTimeCommand day us.toNat)).finish := rfl
  rw [State.viaPort_open opened] at run
  refine ⟨fun agreed referenced range => ?_, fun held => ?_, fun agreed referenced range => ?_⟩
  · have settable := ClockState.settable_of agreed referenced
    rw [State.setTimeCommand_taken settable range] at run
    let d : Date := ⟨day, us.toNat⟩
    obtain ⟨round, closed, starts, locked⟩ := a.abandonRound_clu
    obtain ⟨time, clock, _, evq, _, _, _, tallies, shu, accepted, _⟩ := a.abandonRound_frame
    have books := a.abandonRound.stepAndLock_clockBooks d .timeSet
    simp only [State.clockBooks, Prod.mk.injEq] at books
    obtain ⟨_, lastKey, lastClosed, startList, monitor, elapsed⟩ := books
    refine ⟨?_, _, run.trans (congrArg Host.Outcome.next (State.finish_eq _)), a.abandonRound.stepAndLock_clock d .timeSet,
      a.abandonRound.stepAndLock_p d .timeSet, ?spread, ?round, fun r round => ?_, fun none => ?_, ?state, fun below => ?_, ?closed, ?monitor,
      ?starts, ?tally, ?elapsed, ?frame, fun idle => ?_⟩
    · rw [run, State.timeSet_eq]
      rfl
    case spread =>
      have spread := congrArg (·.spread) ((a.abandonRound.stepAndLock_time d .timeSet).trans (State.stepClock_time ..))
      exact spread
    case round => exact (a.abandonRound.stepAndLock_round d .timeSet).trans round
    · exact lastKey.trans (State.abandonRound_lastKey round)
    · exact lastKey.trans (by rw [State.abandonRound_closed none])
    case state =>
      have state := a.abandonRound.stepAndLock_state d .timeSet
      rw [clock, locked, a.abandonRound_state, ClockState.settable_lockable settable] at state
      exact state
    · obtain ⟨r, rest, is, kind, stamp, detailA, detailB⟩ := a.abandonRound.stepAndLock_records d .timeSet (evq.symm ▸ below)
      rw [evq] at is
      rw [a.abandonRound_state] at stamp
      rw [clock] at detailA detailB
      refine ⟨r, rest, is, kind, stamp, detailA.trans ?_, detailB⟩
      rw [Nat.mul_comm]
      exact congrArg (BitVec.ofNat 8) (Nat.zero_add _)
    case closed => exact lastClosed.trans closed
    case monitor => exact monitor.trans locked
    case starts => exact startList.trans starts
    case tally => exact (State.stepAndLock_tally ..).trans (congrArg Tallies.tally tallies)
    case elapsed => exact elapsed.trans (by rw [time])
    case frame => exact congrArg (fun u : State => { u with
        lpt := { u.lpt with response := some [0x01#8, 0x03#8] }
        atl := ((a.timeSet d).done .setTime []).finish.atl }) (a.timeSet_frame d)
    · have none := State.after_keyDue (State.working_of_portOpen opened) idle
      have still := a.abandonRound.stepAndLock_idle (a.abandonRound_active.trans idle) (shu.symm ▸ none) d .timeSet
      rw [tallies, shu, accepted] at still
      exact still
  · have unset : a.clu.state.settable = false := by
      obtain held | held := held
      all_goals rw [held]; rfl
    unfold answers
    rw [run, State.setTimeCommand_state _ unset]
    rfl
  · unfold answers
    rw [run, State.setTimeCommand_range (ClockState.settable_of agreed referenced) range]
    rfl

end Sys2Proof.Machine
end

section
/-! What the fields of a received body mean (Tables 12-1 to 12-4). -/

namespace Sys2Proof.Machine

/-! ### Codes -/

theorem ClockState.ofCode_code (q : ClockState) : ClockState.ofCode q.code = some q := by cases q <;> rfl

theorem ClockState.ofCode_above {n : Nat} (above : 4 < n) : ClockState.ofCode n = none := by
  obtain ⟨m, rfl⟩ : ∃ m, n = m + 5 := ⟨n - 5, by omega⟩
  rfl

theorem HandoverOutcome.ofCode_code (o : HandoverOutcome) : HandoverOutcome.ofCode o.code = some o := by cases o <;> rfl

theorem HandoverOutcome.ofCode_outside {n : Nat} (outside : n = 0 ∨ 4 < n) : HandoverOutcome.ofCode n = none := by
  obtain rfl | above := outside
  · rfl
  · obtain ⟨m, rfl⟩ : ∃ m, n = m + 5 := ⟨n - 5, by omega⟩
    rfl

theorem headerNode_val (header : Byte) : (headerNode header).val = header.toNat % 16 := Nat.mod_mod _ 16

theorem headerKind_eq (header : Byte) : headerKind header = (match header.toNat / 16 with
    | 1 => some .trip
    | 2 => some .handover
    | 3 => some .mark
    | 4 => some .tally
    | _ => none) := rfl

theorem usOutOfRange_iff (us : Nat) : usOutOfRange us = true ↔ 86400000000 ≤ us := decide_eq_true_iff

/-! ### Bodies -/

section
variable {body : List Byte}

theorem readTrip_none (outside : 4 < fieldAt body 7 1 ∨ 86400000000 ≤ fieldAt body 2 5) : readTrip body = none := by
  obtain quality | date := outside
  · rw [readTrip, ClockState.ofCode_above quality]
  · have out : usOutOfRange (dateAt body 0).us = true := (usOutOfRange_iff _).mpr date
    unfold readTrip
    dsimp only
    cases ClockState.ofCode (fieldAt body 7 1) with
    | none => rfl
    | some q => exact if_pos out

/-- The level of an input is bit 0 of its byte. -/
theorem readTrip_some {q : ClockState} (quality : q.code = fieldAt body 7 1) (date : fieldAt body 2 5 < 86400000000) :
    readTrip body = some (⟨⟨BitVec.ofNat 16 (fieldAt body 0 2), fieldAt body 2 5⟩, q⟩, Fin.ofNat 16 (fieldAt body 8 1 / 16),
      decide (fieldAt body 8 1 % 2 = 1)) := by
  have inside : ¬ usOutOfRange (dateAt body 0).us = true := fun out => Nat.not_le.mpr date ((usOutOfRange_iff _).mp out)
  have level : (BitVec.ofNat 8 (fieldAt body 8 1)).getLsbD 0 = decide (fieldAt body 8 1 % 2 = 1) := by
    rw [BitVec.getLsbD_ofNat, Nat.testBit_zero, decide_eq_true (by omega), Bool.true_and]
  rw [readTrip, ← quality, ClockState.ofCode_code, ← level]
  exact if_neg inside

theorem readHandover_none {n : Nat} (outside : fieldAt body 3 1 = 0 ∨ 4 < fieldAt body 3 1 ∨ n ≤ fieldAt body 2 1
    ∨ 86400000000 ≤ fieldAt body 6 5) : readHandover n body = none := by
  have unusable : n ≤ (keyAt body 0).index ∨ usOutOfRange (dateAt body 4).us = true → readHandover n body = none := by
    intro out
    unfold readHandover
    dsimp only
    cases HandoverOutcome.ofCode (fieldAt body 3 1) with
    | none => rfl
    | some o => exact if_pos out
  obtain zero | above | index | date := outside
  · rw [readHandover, HandoverOutcome.ofCode_outside (.inl zero)]
  · rw [readHandover, HandoverOutcome.ofCode_outside (.inr above)]
  · exact unusable (.inl index)
  · exact unusable (.inr ((usOutOfRange_iff _).mpr date))

theorem readHandover_some {n : Nat} {o : HandoverOutcome} (outcome : o.code = fieldAt body 3 1) (index : fieldAt body 2 1 < n)
    (date : fieldAt body 6 5 < 86400000000) : readHandover n body = some (⟨BitVec.ofNat 16 (fieldAt body 0 2), fieldAt body 2 1⟩, o,
      ⟨BitVec.ofNat 16 (fieldAt body 4 2), fieldAt body 6 5⟩, BitVec.ofNat 16 (fieldAt body 11 2)) := by
  rw [readHandover, ← outcome, HandoverOutcome.ofCode_code]
  refine if_neg fun out => ?_
  obtain out | out := out
  · exact Nat.not_le.mpr index out
  · exact Nat.not_le.mpr date ((usOutOfRange_iff _).mp out)

/-- AGREED and REFERENCED are sound; the codes 5 to 7 name no state (log 33). -/
theorem MarkStatus.sound_iff (m : MarkStatus) : m.sound = true ↔ m.code.toNat = 2 ∨ m.code.toNat = 4 := by
  unfold MarkStatus.sound
  generalize m.code.toNat = n
  match n with
  | 0 | 1 | 2 | 3 | 4 => decide
  | n + 5 => simp [ClockState.ofCode]

theorem readMark_code (body : List Byte) : (readMark body).status.code.toNat = fieldAt body 5 1 % 8 := by
  have := fieldAt_lt body 5 1
  change ((BitVec.ofNat 8 (fieldAt body 5 1)).extractLsb' 0 3).toNat = _
  rw [BitVec.extractLsb'_toNat, BitVec.toNat_ofNat, Nat.shiftRight_zero]
  omega

theorem readMark_valid (body : List Byte) : (readMark body).status.valid = decide (128 ≤ fieldAt body 5 1) := by
  have := fieldAt_lt body 5 1
  change (BitVec.ofNat 8 (fieldAt body 5 1)).getLsbD 7 = _
  rw [BitVec.getLsbD_ofNat, Nat.testBit_eq_decide_div_mod_eq, decide_eq_true (by omega), Bool.true_and]
  exact decide_eq_decide.mpr (by omega)

theorem readMark_reading (body : List Byte) : (readMark body).reading =
    if fieldAt body 6 4 < 2147483648 then (fieldAt body 6 4 : Int) else (fieldAt body 6 4 : Int) - 4294967296 := by
  have := fieldAt_lt body 6 4
  change (BitVec.ofNat 32 (fieldAt body 6 4)).toInt = _
  rw [BitVec.toInt_eq_toNat_cond, BitVec.toNat_ofNat, Nat.mod_eq_of_lt (by omega)]
  split <;> split <;> omega

theorem readMark_edgeSender (body : List Byte) : (readMark body).edgeSender.val = fieldAt body 10 1 % 16 := Nat.mod_mod _ 16

end

end Sys2Proof.Machine
end

section
/-! A frame received intact, and what its delivery does (R12, R16, R18, R31 to R43, R88, R135, R158). -/

namespace Sys2Proof.Machine

section
variable {s : State}

/-! ### Reception -/

theorem frameChecks_of {header : Byte} {body : List Byte} {check : BitVec 16} {kind : FrameKind}
    (is : headerKind header = some kind) (length : body.length = kind.bodyLength) (matched : crc16 (header :: body) = check) :
    frameChecks header body check = true := by
  simp [frameChecks, is, length, matched]

/-- A frame heard: counted, QUIET, acknowledged if ACTIVE, the flash (R12, R16). -/
def State.heard (s : State) : State := { s with
  lif := { s.lif with
    view := .quiet
    start := none
    counted := false
    joinable := false
    highFrom := s.time.elapsed
    acked := s.active
    counters := { s.lif.counters with intact := satInc s.lif.counters.intact } }
  atl := { s.atl with flashUntil := some (s.time.elapsed + 100000) } }

theorem State.receiveIntact_own {header : Byte} (own : headerNode header = s.lif.nodeNumber) (body : List Byte) :
    s.receiveIntact header body = s.heard.setFlag .duplicateId := if_pos own

theorem State.receiveIntact_idle {header : Byte} (other : headerNode header ≠ s.lif.nodeNumber) (idle : s.active = false)
    (body : List Byte) : s.receiveIntact header body = s.heard := by
  have delivery : s.receiveIntact header body = (match s.active, headerKind header, s.lif.start with
      | true, some kind, some start => s.heard.deliver kind (headerNode header) start body
      | true, some _, none | true, none, _ | false, _, _ => s.heard) := if_neg other
  rw [delivery, idle]

theorem State.receiveIntact_active {header : Byte} {kind : FrameKind} {st : Start} (other : headerNode header ≠ s.lif.nodeNumber)
    (active : s.active = true) (is : headerKind header = some kind) (start : s.lif.start = some st) (body : List Byte) :
    s.receiveIntact header body = s.heard.deliver kind (headerNode header) st body := by
  have delivery : s.receiveIntact header body = (match s.active, headerKind header, s.lif.start with
      | true, some kind, some start => s.heard.deliver kind (headerNode header) start body
      | true, some _, none | true, none, _ | false, _, _ => s.heard) := if_neg other
  rw [delivery, active, is, start]

/-! ### HANDOVER -/

/-- The first record that awaits the outcome takes it. -/
theorem acceptFirst_split {k : ShiftKey} {u : UnitShift} {before : List UnitShift} (a : Acceptance) (after : List UnitShift)
    (none_before : ∀ x ∈ before, x.awaits k = false) (awaits : u.awaits k = true) :
    acceptFirst k a (before ++ u :: after) = before ++ UnitShift.sealed { u with acceptance := some a } :: after := by
  induction before with
  | nil => exact if_pos awaits
  | cons x xs ih =>
    have other : ¬ x.awaits k = true := by
      rw [none_before x (List.mem_cons_self ..)]
      nofun
    rw [List.cons_append, acceptFirst, if_neg other, ih fun y mem => none_before y (List.mem_cons_of_mem _ mem)]
    rfl

theorem UnitShift.awaits_iff (k : ShiftKey) (u : UnitShift) : u.awaits k = true ↔ u.key = k ∧ u.acceptance = none := by
  simp [UnitShift.awaits]

theorem UnitShift.awaits_eq_false {k : ShiftKey} {u : UnitShift} (known : u.key = k → u.acceptance.isSome = true) :
    u.awaits k = false := by
  by_contra awaits
  rw [Bool.not_eq_false, UnitShift.awaits_iff] at awaits
  obtain ⟨key, unknown⟩ := awaits
  have some := known key
  rw [unknown] at some
  cases some

/-- A HANDOVER frame that no record takes is counted (R135). -/
def State.handoverUnused (s : State) : State := { s with run := { s.run with unusedHandovers := satInc s.run.unusedHandovers } }

theorem State.unitHandover_unusable {body : List Byte} (unusable : readHandover s.cfg.boundaries.length body = none)
    (sender : NodeNo) (quality : ClockState) : s.unitHandover sender quality body = s.handoverUnused := by
  rw [State.unitHandover, unusable]
  rfl

section
variable {body : List Byte} {k : ShiftKey} {o : HandoverOutcome} {c : Date} {d : BitVec 16}

theorem State.unitHandover_known (is : readHandover s.cfg.boundaries.length body = some (k, o, c, d))
    (known : ∀ u ∈ s.tallies.unitShifts, u.key = k → u.acceptance.isSome = true) (sender : NodeNo) (quality : ClockState) :
    s.unitHandover sender quality body = s.handoverUnused := by
  rw [State.unitHandover, is]
  refine if_neg fun some => ?_
  obtain ⟨u, mem, awaits⟩ := List.any_eq_true.mp some
  rw [UnitShift.awaits_eq_false (known u mem)] at awaits
  cases awaits

theorem State.unitHandover_taken (is : readHandover s.cfg.boundaries.length body = some (k, o, c, d)) {u : UnitShift}
    {before after : List UnitShift} (list : s.tallies.unitShifts = before ++ u :: after)
    (known : ∀ x ∈ before, x.key = k → x.acceptance.isSome = true) (key : u.key = k) (unknown : u.acceptance = none)
    (sender : NodeNo) (quality : ClockState) : s.unitHandover sender quality body = { s with tallies := { s.tallies with
      unitShifts := before ++ UnitShift.sealed { u with acceptance := some ⟨o, ⟨c, quality⟩, d, sender⟩ } :: after } } := by
  have awaits : u.awaits k = true := (UnitShift.awaits_iff k u).mpr ⟨key, unknown⟩
  rw [State.unitHandover, is, ← acceptFirst_split _ after (fun x mem => UnitShift.awaits_eq_false (known x mem)) awaits, ← list]
  refine if_pos (List.any_eq_true.mpr ⟨u, ?_, awaits⟩)
  rw [list]
  exact List.mem_append_right _ (List.mem_cons_self ..)

end

theorem State.unitHandover_cfg (s : State) (sender : NodeNo) (quality : ClockState) (body : List Byte) :
    (s.unitHandover sender quality body).cfg = s.cfg := by simp [State.cfg]

theorem State.deliver_handover (s : State) (sender : NodeNo) (st : Start) (body : List Byte) :
    let taken := if s.cfg.unitRole then s.unitHandover sender st.quality body else s
    s.deliver .handover sender st body = if s.cfg.postRole then taken.postHandover sender st.quality body else taken := by
  intro taken
  have cfg : taken.cfg = s.cfg := ite_holds (p := fun t : State => t.cfg = s.cfg) (State.unitHandover_cfg ..) rfl
  rw [← cfg]
  rfl

/-! ### TALLY -/

theorem State.enterTally_listed {k : ShiftKey} {r : StationRecord} (listed : s.shu.recordOf k = some r) (n : NodeNo)
    (v : TallyValues) : s.enterTally n k v = { s with shu := { s.shu with
      records := s.shu.records.map fun y => if y.key = k then
        { y with entries := putEntry ⟨n, some v, !s.cfg.expectedUnits.getLsbD n.val⟩ y.entries } else y
      repeated := if r.entries.any (fun e => decide (e.node = n)) then satInc s.shu.repeated else s.shu.repeated } } := by
  rw [State.enterTally, listed]

theorem State.createRecord_cfg (s : State) (k : ShiftKey) : (s.createRecord k).cfg = s.cfg := by simp [State.cfg]

theorem State.tallyReceived_index {k : ShiftKey} (outside : s.cfg.boundaries.length ≤ k.index) (n : NodeNo) (v : TallyValues) :
    s.tallyReceived n k v = s.countUnmatched := if_pos outside

theorem State.tallyReceived_later {k : ShiftKey} (inside : k.index < s.cfg.boundaries.length)
    (later : k.laterThan s.shu.lastCreated = true) (n : NodeNo) (v : TallyValues) :
    s.tallyReceived n k v = (s.createRecord k).enterTally n k v := (if_neg (Nat.not_le.mpr inside)).trans (if_pos later)

theorem State.tallyReceived_gathering {k : ShiftKey} {r : StationRecord} (inside : k.index < s.cfg.boundaries.length)
    (old : k.laterThan s.shu.lastCreated = false) (listed : s.shu.recordOf k = some r) (gathers : r.status = .gathering)
    (n : NodeNo) (v : TallyValues) : s.tallyReceived n k v = s.enterTally n k v := by
  rw [State.tallyReceived, if_neg (Nat.not_le.mpr inside), old, listed]
  exact if_pos gathers

theorem State.tallyReceived_closed {k : ShiftKey} (inside : k.index < s.cfg.boundaries.length)
    (old : k.laterThan s.shu.lastCreated = false) (closed : ∀ r, s.shu.recordOf k = some r → r.status ≠ .gathering)
    (n : NodeNo) (v : TallyValues) : s.tallyReceived n k v = s.countUnmatched := by
  rw [State.tallyReceived, if_neg (Nat.not_le.mpr inside), old]
  cases listed : s.shu.recordOf k with
  | none => rfl
  | some r => exact if_neg (closed r listed)

/-! ### MARK -/

theorem State.earlyOpening_iff (s : State) (k : RoundKey) : s.earlyOpening k = true ↔ k.second ≤ 86399
    ∧ 0 ≤ k.boundary.minus s.clock.date ∧ k.boundary.minus s.clock.date ≤ 200000 := by
  simp [State.earlyOpening, and_assoc]

theorem State.openRound_closed {k : RoundKey} (closed : s.clu.round = none) (fresh : s.clu.lastKey ≠ some k) :
    s.openRound k = s.setRound (some (Round.start k s.lif.nodeNumber)) := if_pos ⟨by rw [closed]; rfl, fresh⟩

theorem State.openRound_last {k : RoundKey} (last : s.clu.lastKey = some k) : s.openRound k = s := if_neg fun may => may.2 last

theorem State.openRound_open {k : RoundKey} {r : Round} (opened : s.clu.round = some r) : s.openRound k = s :=
  if_neg fun may => by
    rw [opened] at may
    cases may.1

theorem Round.edgeFrom_eq (r : Round) (sender : NodeNo) (st : Start) (m : MarkBody) : r.edgeFrom sender st m =
    if m.key = r.key ∧ r.edge = none then { r with
      edge := some ⟨st.date, st.quality⟩
      edgeSender := sender
      ownReading := some (st.date.minus r.key.boundary) } else r := by
  unfold Round.edgeFrom Round.setEdge
  by_cases key : m.key = r.key
  · cases edge : r.edge with
    | none => rw [if_pos key, if_pos ⟨key, rfl⟩]
    | some e => rw [if_pos key, if_neg (fun both => by cases both.2)]
  · rw [if_neg key, if_neg (fun both => key both.1)]

theorem Round.hasEntry_iff (r : Round) (sender : NodeNo) : r.hasEntry sender = true ↔ ∃ e ∈ r.entries, e.node = sender := by
  simp [Round.hasEntry]

theorem Round.edgeFrom_hasEntry (r : Round) (sender x : NodeNo) (st : Start) (m : MarkBody) :
    (r.edgeFrom sender st m).hasEntry x = r.hasEntry x := by rw [Round.hasEntry, Round.edgeFrom_entries]; rfl

theorem dispositionOf_eq (r : Round) (m : MarkBody) : dispositionOf r m =
    if m.status.sound = false then .notSound else if m.key ≠ r.key then .foreign else if m.edgeSender ≠ r.edgeSender then .edge
    else if m.reading < -200000 ∨ 400000 < m.reading then .outOfSpan else .eligible := by
  simp only [dispositionOf, Bool.not_eq_true']

section
variable {sender : NodeNo} {st : Start} {body : List Byte}

theorem State.markDelivered_closed (closed : s.clu.round = none)
    (early : ¬ (s.earlyOpening (readMark body).key = true ∧ s.clu.lastKey ≠ some (readMark body).key)) :
    s.markDelivered sender st body = (s.setStart sender st).timeTest sender (readMark body) := by
  have listed : (s.setStart sender st).clu.round = none := closed
  have unopened : (if (s.setStart sender st).earlyOpening (readMark body).key
      then (s.setStart sender st).openRound (readMark body).key else s.setStart sender st) = s.setStart sender st := by
    split
    · next opens =>
      by_contra changed
      exact early ⟨opens, fun last => changed (State.openRound_last last)⟩
    · rfl
  unfold State.markDelivered
  dsimp only
  rw [unopened, listed]

theorem State.markDelivered_opens (closed : s.clu.round = none) (early : s.earlyOpening (readMark body).key = true)
    (fresh : s.clu.lastKey ≠ some (readMark body).key) :
    s.markDelivered sender st body = ((s.setStart sender st).setRound (some
      (((Round.start (readMark body).key s.lif.nodeNumber).edgeFrom sender st (readMark body)).enter sender (readMark body)))).timeTest
        sender (readMark body) := by
  have opened : (s.setStart sender st).openRound (readMark body).key =
      (s.setStart sender st).setRound (some (Round.start (readMark body).key s.lif.nodeNumber)) :=
    State.openRound_closed (s := s.setStart sender st) closed fresh
  have empty : ((Round.start (readMark body).key s.lif.nodeNumber).edgeFrom sender st (readMark body)).hasEntry sender = false :=
    Round.edgeFrom_hasEntry ..
  have early : (s.setStart sender st).earlyOpening (readMark body).key = true := early
  unfold State.markDelivered
  dsimp only
  rw [if_pos early, opened]
  refine (if_neg ?_).trans rfl
  rw [empty]
  nofun

theorem State.markDelivered_open {r : Round} (opened : s.clu.round = some r) : s.markDelivered sender st body =
    if (r.edgeFrom sender st (readMark body)).hasEntry sender
    then ((s.setStart sender st).setRound (some (r.edgeFrom sender st (readMark body)))).setFlag .duplicateId
    else ((s.setStart sender st).setRound (some ((r.edgeFrom sender st (readMark body)).enter sender (readMark body)))).timeTest
      sender (readMark body) := by
  have listed : (s.setStart sender st).clu.round = some r := opened
  unfold State.markDelivered
  dsimp only
  rw [State.openRound_open listed, ite_self, listed]

end

/-! ### The time test -/

/-- A sound sender's implied time that the local clock contradicts (R40). -/
def State.isForeign (s : State) (m : MarkBody) (e : Start) : Prop := m.status.sound = true ∧ m.key.second ≤ 86399
  ∧ s.clu.startList[m.edgeSender.val] = some e ∧ s.time.elapsed - e.osc ≤ 1000000
  ∧ (s.clock.valid = false ∨ 200000 < ((m.key.boundary.plus m.reading).minus e.date).natAbs)

theorem State.foreignMark_of {m : MarkBody} {e : Start} (foreign : s.isForeign m e) :
    s.foreignMark m = some ⟨m.key.boundary.plus m.reading, e.osc⟩ := by
  obtain ⟨sound, second, start, age, far⟩ := foreign
  have implied : m.implied = some (m.key.boundary.plus m.reading) := if_pos second
  have edge : s.namedEdge m.edgeSender = some e := by
    rw [State.namedEdge, start]
    exact if_pos age
  rw [State.foreignMark, sound, implied, edge]
  exact if_pos (by simpa using far)

theorem State.foreignMark_not {m : MarkBody} (not : ∀ e, ¬ s.isForeign m e) : s.foreignMark m = none := by
  cases found : s.foreignMark m with
  | none => rfl
  | some f =>
    exfalso
    unfold State.foreignMark at found
    split at found
    · next implied edge sound second start =>
      have second : (if m.key.second ≤ 86399 then some (m.key.boundary.plus m.reading) else none) = some implied := second
      unfold State.namedEdge at start
      split at start
      · cases start
      · next st listed =>
        rw [Option.ite_none_right_eq_some, Option.some_inj] at start second found
        obtain ⟨age, rfl⟩ := start
        obtain ⟨inside, rfl⟩ := second
        exact not st ⟨sound, inside, listed, age, by simpa using found.1⟩
    all_goals cases found

theorem State.timeTest_known {m : MarkBody} (not : ∀ e, ¬ s.isForeign m e) (sender : NodeNo) : s.timeTest sender m = s := by
  rw [State.timeTest, State.foreignMark_not not]

theorem State.timeTest_joining {m : MarkBody} {e : Start} (foreign : s.isForeign m e) (joining : s.clu.state = .joining)
    (sender : NodeNo) : s.timeTest sender m = s.coarseSet ⟨m.key.boundary.plus m.reading, e.osc⟩ := by
  rw [State.timeTest, State.foreignMark_of foreign, joining]

theorem State.timeTest_agreed {m : MarkBody} {e : Start} (foreign : s.isForeign m e) (agreed : s.clu.state = .agreed)
    (sender : NodeNo) : s.timeTest sender m = { s with clu := { s.clu with
      foreignSenders := if sender ∈ s.clu.foreignSenders then s.clu.foreignSenders else sender :: s.clu.foreignSenders
      latestForeign := some ⟨m.key.boundary.plus m.reading, e.osc⟩ } } := by
  rw [State.timeTest, State.foreignMark_of foreign, agreed]

theorem State.timeTest_other {m : MarkBody} {e : Start} (foreign : s.isForeign m e) (joining : s.clu.state ≠ .joining)
    (agreed : s.clu.state ≠ .agreed) (sender : NodeNo) : s.timeTest sender m = s := by
  rw [State.timeTest, State.foreignMark_of foreign]
  cases state : s.clu.state with
  | joining => exact absurd state joining
  | agreed => exact absurd state agreed
  | solo | holdover | referenced => rfl

theorem State.coarseSet_eq (s : State) (f : ForeignMark) :
    let set := s.abandonRound.stepClock (f.implied.plus ((s.time.elapsed - f.edgeOsc : Nat) : Int)) .coarse
    s.coarseSet f = ({ set with clu := { set.clu with formation := 0 } }).lockReference := by
  intro set
  change ({ s.abandonRound.stepClock (f.implied.plus ((s.abandonRound.time.elapsed - f.edgeOsc : Nat) : Int)) .coarse with
    clu := _ } : State).lockReference = _
  rw [(State.abandonRound_frame s).1]

/-! ### The parts of the delivery -/

/-- The round with the edge that a MARK of its own key gives it. -/
theorem State.markDelivered_entered {r : Round} {sender : NodeNo} {body : List Byte} (opened : s.clu.round = some r)
    (new : ∀ e ∈ r.entries, e.node ≠ sender) (st : Start) : s.markDelivered sender st body =
      ((s.setStart sender st).setRound (some ((r.edgeFrom sender st (readMark body)).enter sender (readMark body)))).timeTest
        sender (readMark body) := by
  rw [State.markDelivered_open opened, Round.edgeFrom_hasEntry]
  refine if_neg fun had => ?_
  obtain ⟨e, mem, node⟩ := (Round.hasEntry_iff r sender).mp had
  exact new e mem node

theorem State.markDelivered_second {r : Round} {sender : NodeNo} {body : List Byte} (opened : s.clu.round = some r)
    (had : ∃ e ∈ r.entries, e.node = sender) (st : Start) : s.markDelivered sender st body =
      ((s.setStart sender st).setRound (some (r.edgeFrom sender st (readMark body)))).setFlag .duplicateId := by
  rw [State.markDelivered_open opened, Round.edgeFrom_hasEntry]
  exact if_pos ((Round.hasEntry_iff r sender).mpr had)

end

/-- Settles O29: reception, then the delivery to each owner, the time test, and the places of the fields. -/
theorem intactFrameReceived : Obligations.IntactFrameReceived := by
  refine ⟨?reception, fun s sender st body => ?trip, fun s sender st body => ?handover, fun s sender st body => ?tally,
    fun s sender st body => ?mark, fun s sender m => ?test, fun header => ⟨headerNode_val header, headerKind_eq header⟩,
    fun n body => ⟨readHandover_none, fun o => readHandover_some⟩, fun body => ⟨rfl, readMark_code body, readMark_valid body, ?_,
      readMark_reading body, readMark_edgeSender body⟩, fun body => rfl⟩
  case reception =>
    intro w header body check s st kind a heard works view idle start uncounted is length matched
    have run : exec (.frameReceivedIntact w header body check) s =
        .next (a.when (a.receiving && !a.lif.counted && frameChecks header body check) (a.receiveIntact header body)).finish := rfl
    have intact : (a.receiving && !a.lif.counted && frameChecks header body check) = true := by
      rw [State.receiving_of works view idle start, uncounted, frameChecks_of is length matched]
      rfl
    rw [State.when_of intact] at run
    refine ⟨fun own => ?_, fun other inactive => ?_, fun other active => ?_⟩
    · rw [run, State.receiveIntact_own own]
      rfl
    · rw [run, State.receiveIntact_idle other inactive]
      rfl
    · rw [run, State.receiveIntact_active other active is start]
      rfl
  case trip =>
    have notice : s.deliver .trip sender st body = s.tripNotice sender st body := rfl
    refine ⟨fun outside => ?_, fun q quality date => ?_⟩
    · rw [notice, State.tripNotice, readTrip_none outside]
      rfl
    · rw [notice, State.tripNotice, readTrip_some quality date]
  case handover =>
    refine ⟨s.deliver_handover sender st body, fun unusable => State.unitHandover_unusable unusable sender st.quality,
      fun k o c d is => ⟨fun known => State.unitHandover_known is known sender st.quality,
        fun before u after list known key unknown => ?_⟩⟩
    exact ⟨UnitShift.sealed { u with acceptance := some ⟨o, ⟨c, st.quality⟩, d, sender⟩ }, rfl, rfl,
      State.unitHandover_taken is list known key unknown sender st.quality⟩
  case tally =>
    have onPost : s.cfg.postRole = true →
        s.deliver .tally sender st body = s.tallyReceived sender (readTallyBody body).1 (readTallyBody body).2 := fun post => if_pos post
    refine ⟨fun unit => if_neg (by rw [unit]; nofun), fun post outside => (onPost post).trans (State.tallyReceived_index outside ..),
      fun post inside => ⟨fun later r listed => ?_, fun old => ⟨fun r listed gathers => ?_, fun closed => ?_⟩⟩⟩
    · refine ((onPost post).trans (State.tallyReceived_later inside later ..)).trans ?_
      rw [State.enterTally_listed listed, State.createRecord_cfg]
    · exact ((onPost post).trans (State.tallyReceived_gathering inside old listed gathers ..)).trans
        (State.enterTally_listed listed ..)
    · exact (onPost post).trans (State.tallyReceived_closed inside old closed ..)
  case mark =>
    intro m delivered listed ahead early fresh edged disposition entered
    have edge (r : Round) : r.edgeFrom sender st m = edged r := Round.edgeFrom_eq ..
    have enter (r : Round) : listed.setRound (some (r.enter sender m)) = entered r := by
      have is : dispositionOf r m = disposition r := dispositionOf_eq r m
      unfold Round.enter
      rw [is]
      rfl
    have opens : s.earlyOpening m.key = true ↔ early := s.earlyOpening_iff m.key
    refine ⟨fun closed may => ?_, fun closed not => ?_, fun r opened => ⟨fun new => ?_, fun had => ?_⟩⟩
    · rw [← edge, ← enter]
      exact State.markDelivered_opens closed (opens.mpr may.1) may.2
    · exact State.markDelivered_closed closed fun may => not ⟨opens.mp may.1, may.2⟩
    · rw [← edge, ← enter]
      exact State.markDelivered_entered opened new st
    · rw [← edge]
      exact State.markDelivered_second opened had st
  case test =>
    intro implied foreign
    exact ⟨fun not => State.timeTest_known not sender, fun e is => ⟨fun joining => (State.timeTest_joining is joining sender).trans
      (State.coarseSet_eq ..), fun agreed => State.timeTest_agreed is agreed sender,
      fun joining agreed => State.timeTest_other is joining agreed sender⟩⟩
  · rw [MarkStatus.sound_iff, readMark_code]

end Sys2Proof.Machine
end

section
/-! The last reached key at OPEN: what follows on its setting keeps it (R142, R143, R152). -/

namespace Sys2Proof.Machine

section
variable (s : State)

@[simp] theorem State.giveResult_reached (k : ShiftKey) (r : Result) : (s.giveResult k r).shu.lastReached = s.shu.lastReached := by
  unfold State.giveResult
  split
  all_goals rfl

@[simp] theorem State.reportFrame_reached (k : ShiftKey) (o : OwnFrame) :
    (s.reportFrame k o).shu.lastReached = s.shu.lastReached := by
  unfold State.reportFrame
  split
  · rfl
  · exact ite_holds (p := fun t : State => t.shu.lastReached = s.shu.lastReached) (by simp) rfl

@[simp] theorem State.displaced_reached (c : FrameContent) : (s.displaced c).shu.lastReached = s.shu.lastReached := by
  unfold State.displaced
  split
  · rfl
  · exact State.reportFrame_reached ..
  all_goals rfl

@[simp] theorem State.queueByDisplacing_reached (c : FrameContent) :
    (s.queueByDisplacing c).1.shu.lastReached = s.shu.lastReached := by
  unfold State.queueByDisplacing
  dsimp only
  split
  all_goals exact State.displaced_reached ..

@[simp] theorem State.queueFrame_reached (c : FrameContent) : (s.queueFrame c).1.shu.lastReached = s.shu.lastReached := by
  unfold State.queueFrame
  split
  · rfl
  · split
    · rfl
    · exact State.queueByDisplacing_reached ..

@[simp] theorem State.createRecord_reached (k : ShiftKey) : (s.createRecord k).shu.lastReached = s.shu.lastReached :=
  ite_holds (p := fun t : State => t.shu.lastReached = s.shu.lastReached) rfl rfl

@[simp] theorem State.createRecords_reached (ks : List ShiftKey) :
    (s.createRecords ks).shu.lastReached = s.shu.lastReached := by
  unfold State.createRecords
  induction ks generalizing s with
  | nil => rfl
  | cons k ks ih => exact (ih _).trans (State.createRecord_reached s k)

@[simp] theorem State.enterTally_reached (n : NodeNo) (k : ShiftKey) (v : TallyValues) :
    (s.enterTally n k v).shu.lastReached = s.shu.lastReached := by
  unfold State.enterTally
  split
  all_goals rfl

@[simp] theorem State.tallyReceived_reached (n : NodeNo) (k : ShiftKey) (v : TallyValues) :
    (s.tallyReceived n k v).shu.lastReached = s.shu.lastReached := by
  unfold State.tallyReceived
  split
  · rfl
  split
  · simp
  split
  · rfl
  · exact ite_holds (p := fun t : State => t.shu.lastReached = s.shu.lastReached) (by simp) rfl

@[simp] theorem State.closeUnitShift_reached (c : CloseKey) : (s.closeUnitShift c).shu.lastReached = s.shu.lastReached := by
  unfold State.closeUnitShift State.sendTally
  exact ite_holds (p := fun t : State => t.shu.lastReached = s.shu.lastReached)
    ((State.tallyReceived_reached ..).trans (State.queueFrame_reached ..)) (State.queueFrame_reached ..)

@[simp] theorem State.closeOrder_reached (keys : List CloseKey) : (s.closeOrder keys).shu.lastReached = s.shu.lastReached := by
  unfold State.closeOrder
  generalize (keys.filter fun c => c.key.laterThan s.tallies.lastClosed) = ks
  induction ks generalizing s with
  | nil => rfl
  | cons c cs ih => exact (ih _).trans (State.closeUnitShift_reached s c)

@[simp] theorem State.catchUp_reached : s.catchUp.shu.lastReached = s.shu.lastReached := by
  unfold State.catchUp
  split
  · rfl
  · exact State.closeOrder_reached ..

@[simp] theorem State.testEarly_reached : s.testEarly.shu.lastReached = s.shu.lastReached :=
  ite_holds (p := fun t : State => t.shu.lastReached = s.shu.lastReached) rfl rfl

theorem State.foldClose_reached (l : List ShiftKey) :
    (l.foldl State.closeWithoutFrame s).shu.lastReached = s.shu.lastReached := by
  induction l generalizing s with
  | nil => rfl
  | cons k ks ih => exact (ih _).trans (State.giveResult_reached ..)

theorem State.targetLast_reached (k : ShiftKey) : (s.targetLast k).shu.lastReached = s.shu.lastReached :=
  ite_holds (p := fun t : State => t.shu.lastReached = s.shu.lastReached) rfl rfl

@[simp] theorem State.handleKeys_reached (l : List ShiftKey) : (s.handleKeys l).shu.lastReached = s.shu.lastReached := by
  unfold State.handleKeys
  split
  · exact State.testEarly_reached _
  · exact (State.targetLast_reached ..).trans (State.foldClose_reached ..)

@[simp] theorem State.postAtOpen_reached : s.postAtOpen.shu.lastReached = s.shu.lastReached := by
  unfold State.postAtOpen
  split
  · rfl
  · split
    · exact State.testEarly_reached _
    · simp

end

section
variable {s : State}

/-! ### The Shift Unit at OPEN -/

/-- With valid time the latest key is the last reached one, and a unit node makes its catch-up (R142, R143). -/
def State.caughtUp (s : State) : State :=
  if s.cfg.unitRole then (s.reach (latestKeyAt s.cfg.boundaries s.clock.date)).catchUp
  else s.reach (latestKeyAt s.cfg.boundaries s.clock.date)

theorem State.caughtUp_cfg (s : State) : s.caughtUp.cfg = s.cfg :=
  ite_holds (p := fun t : State => t.cfg = s.cfg) (by simp [State.cfg, State.reach]) rfl

theorem State.openShift_invalid (invalid : s.clock.valid = false) : s.openShift = s := by
  simp [State.openShift, invalid]

theorem State.openShift_valid (valid : s.clock.valid = true) :
    s.openShift = if s.cfg.postRole then s.caughtUp.postAtOpen else s.caughtUp := by
  have taken : s.openShift = if s.caughtUp.cfg.postRole then s.caughtUp.postAtOpen else s.caughtUp := if_pos valid
  rw [taken, State.caughtUp_cfg]

theorem State.openShift_unit (valid : s.clock.valid = true) (unit : s.cfg.postRole = false) : s.openShift = s.caughtUp := by
  rw [State.openShift_valid valid, unit]
  rfl

theorem State.openShift_post (valid : s.clock.valid = true) (post : s.cfg.postRole = true) :
    s.openShift = s.caughtUp.postAtOpen := by
  rw [State.openShift_valid valid]
  exact if_pos post

theorem State.openShift_reached (valid : s.clock.valid = true) :
    s.openShift.shu.lastReached = some (latestKeyAt s.cfg.boundaries s.clock.date) := by
  have caught : s.caughtUp.shu.lastReached = some (latestKeyAt s.cfg.boundaries s.clock.date) :=
    ite_holds (p := fun t : State => t.shu.lastReached = some (latestKeyAt s.cfg.boundaries s.clock.date))
      (State.catchUp_reached _) rfl
  rw [State.openShift_valid valid]
  exact ite_holds (p := fun t : State => t.shu.lastReached = some (latestKeyAt s.cfg.boundaries s.clock.date))
    ((State.postAtOpen_reached _).trans caught) caught

/-- A node without the unit role closes no unit shift at OPEN. -/
theorem State.openShift_tallies (post : s.cfg.unitRole = false) : s.openShift.tallies = s.tallies := by
  have caught : s.caughtUp.tallies = s.tallies := by
    rw [State.caughtUp, post]
    rfl
  cases valid : s.clock.valid with
  | false => rw [State.openShift_invalid valid]
  | true =>
    rw [State.openShift_valid valid]
    exact ite_holds (p := fun t : State => t.tallies = s.tallies) (by simp [caught]) caught

/-- A node without the post role accepts no key at OPEN. -/
theorem State.openShift_accepted (unit : s.cfg.postRole = false) : s.openShift.lastAccepted = s.lastAccepted := by
  cases valid : s.clock.valid with
  | false => rw [State.openShift_invalid valid]
  | true =>
    rw [State.openShift_unit valid unit]
    exact ite_holds (p := fun t : State => t.lastAccepted = s.lastAccepted) (by simp [State.reach]) rfl

theorem State.caughtUp_accepted (s : State) : s.caughtUp.lastAccepted = s.lastAccepted :=
  ite_holds (p := fun t : State => t.lastAccepted = s.lastAccepted) (by simp [State.reach]) rfl

theorem State.caughtUp_keysSince (s : State) (k : ShiftKey) : s.caughtUp.keysSince k = s.keysSince k := by
  have clock : s.caughtUp.clock = s.clock := ite_holds (p := fun t : State => t.clock = s.clock) (by simp [State.reach]) rfl
  rw [State.keysSince, State.caughtUp_cfg, clock]
  rfl

theorem State.postAtOpen_fresh (none : s.lastAccepted = none) : s.postAtOpen = s := by rw [State.postAtOpen, none]

theorem State.postAtOpen_current {k : ShiftKey} (last : s.lastAccepted = some k) (current : s.keysSince k = []) :
    s.postAtOpen = s.testEarly := by
  rw [State.postAtOpen, last]
  dsimp only
  rw [current]

theorem State.postAtOpen_behind {k : ShiftKey} (last : s.lastAccepted = some k) (behind : s.keysSince k ≠ []) :
    s.postAtOpen = (s.createRecords (lastFour (s.keysSince k))).handleKeys (s.keysSince k) := by
  rw [State.postAtOpen, last]
  dsimp only
  split
  · next current => exact absurd current behind
  · rfl

theorem State.keysSince_counts (s : State) (k : ShiftKey) : ∀ x ∈ s.keysSince k,
    x.later k = true ∧ (boundaryTime s.cfg.boundaries x).later s.clock.date = false := by
  intro x mem
  have counts : countsUpTo s.cfg.boundaries s.clock.date k (fun _ => true) x = true :=
    (List.mem_filter.mp (List.mem_reverse.mp mem)).2
  obtain ⟨later, passed, _⟩ := (countsUpTo_iff ..).mp counts
  exact ⟨later, passed⟩

end

end Sys2Proof.Machine
end

section
/-! OPEN (R176, R179). -/

namespace Sys2Proof.Machine

section
variable {s : State}

/-! ### The eight steps -/

/-- The first three steps of OPEN: ACTIVE, JOINING, the OPENED record (R179). -/
def State.opening (s : State) : State := s.openNodeState.openClock.recordOpened

/-- The first six steps of OPEN (R179). -/
def State.started (s : State) : State := { s.opening.lockReference with
  isc := Isc.initial s.time.elapsed
  spu := Spu.initial s.time.elapsed
  run := if s.cfg.unitRole then { s.run with initialPhase := true, tenthStart := s.time.elapsed } else s.run }

/-- The monitor's lock is taken at OPEN. -/
def State.locks (s : State) : Bool := s.clu.monitor.isLocked && s.clock.valid

theorem State.opening_lock (s : State) : s.opening.lockReference =
    if s.locks then s.opening.changeState .referenced .referenceLock else s.opening := by
  have same : (s.clu.monitor.isLocked && true && s.clock.valid) = s.locks := by rw [Bool.and_true]; rfl
  rw [← same]
  rfl

/-- The Clock Unit after the steps of OPEN. -/
def State.openedClu (s : State) : Clu := { s.clu with
  state := if s.locks then .referenced else .joining
  formation := 0
  short := 0
  outlier := 0
  split := 0
  latestForeign := none }

theorem State.started_clu (s : State) : s.started.clu = s.openedClu := by
  change s.opening.lockReference.clu = _
  rw [State.opening_lock, State.openedClu]
  cases s.locks with
  | true => rfl
  | false => rfl

theorem State.started_frame (s : State) : s.started = { s with
    lpt := { s.lpt with nodeState := .active }
    time := { s.time with boundaryDue := none }
    clu := s.openedClu
    isc := Isc.initial s.time.elapsed
    spu := Spu.initial s.time.elapsed
    run := if s.cfg.unitRole then { s.run with initialPhase := true, tenthStart := s.time.elapsed } else s.run
    evq := s.started.evq
    atl := s.started.atl } := by
  obtain ⟨time, clock, lif, _, csu, _, _, tallies, shu, accepted, sup, chk, lpt, pins, free, pending⟩ := s.opening.lockReference_frame
  exact State.eq_of_fields time clock lif s.started_clu rfl rfl csu rfl rfl tallies shu
    accepted sup chk lpt rfl pins free pending

theorem State.openSteps_eq (s : State) :
    s.openSteps = { s.started.openShift with chk := { s.chk with pass := some .tally, passStart := s.time.elapsed } } := by
  obtain ⟨time, _, _, _, _, _, run, _, _, _, _, _, lpt, _⟩ := s.opening.lockReference_frame
  have cfg : s.opening.lockReference.cfg = s.cfg := congrArg (fun l => l.config.getD NodeConfig.none) lpt
  have elapsed : s.opening.lockReference.time.elapsed = s.time.elapsed := congrArg (·.elapsed) time
  have started : s.opening.lockReference.startSweep.startRun = s.started := by
    change ({ s.opening.lockReference with
      isc := Isc.initial s.opening.lockReference.time.elapsed
      spu := Spu.initial s.opening.lockReference.time.elapsed
      run := if s.opening.lockReference.cfg.unitRole then { s.opening.lockReference.run with
        initialPhase := true, tenthStart := s.opening.lockReference.time.elapsed } else s.opening.lockReference.run } : State) = _
    rw [elapsed, cfg, run]
    rfl
  have steps : s.openSteps = s.opening.lockReference.startSweep.startRun.openShift.startChecks := rfl
  have chk : s.started.openShift.chk = s.chk := by rw [(State.openShift_frame _).2.2.2.2.2.2.2.2.1, s.started_frame]
  have since : s.started.openShift.time.elapsed = s.time.elapsed := by rw [(State.openShift_frame _).1, s.started_frame]
  rw [steps, started, State.startChecks, chk, since]

/-- What the Shift Unit's step leaves of the started node. -/
theorem State.openSteps_frame (s : State) : s.openSteps = { s with
    lpt := { s.lpt with nodeState := .active }
    time := { s.time with boundaryDue := none }
    clu := s.openedClu
    isc := Isc.initial s.time.elapsed
    spu := Spu.initial s.time.elapsed
    run := if s.cfg.unitRole then { s.run with initialPhase := true, tenthStart := s.time.elapsed } else s.run
    chk := { s.chk with pass := some .tally, passStart := s.time.elapsed }
    tallies := s.openSteps.tallies
    lif := s.openSteps.lif
    evq := s.openSteps.evq
    shu := s.openSteps.shu
    lastAccepted := s.openSteps.lastAccepted
    atl := s.openSteps.atl } := by
  obtain ⟨time, clock, clu, isc, csu, spu, run, sup, _, lpt, pins, free, pending⟩ := s.started.openShift_frame
  have opened := s.openSteps_eq
  have frame := s.started_frame
  exact State.eq_of_fields ((congrArg State.time opened).trans (time.trans (congrArg State.time frame :)))
    ((congrArg State.clock opened).trans (clock.trans (congrArg State.clock frame :))) rfl
    ((congrArg State.clu opened).trans (clu.trans (congrArg State.clu frame :)))
    ((congrArg State.isc opened).trans (isc.trans (congrArg State.isc frame :))) rfl
    ((congrArg State.csu opened).trans (csu.trans (congrArg State.csu frame :)))
    ((congrArg State.spu opened).trans (spu.trans (congrArg State.spu frame :)))
    ((congrArg State.run opened).trans (run.trans (congrArg State.run frame :))) rfl rfl rfl
    ((congrArg State.sup opened).trans (sup.trans (congrArg State.sup frame :))) (congrArg State.chk opened :)
    ((congrArg State.lpt opened).trans (lpt.trans (congrArg State.lpt frame :))) rfl
    ((congrArg State.pins opened).trans (pins.trans (congrArg State.pins frame :)))
    ((congrArg State.free opened).trans (free.trans (congrArg State.free frame :)))
    ((congrArg State.pending opened).trans (pending.trans (congrArg State.pending frame :)))

/-! ### Records and flags -/

/-- Below 255 records a transition of the clock state appends its record. -/
theorem State.changeState_appends (q : ClockState) (c : StateCause) (below : s.evq.records.length < 255) :
    ∃ r, (s.changeState q c).evq.records = s.evq.records ++ [r]
      ∧ r.Holds .clockState ⟨s.clock.date, q⟩ (s.clu.state.code + q.code * 16) (BitVec.ofNat 32 c.code) :=
  State.request_appends (s := { s with clu := { s.clu with
    state := q, formation := 0, short := 0, outlier := 0, split := 0, latestForeign := none } }) _ _ _ _ below

/-- The first three steps append two records. -/
theorem State.opening_records (below : s.evq.records.length < 253) :
    ∃ r1 r2, s.opening.evq.records = s.evq.records ++ [r1, r2]
      ∧ r1.Holds .clockState ⟨s.clock.date, .joining⟩ (s.clu.state.code + 16) 1
      ∧ r2.Holds .opened ⟨s.clock.date, .joining⟩ (bitAt 0 s.cfg.unitRole + bitAt 1 s.cfg.postRole + bitAt 2 s.clock.valid)
        (BitVec.ofNat 32 (s.lif.nodeNumber.val + s.lif.lineSpeed.toNat * 16)) := by
  obtain ⟨r1, first, holds1⟩ := State.changeState_appends (s := { s.openNodeState with
    time := { s.openNodeState.time with boundaryDue := none } }) .joining .opened (Nat.lt_of_lt_of_le below (Nat.le_add_right 253 2))
  have joined : s.openNodeState.openClock.evq.records = s.evq.records ++ [r1] := first
  have room : s.openNodeState.openClock.evq.records.length < 255 := by
    rw [joined, List.length_append, List.length_singleton]
    omega
  obtain ⟨r2, second, holds2⟩ := State.request_appends .opened s.openNodeState.openClock.stamp
    (bitAt 0 s.cfg.unitRole + bitAt 1 s.cfg.postRole + bitAt 2 s.clock.valid)
    (BitVec.ofNat 32 (s.lif.nodeNumber.val + s.lif.lineSpeed.toNat * 16)) room
  refine ⟨r1, r2, Eq.trans second ?_, holds1, holds2⟩
  rw [joined, List.append_assoc]
  rfl

/-- The Shift Unit's step keeps records and flags. -/
theorem State.started_extends (s : State) : Extends s.started s.openSteps := by
  rw [s.openSteps_eq]
  exact (Extends.refl s.started).openShift.same rfl

theorem State.started_evq (s : State) : s.started.evq =
    if s.locks then (s.opening.changeState .referenced .referenceLock).evq else s.opening.evq := by
  change s.opening.lockReference.evq = _
  rw [State.opening_lock]
  exact apply_ite State.evq ..

/-- The records of OPEN's steps, first the two or three of the first six. -/
theorem State.openSteps_records (below : s.evq.records.length < 253) :
    ∃ r1 r2 rest, s.openSteps.evq.records = s.evq.records ++ r1 :: r2 :: rest
      ∧ r1.Holds .clockState ⟨s.clock.date, .joining⟩ (s.clu.state.code + 16) 1
      ∧ r2.Holds .opened ⟨s.clock.date, .joining⟩ (bitAt 0 s.cfg.unitRole + bitAt 1 s.cfg.postRole + bitAt 2 s.clock.valid)
        (BitVec.ofNat 32 (s.lif.nodeNumber.val + s.lif.lineSpeed.toNat * 16))
      ∧ (s.locks = true → ∃ r3 rest', rest = r3 :: rest' ∧ r3.Holds .clockState ⟨s.clock.date, .referenced⟩ 65 8) := by
  obtain ⟨r1, r2, records, holds1, holds2⟩ := State.opening_records below
  have evq := s.started_evq
  cases lock : s.locks with
  | false =>
    rw [lock] at evq
    have listed : s.started.evq.records = (s.evq.records ++ [r1]) ++ r2 :: [] := by
      rw [evq, List.append_assoc]
      exact records
    obtain ⟨more, grown⟩ := s.started_extends.records _ r2 [] (by rw [holds2.1]; nofun) listed
    exact ⟨r1, r2, more, by rw [grown, List.append_assoc]; rfl, holds1, holds2, nofun⟩
  | true =>
    rw [lock] at evq
    obtain ⟨r3, third, holds3⟩ := State.changeState_appends (s := s.opening) .referenced .referenceLock (by
      rw [records, List.length_append]
      exact Nat.add_lt_add_right below 2)
    have listed : s.started.evq.records = (s.evq.records ++ [r1, r2]) ++ r3 :: [] := by
      rw [evq, ← records]
      exact third
    obtain ⟨more, grown⟩ := s.started_extends.records _ r3 [] (by rw [holds3.1]; nofun) listed
    exact ⟨r1, r2, r3 :: more, by rw [grown, List.append_assoc]; rfl, holds1, holds2, fun _ => ⟨r3, more, rfl, holds3⟩⟩

theorem State.openSteps_flag (s : State) : s.openSteps.flag .clockState = true := by
  refine s.started_extends.flags .clockState ?_
  have joined : s.opening.flag .clockState = true := by
    simp [State.opening, State.recordOpened, State.openClock, State.changeState, State.requestNow]
  have kept := (Extends.refl s.opening).lockReference.flags .clockState joined
  exact kept

end

/-- The Shift Unit's step at OPEN leaves the tally. -/
theorem State.openSteps_tally (s : State) : s.openSteps.tallies.tally = s.tallies.tally := (s.openTo_run _).1

section
variable {s : State}

theorem State.started_clock (s : State) : s.started.clock = s.clock := (congrArg State.clock s.started_frame :)

theorem State.started_cfg (s : State) : s.started.cfg = s.cfg := by
  have lpt : s.started.lpt = { s.lpt with nodeState := .active } := (congrArg State.lpt s.started_frame :)
  rw [State.cfg, lpt]
  rfl

theorem State.started_books (s : State) : s.started.tallies = s.tallies ∧ s.started.shu = s.shu
    ∧ s.started.lastAccepted = s.lastAccepted ∧ s.started.lif = s.lif :=
  ⟨(congrArg State.tallies s.started_frame :), (congrArg State.shu s.started_frame :),
    (congrArg State.lastAccepted s.started_frame :), (congrArg State.lif s.started_frame :)⟩

theorem State.openSteps_books (s : State) : s.openSteps.tallies = s.started.openShift.tallies
    ∧ s.openSteps.shu = s.started.openShift.shu ∧ s.openSteps.lastAccepted = s.started.openShift.lastAccepted
    ∧ s.openSteps.lif = s.started.openShift.lif := by
  rw [s.openSteps_eq]
  exact ⟨rfl, rfl, rfl, rfl⟩

theorem State.openSteps_reached (valid : s.clock.valid = true) :
    s.openSteps.shu.lastReached = some (latestKeyAt s.cfg.boundaries s.clock.date) := by
  have clock := s.started_clock
  rw [s.openSteps_books.2.1, State.openShift_reached (clock ▸ valid), clock, State.started_cfg]

theorem State.openSteps_invalid (invalid : s.clock.valid = false) : s.openSteps.tallies = s.tallies ∧ s.openSteps.shu = s.shu
    ∧ s.openSteps.lastAccepted = s.lastAccepted ∧ s.openSteps.lif = s.lif := by
  have books := s.openSteps_books
  rw [State.openShift_invalid (s.started_clock ▸ invalid)] at books
  rwa [s.started_books.1, s.started_books.2.1, s.started_books.2.2.1, s.started_books.2.2.2] at books

/-! ### The command -/

theorem State.openCommand_configured (configured : s.lpt.nodeState = .configured) :
    s.openCommand = s.openSteps.done .openNode [] := by rw [State.openCommand, configured]

theorem State.openCommand_unconfigured (unconfigured : s.lpt.nodeState = .unconfigured) :
    s.openCommand = s.refuse .openNode .notConfigured := by rw [State.openCommand, unconfigured]

theorem State.openCommand_active (active : s.lpt.nodeState = .active) : s.openCommand = s.refuse .openNode .state := by
  rw [State.openCommand, active]

theorem State.openSteps_done (s : State) : s.openSteps.done .openNode [] =
    { s.openSteps with lpt := { s.lpt with nodeState := .active, response := some [0x01#8, 0x02#8] } } :=
  congrArg (fun l => { s.openSteps with lpt := { l with response := some [0x01#8, 0x02#8] } })
    (congrArg State.lpt s.openSteps_frame :)

end

/-- Settles O13: the steps of OPEN, what they leave, the first records; the Shift Unit's step; the keys since a key. -/
theorem openAnswers : Obligations.OpenAnswers := by
  refine ⟨fun w s => ?command, fun s => ?steps, fun s => ?shift, fun s k => ?keys⟩
  case command =>
    intro a answers locks opened
    have run : exec (.openNode w) s = .next (a.viaPort State.openCommand).finish := rfl
    rw [State.viaPort_open opened] at run
    have frame := a.openSteps_frame
    refine ⟨fun configured => ?_, fun configured solo => ?_, fun unconfigured => ?_, fun active => ?_⟩
    · rw [run, State.openCommand_configured configured, State.openSteps_done]
    · rw [State.openCommand_configured configured] at run
      obtain ⟨tallies, _, accepted, _⟩ := a.openSteps_books
      refine ⟨_, run.trans (congrArg Host.Outcome.next (State.finish_eq _)), ?frame, a.openSteps_tally, State.openSteps_reached,
        State.openSteps_invalid, fun post => ?tallies, fun unit => ?accepted, ?flag, fun below => ?records⟩
      case frame => exact congrArg (fun u : State => { u with
        lpt := { u.lpt with response := some [0x01#8, 0x02#8] }
        atl := (a.openSteps.done .openNode []).finish.atl }) frame
      case tallies =>
        refine tallies.trans ((State.openShift_tallies ?_).trans a.started_books.1)
        rwa [State.started_cfg]
      case accepted =>
        refine accepted.trans ((State.openShift_accepted ?_).trans a.started_books.2.2.1)
        rwa [State.started_cfg]
      case flag =>
        have works : (a.openSteps.done .openNode []).working = true := by
          have sup : (a.openSteps.done .openNode []).sup = a.sup := (congrArg State.sup frame :)
          rw [State.working, sup]
          exact State.working_of_portOpen opened
        change (a.openSteps.done .openNode []).finish.atl.flags.getLsbD 3 = true
        rw [State.finish_flags _ works, BitVec.getLsbD_or]
        exact Bool.or_eq_true_iff.mpr (.inl a.openSteps_flag)
      case records =>
        obtain ⟨r1, r2, rest, records, ⟨kind1, stamp1, a1, b1⟩, ⟨kind2, stamp2, a2, b2⟩, third⟩ := State.openSteps_records below
        rw [solo] at a1
        refine ⟨r1, r2, rest, records, ⟨kind1, stamp1, a1, b1⟩, ⟨kind2, stamp2, a2, ?_⟩, third⟩
        rw [b2, Nat.mul_comm]
    · exact run.trans (congrArg (fun t : State => Host.Outcome.next t.finish) (State.openCommand_unconfigured unconfigured))
    · exact run.trans (congrArg (fun t : State => Host.Outcome.next t.finish) (State.openCommand_active active))
  case steps =>
    intro active joining opened locked started
    have same : s.started = started := by
      have run : locked.run = s.run := State.lockReference_frame s.opening |>.2.2.2.2.2.2.1
      change _ = ({ locked with
        isc := Isc.initial s.time.elapsed
        spu := Spu.initial s.time.elapsed
        run := if s.cfg.unitRole then { locked.run with initialPhase := true, tenthStart := s.time.elapsed } else locked.run } : State)
      rw [run]
      rfl
    have chk : started.openShift.chk = s.chk := by
      rw [← same]
      exact (State.openShift_frame _).2.2.2.2.2.2.2.2.1.trans (congrArg State.chk s.started_frame :)
    rw [chk, ← same]
    exact s.openSteps_eq
  case shift =>
    intro plan k reached caught
    have is : s.caughtUp = caught := rfl
    refine ⟨State.openShift_invalid, State.openShift_unit, fun valid post none => ?_, fun c valid post last => ⟨fun current => ?_,
      fun behind => ?_⟩⟩
    all_goals rw [State.openShift_post valid post]
    · exact State.postAtOpen_fresh (s.caughtUp_accepted.trans none)
    · exact State.postAtOpen_current (s.caughtUp_accepted.trans last) ((s.caughtUp_keysSince c).trans current)
    · have since := s.caughtUp_keysSince c
      rw [State.postAtOpen_behind (s.caughtUp_accepted.trans last) (ne_of_eq_of_ne since behind), since]
      rfl
  case keys =>
    intro plan counts l
    refine ⟨s.keysSince_counts k, fun _ asc _ _ index => ?_⟩
    obtain ⟨sorted, five, all⟩ := keysUpTo_spec plan asc (Nat.zero_lt_of_lt index) k index s.clock.date (fun _ => true)
      fun _ _ _ _ _ _ _ _ _ _ => rfl
    exact ⟨sorted, five, fun x inside is => all x inside ((countsUpTo_iff ..).mpr ⟨is.1, is.2, rfl⟩)⟩

end Sys2Proof.Machine
end

section
/-! CONFIGURE: the layout of a block, the test of each field, the configuration it gives (Table 10-3, R177, R178, R187). -/

namespace Sys2Proof.Machine

/-! ### The layout of a block -/

/-- Where a field lies in fields laid out one after the other. -/
def fieldOffset : List Nat → Nat → Nat
  | [], _ => 0
  | m :: ms, n => if m = n then 0 else fieldWidth m + fieldOffset ms n

theorem fieldAt_drop (l : List Byte) (m p n : Nat) : fieldAt (l.drop m) p n = fieldAt l (m + p) n := by
  rw [fieldAt, List.drop_drop]
  rfl

theorem blockValue_readFields {fields : List Nat} {n : Nat} (listed : n ∈ fields) (bytes : List Byte) :
    blockValue (readFields fields bytes) n = fieldAt bytes (fieldOffset fields n) (fieldWidth n) := by
  induction fields generalizing bytes with
  | nil => cases listed
  | cons m ms ih =>
    by_cases here : m = n
    · subst here
      simp [readFields, blockValue, fieldOffset, fieldAt]
    · have behind : n ∈ ms := (List.mem_cons.mp listed).resolve_left (Ne.symm here)
      have skipped : blockValue (readFields (m :: ms) bytes) n = blockValue (readFields ms (bytes.drop (fieldWidth m))) n := by
        rw [readFields, blockValue, List.find?_cons_of_neg (by simpa using here)]
        rfl
      rw [skipped, ih behind, fieldAt_drop, fieldOffset, if_neg here]

/-- The first 31 fields with their places and sizes (R187). -/
def fieldPlaces : List (Nat × Nat × Nat) :=
  [(1, 0, 1), (2, 1, 1), (3, 2, 1), (4, 3, 2), (5, 5, 1), (6, 6, 1), (7, 7, 1), (8, 8, 2), (9, 10, 2), (10, 12, 1),
    (11, 13, 1), (12, 14, 2), (13, 16, 2), (14, 18, 1), (15, 19, 2), (16, 21, 2), (17, 23, 1), (18, 24, 2), (19, 26, 2),
    (20, 28, 2), (21, 30, 2), (22, 32, 2), (23, 34, 2), (24, 36, 1), (25, 37, 1), (26, 38, 2), (27, 40, 1), (28, 41, 2),
    (29, 43, 2), (30, 45, 2), (31, 47, 2)]

theorem fieldPlaces_offset : ∀ x ∈ fieldPlaces, x.1 ∈ blockFields ∧ fieldOffset blockFields x.1 = x.2.1 ∧ fieldWidth x.1 = x.2.2 := by
  decide

theorem fieldOffset_behind {first : List Nat} {n : Nat} (other : n ∉ first) (rest : List Nat) :
    fieldOffset (first ++ rest) n = (first.map fieldWidth).sum + fieldOffset rest n := by
  induction first with
  | nil => exact (Nat.zero_add _).symm
  | cons m ms ih =>
    rw [List.mem_cons, not_or] at other
    obtain ⟨here, behind⟩ := other
    rw [List.cons_append, fieldOffset, if_neg (Ne.symm here), ih behind, List.map_cons, List.sum_cons, Nat.add_assoc]

theorem fieldWidth_input {n : Nat} (input : 32 ≤ n) : fieldWidth n = 1 := by
  refine if_neg fun listed => ?_
  simp only [twoByteFields, List.mem_cons, List.not_mem_nil, or_false] at listed
  omega

/-- Fields of one byte each lie one byte apart. -/
theorem fieldOffset_range' (a len j : Nat) (input : 32 ≤ a) (inside : j < len) : fieldOffset (List.range' a len) (a + j) = j := by
  induction len generalizing a j with
  | zero => cases inside
  | succ len ih =>
    rw [List.range'_succ]
    cases j with
    | zero => exact if_pos rfl
    | succ j =>
      rw [fieldOffset, if_neg (by omega), fieldWidth_input input, show a + (j + 1) = a + 1 + j by omega,
        ih (a + 1) j (by omega) (by omega), Nat.add_comm]

theorem blockFields_eq : blockFields = List.range' 1 31 ++ List.range' 40 80 := by
  rw [blockFields, List.range_eq_range', List.range_eq_range']
  rfl

theorem mem_blockFields (n : Nat) : n ∈ blockFields ↔ (1 ≤ n ∧ n ≤ 31) ∨ (40 ≤ n ∧ n ≤ 119) := by
  rw [blockFields_eq, List.mem_append, List.mem_range'_1, List.mem_range'_1]
  omega

/-- The fields of the inputs take a byte each, from byte 49 on. -/
theorem inputFields_offset {j : Nat} (inside : j < 80) : fieldOffset blockFields (40 + j) = 49 + j := by
  have first : (40 + j) ∉ List.range' 1 31 := fun mem => by
    have := List.mem_range'_1.mp mem
    omega
  rw [blockFields_eq, fieldOffset_behind first, fieldOffset_range' 40 80 j (by omega) inside]
  rfl

theorem valuesOf_place {block : List Byte} : ∀ x ∈ fieldPlaces, valuesOf block x.1 = fieldAt block x.2.1 x.2.2 := by
  intro x mem
  obtain ⟨listed, place, width⟩ := fieldPlaces_offset x mem
  rw [valuesOf, blockValue_readFields listed, place, width]

theorem valuesOf_input {block : List Byte} {j : Nat} (inside : j < 80) : valuesOf block (40 + j) = fieldAt block (49 + j) 1 := by
  rw [valuesOf, blockValue_readFields ((mem_blockFields _).mpr (by omega)), inputFields_offset inside, fieldWidth_input (by omega)]

/-! ### The test of each field -/

theorem inRange_iff (lo hi n : Nat) : inRange lo hi n = true ↔ lo ≤ n ∧ n ≤ hi := by simp [inRange]

theorem inRangeBy_iff (unit lo hi n : Nat) : inRangeBy unit lo hi n = true ↔ lo ≤ n ∧ n ≤ hi ∧ unit ∣ n := by
  rw [inRangeBy, Bool.and_eq_true, inRange_iff, decide_eq_true_iff, Nat.dvd_iff_mod_eq_zero, and_assoc]

section
variable (v : Nat → Nat)

theorem fieldPasses_range : ∀ x ∈ [(1, 0, 3), (2, 2, 8), (3, 2, 8), (5, 3, 15), (6, 0, 3), (7, 1, 16), (8, 50, 20000), (9, 10, 1000),
    (10, 1, 15), (11, 3, 30), (14, 1, 64), (15, 1, 65534), (17, 1, 6), (24, 0, 30), (25, 1, 120), (26, 10, 300), (27, 10, 255)],
    fieldPasses v x.1 = true ↔ x.2.1 ≤ v x.1 ∧ v x.1 ≤ x.2.2 := by
  simp only [List.forall_mem_cons, List.not_mem_nil, false_implies, implies_true, and_true]
  exact ⟨inRange_iff .., inRange_iff .., inRange_iff .., inRange_iff .., inRange_iff .., inRange_iff .., inRange_iff .., inRange_iff ..,
    inRange_iff .., inRange_iff .., inRange_iff .., inRange_iff .., inRange_iff .., inRange_iff .., inRange_iff .., inRange_iff ..,
    inRange_iff ..⟩

theorem fieldPasses_rangeBy : ∀ x ∈ [(4, 10, 50, 2550), (12, 100, 100, 10000), (13, 100, 100, 2000)],
    fieldPasses v x.1 = true ↔ x.2.2.1 ≤ v x.1 ∧ v x.1 ≤ x.2.2.2 ∧ x.2.1 ∣ v x.1 := by
  simp only [List.forall_mem_cons, List.not_mem_nil, false_implies, implies_true, and_true]
  exact ⟨inRangeBy_iff .., inRangeBy_iff .., inRangeBy_iff ..⟩

theorem fieldPasses_spin : fieldPasses v 16 = true ↔ 2 ≤ v 16 ∧ v 16 ≤ 65535 ∧ v 15 < v 16 := by
  change (inRange 2 65535 (v 16) && decide (v 15 < v 16)) = true ↔ _
  rw [Bool.and_eq_true, inRange_iff, decide_eq_true_iff, and_assoc]

theorem boundaryPasses_iff (i : Nat) : boundaryPasses v i = true ↔
    v 17 ≤ i ∨ (v (18 + i) ≤ 1439 ∧ (i = 0 ∨ v (17 + i) < v (18 + i))) := by
  simp only [boundaryPasses, Bool.or_eq_true, Bool.and_eq_true, inRange_iff, decide_eq_true_eq, Nat.zero_le, true_and]

theorem fieldPasses_boundary : ∀ i, i < 6 → fieldPasses v (18 + i) = boundaryPasses v i := by
  intro i inside
  interval_cases i
  all_goals rfl

theorem fieldPasses_input {n : Nat} (low : 40 ≤ n) (high : n < 120) : fieldPasses v n = inputFieldPasses v n := by
  interval_cases n
  all_goals rfl

/-- The test of an input's field by its place among the input's five. -/
theorem inputFieldPasses_of {n : Nat} : ((n - 40) % 5 = 0 ∨ (n - 40) % 5 = 2 ∨ (n - 40) % 5 = 3 → inputFieldPasses v n = inRange 0 1 (v n))
    ∧ ((n - 40) % 5 = 1 → inputFieldPasses v n = inRange 0 3 (v n))
    ∧ ((n - 40) % 5 = 4 → inputFieldPasses v n = rolePasses v ((n - 40) / 5)) := by
  unfold inputFieldPasses
  generalize (n - 40) % 5 = place
  refine ⟨?_, ?_, ?_⟩
  · rintro (rfl | rfl | rfl)
    all_goals rfl
  · rintro rfl
    rfl
  · rintro rfl
    rfl

theorem fieldPasses_flag {i j : Nat} (inside : i < 16) (flag : j ∈ [0, 2, 3]) :
    fieldPasses v (40 + 5 * i + j) = true ↔ v (40 + 5 * i + j) ≤ 1 := by
  have flag : j = 0 ∨ j = 2 ∨ j = 3 := by simpa using flag
  have low : 40 ≤ 40 + 5 * i + j := by omega
  have high : 40 + 5 * i + j < 120 := by omega
  have range := (fieldPasses_input v low high).trans ((inputFieldPasses_of v).1 (by omega))
  rw [range, inRange_iff]
  exact and_iff_right (Nat.zero_le _)

theorem fieldPasses_edges {i : Nat} (inside : i < 16) : fieldPasses v (41 + 5 * i) = true ↔ v (41 + 5 * i) ≤ 3 := by
  have low : 40 ≤ 41 + 5 * i := by omega
  have high : 41 + 5 * i < 120 := by omega
  have range := (fieldPasses_input v low high).trans ((inputFieldPasses_of v).2.1 (by omega))
  rw [range, inRange_iff]
  exact and_iff_right (Nat.zero_le _)

theorem rolePasses_iff (i : Nat) : rolePasses v i = true ↔ v (44 + 5 * i) = 0
    ∨ ((v (44 + 5 * i) = 1 ∧ v 1 % 2 = 1 ∨ v (44 + 5 * i) = 2 ∧ 2 ≤ v 1 ∨ v (44 + 5 * i) = 3 ∧ 2 ≤ v 1)
      ∧ ∀ j, j < i → v (44 + 5 * j) ≠ v (44 + 5 * i)) := by
  have placed : (if v (44 + 5 * i) = 1 then decide (v 1 % 2 = 1) else decide (2 ≤ v 1)) = true ↔
      (v (44 + 5 * i) = 1 ∧ v 1 % 2 = 1) ∨ (v (44 + 5 * i) ≠ 1 ∧ 2 ≤ v 1) := by
    by_cases breaker : v (44 + 5 * i) = 1
    · simp [breaker]
    · simp [breaker]
  have fresh : ((List.range i).all fun j => !decide (v (44 + 5 * j) = v (44 + 5 * i))) = true ↔
      ∀ j, j < i → v (44 + 5 * j) ≠ v (44 + 5 * i) := by simp
  simp only [rolePasses, Bool.and_eq_true, Bool.or_eq_true, inRange_iff, decide_eq_true_eq, placed, fresh]
  constructor
  · rintro ⟨⟨_, code⟩, free | ⟨role, new⟩⟩
    · exact .inl free
    · by_cases free : v (44 + 5 * i) = 0
      · exact .inl free
      · exact .inr ⟨by omega, new⟩
  · rintro (free | ⟨role, new⟩)
    · exact ⟨by omega, .inl free⟩
    · exact ⟨by omega, .inr ⟨by omega, new⟩⟩

theorem fieldPasses_role {i : Nat} (inside : i < 16) : fieldPasses v (44 + 5 * i) = rolePasses v i := by
  have low : 40 ≤ 44 + 5 * i := by omega
  have high : 44 + 5 * i < 120 := by omega
  have role := (fieldPasses_input v low high).trans ((inputFieldPasses_of v).2.2 (by omega))
  have input : (44 + 5 * i - 40) / 5 = i := by omega
  rwa [input] at role

theorem keysComplete_iff : keysComplete v = true ↔
    v 1 < 2 ∨ ((∃ i, i < 16 ∧ v (44 + 5 * i) = 2) ∧ ∃ i, i < 16 ∧ v (44 + 5 * i) = 3) := by
  simp [keysComplete]

/-! ### The first failing field -/

theorem find_sorted {p : Nat → Bool} {l : List Nat} (sorted : l.Pairwise (· < ·)) (n : Nat) :
    l.find? p = some n ↔ n ∈ l ∧ p n = true ∧ ∀ m, m < n → m ∈ l → p m = false := by
  induction l with
  | nil => simp
  | cons x xs ih =>
    obtain ⟨above, sorted⟩ := List.pairwise_cons.mp sorted
    cases holds : p x with
    | true =>
      rw [List.find?_cons_of_pos holds, Option.some_inj]
      constructor
      · rintro rfl
        refine ⟨List.mem_cons_self .., holds, fun m below mem => ?_⟩
        obtain rfl | mem := List.mem_cons.mp mem
        · exact absurd below (Nat.lt_irrefl _)
        · exact absurd (above m mem) (Nat.lt_asymm below)
      · rintro ⟨mem, _, none⟩
        obtain rfl | mem := List.mem_cons.mp mem
        · rfl
        · exact absurd holds (by rw [none x (above n mem) (List.mem_cons_self ..)]; nofun)
    | false =>
      rw [List.find?_cons_of_neg (by rw [holds]; nofun), ih sorted]
      constructor
      · rintro ⟨mem, found, none⟩
        refine ⟨List.mem_cons_of_mem _ mem, found, fun m below mem => ?_⟩
        obtain rfl | mem := List.mem_cons.mp mem
        · exact holds
        · exact none m below mem
      · rintro ⟨mem, found, none⟩
        refine ⟨(List.mem_cons.mp mem).resolve_left ?_, found, fun m below mem => none m below (List.mem_cons_of_mem _ mem)⟩
        rintro rfl
        rw [holds] at found
        cases found

theorem testedFields_sorted : (blockFields ++ [120]).Pairwise (· < ·) := by
  rw [blockFields_eq]
  refine List.pairwise_append.mpr ⟨List.pairwise_append.mpr ⟨List.pairwise_lt_range' .., List.pairwise_lt_range' .., ?_⟩,
    List.pairwise_singleton .., ?_⟩
  · intro a first b second
    rw [List.mem_range'_1] at first second
    omega
  · intro a block b last
    rw [List.mem_append, List.mem_range'_1, List.mem_range'_1] at block
    rw [List.mem_singleton] at last
    omega

theorem mem_testedFields (n : Nat) : n ∈ blockFields ++ [120] ↔ 1 ≤ n ∧ n ≤ 31 ∨ 40 ≤ n ∧ n ≤ 120 := by
  rw [List.mem_append, mem_blockFields, List.mem_singleton]
  omega

theorem firstFailing_iff (n : Nat) : firstFailing v = some n ↔ (1 ≤ n ∧ n ≤ 31 ∨ 40 ≤ n ∧ n ≤ 120) ∧ fieldPasses v n = false
    ∧ ∀ m, m < n → (1 ≤ m ∧ m ≤ 31 ∨ 40 ≤ m ∧ m ≤ 120) → fieldPasses v m = true := by
  rw [firstFailing, find_sorted testedFields_sorted]
  simp only [mem_testedFields, Bool.not_eq_true', Bool.not_eq_false']

end

/-! ### The configuration of the inputs -/

theorem inputConfigs_get (f : Nat → InputConfig) (i : InputNo) : (inputConfigs f)[i.val] = f i.val := by
  fin_cases i
  all_goals rfl

theorem RecordedEdges.ofCode_eq {n : Nat} (code : n ≤ 3) :
    RecordedEdges.ofCode n = [RecordedEdges.none, .rising, .falling, .both].getD n .both := by
  interval_cases n
  all_goals rfl

theorem InputRole.ofCode_eq {n : Nat} (code : n ≤ 3) :
    InputRole.ofCode n = [InputRole.none, .breaker, .handKey, .takeKey].getD n .none := by
  interval_cases n
  all_goals rfl

/-! ### The command -/

section
variable {s : State} {block : List Byte}

theorem State.configure_length (length : block.length ≠ 129) : State.configure block s = s.refuse .configure .length := if_pos length

theorem State.configure_of (length : block.length = 129) : State.configure block s = (match s.lpt.nodeState with
    | .configured => s.refuse .configure .alreadyConfigured
    | .active => s.refuse .configure .state
    | .unconfigured =>
      match firstFailing (valuesOf block) with
      | some n => s.respond [0x02#8, CommandCode.configure.byte, Reason.field.byte, BitVec.ofNat 8 n]
      | none => (s.takeConfig (configOf (valuesOf block))).done .configure []) := if_neg (not_not.mpr length)

theorem State.configure_configured (length : block.length = 129) (configured : s.lpt.nodeState = .configured) :
    State.configure block s = s.refuse .configure .alreadyConfigured := by rw [State.configure_of length, configured]

theorem State.configure_active (length : block.length = 129) (active : s.lpt.nodeState = .active) :
    State.configure block s = s.refuse .configure .state := by rw [State.configure_of length, active]

theorem State.configure_field {n : Nat} (length : block.length = 129) (unconfigured : s.lpt.nodeState = .unconfigured)
    (fails : firstFailing (valuesOf block) = some n) :
    State.configure block s = s.respond [0x02#8, CommandCode.configure.byte, Reason.field.byte, BitVec.ofNat 8 n] := by
  rw [State.configure_of length, unconfigured, fails]

theorem State.configure_taken (length : block.length = 129) (unconfigured : s.lpt.nodeState = .unconfigured)
    (passes : firstFailing (valuesOf block) = none) :
    State.configure block s = (s.takeConfig (configOf (valuesOf block))).done .configure [] := by
  rw [State.configure_of length, unconfigured, passes]

end

/-- Settles O12: the five answers, the layout, the tests field by field, the configuration. -/
theorem configureAnswers : Obligations.ConfigureAnswers := by
  refine ⟨fun w block s => ?command, fun block => ⟨valuesOf_place, fun j => valuesOf_input⟩, fun v =>
    ⟨fieldPasses_range v, fieldPasses_rangeBy v, fieldPasses_spin v, fun i inside => ?_, ?_, fun i inside => ?_, keysComplete_iff v,
      firstFailing_iff v, ?config⟩⟩
  case command =>
    intro a answers opened
    have run : exec (.configure w block) s = .next (a.viaPort (State.configure block)).finish := rfl
    rw [State.viaPort_open opened] at run
    have answered {t : State} (is : State.configure block a = t) : exec (.configure w block) s = .next t.finish := is ▸ run
    exact ⟨fun unconfigured length passes => answered (State.configure_taken length unconfigured passes),
      fun length => answered (State.configure_length length), fun length configured => answered (State.configure_configured length configured),
      fun length active => answered (State.configure_active length active),
      fun n length unconfigured fails => answered (State.configure_field length unconfigured fails)⟩
  case config =>
    intro c
    refine ⟨⟨rfl, rfl⟩, ⟨rfl, rfl, rfl, rfl⟩, ⟨rfl, rfl, rfl, rfl, rfl, rfl⟩, ⟨rfl, rfl, rfl, rfl, rfl⟩, rfl, ⟨rfl, rfl, rfl, rfl⟩,
      ⟨rfl, rfl, rfl, rfl⟩, fun i => ?_⟩
    intro f
    have input : c.inputs[i.val] = inputConfigOf v i.val := inputConfigs_get ..
    have after (j : Nat) : f + j = 40 + j + 5 * i.val := by omega
    rw [input, after, after, after, after]
    exact ⟨rfl, fun code => RecordedEdges.ofCode_eq code, rfl, rfl, fun code => InputRole.ofCode_eq code⟩
  · rw [fieldPasses_boundary v i inside]
    exact boundaryPasses_iff v i
  · simp only [List.forall_mem_cons, List.not_mem_nil, false_implies, implies_true, and_true]
    exact ⟨rfl, rfl, rfl, rfl⟩
  · exact ⟨fun j => fieldPasses_flag v inside, fieldPasses_edges v inside, (fieldPasses_role v inside).symm ▸ rolePasses_iff v i⟩

end Sys2Proof.Machine
end
